-- ==== Sys2Proof/Word.lean ====
section
/-! DEFINITION. The word types of the KN-1600 (R12: little-endian, bit 0 least significant; R20, R52). -/

namespace Sys2Proof

/-- One byte of memory. -/
abbrev Byte := BitVec 8
/-- A 16-bit word. -/
abbrev W16 := BitVec 16
/-- A 32-bit register value (R20). -/
abbrev W32 := BitVec 32
/-- A 64-bit pair: an address or a witness (R23). -/
abbrev W64 := BitVec 64
/-- An instruction (R45). -/
abbrev W96 := BitVec 96
/-- A quad (R23), the widest operand. -/
abbrev W128 := BitVec 128

end Sys2Proof
end

