-- ==== Sys2Proof/Config.lean ====
section
/-! DEFINITION. What the manual leaves to each chip or to no rule at all. A constant here has no body, so no proof can
see its value: a statement that mentions one holds whatever it is. The assumption log names each. -/

namespace Sys2Proof.Config

/-- By how many units in the last place an approximate function (R165: the opcode and the operand) is delivered away from
the correctly rounded value; taken only within the error bound. A function of the operand alone (R156). -/
opaque approxOffset : Nat → W32 → Int

/-- The n-th free bit string of the model, for values the manual leaves open. -/
opaque freeWord : Nat → BitVec 512

/-- The n-th free choice: SEQNO starts, keys drawn at random. -/
opaque freeNat : Nat → Nat

/-- The device's cryptography: keys are fused at manufacture and the manual gives no key values, so the text of a
certificate, a signature, a digest or a key agreement is an uninterpreted function of what goes into it. -/
opaque crypto : Nat → List Byte → List Byte

/-- The memory key derived at VFON or drawn at random (R491). -/
opaque deriveKey : Nat → Nat → BitVec 512

/-- The MAC of a line or a node under a key and a counter (R494, R495). -/
opaque mac : BitVec 512 → Nat → List Byte → BitVec 64

/-- Energy units charged to a VF by the power model that the manual leaves out (R469). -/
opaque energy : Nat → Nat

/-- AES-256-XTS over a 32-byte sector under the two keys of a VF and a tweak (R492): the manual names the function and does not define it. It is a
permutation, whose inverse decrypts. -/
opaque xts : BitVec 512 → BitVec 128 → Equiv.Perm (BitVec 256)

/-- Whether the accesses of HBM4E in a cycle found a correctable error at a channel's address (the channel number times `2^40` plus the address):
the manual counts such errors and gives no rule for when one occurs (R428). -/
opaque hbmCorrected : Nat → Nat → Bool

/-- Where the firmware code region of a die begins, in units of 256 bytes: the manual gives the region no address (R479). -/
opaque codeBase : Nat → Nat

end Sys2Proof.Config
end

