-- ==== Sys2Proof/Machine/Store.lean ====
section
/-! DEFINITION. Sparse plain data in one canonical form: a list of (key, value) pairs with strictly rising keys and no
entry equal to the default, so that equal contents are equal lists. Memory, register files, counters and every table of
named things (groups, blocks, requests) are stores. -/

namespace Sys2Proof.Machine

/-- A sparse map: keys strictly rising; a key not listed reads as the default its reader names. -/
abbrev Store (β : Type) := List (Nat × β)

/-- Read key `k`; an unlisted key reads as `d`. -/
def Store.get {β : Type} (d : β) (m : Store β) (k : Nat) : β :=
  match m with
  | [] => d
  | (k', v) :: rest => if k' = k then v else Store.get d rest k

/-- Remove key `k`. -/
def Store.del {β : Type} (m : Store β) (k : Nat) : Store β :=
  match m with
  | [] => []
  | (k', v) :: rest => if k' = k then Store.del rest k else (k', v) :: Store.del rest k

/-- Put `v` at key `k`, keeping the keys rising. -/
def Store.put {β : Type} (m : Store β) (k : Nat) (v : β) : Store β :=
  match m with
  | [] => [(k, v)]
  | (k', v') :: rest =>
    if k < k' then (k, v) :: (k', v') :: rest
    else if k' = k then (k, v) :: rest
    else (k', v') :: Store.put rest k v

/-- Write `v` at key `k`; writing the default removes the entry, which keeps the form canonical. -/
def Store.set {β : Type} [DecidableEq β] (d : β) (m : Store β) (k : Nat) (v : β) : Store β :=
  if v = d then Store.del m k else Store.put m k v

/-- The entry at key `k`, if there is one. -/
def Store.find {β : Type} (m : Store β) (k : Nat) : Option β :=
  match m with
  | [] => none
  | (k', v) :: rest => if k' = k then some v else Store.find rest k

/-- Change the entry at key `k` by `f`, where there is one. -/
def Store.upd {β : Type} (m : Store β) (k : Nat) (f : β → β) : Store β :=
  match m with
  | [] => []
  | (k', v) :: rest => if k' = k then (k', f v) :: rest else (k', v) :: Store.upd rest k f

/-- The keys rise strictly. -/
def Store.sorted {β : Type} : Store β → Bool
  | [] => true
  | [_] => true
  | (k, _) :: (k', v') :: rest => decide (k < k') && Store.sorted ((k', v') :: rest)

/-- The canonical form with default `d`: keys rising and no entry equal to `d`. -/
def Store.wf {β : Type} [DecidableEq β] (d : β) (m : Store β) : Bool :=
  Store.sorted m && m.all (fun e => decide (e.2 ≠ d))

/-- The values, in key order. -/
def Store.vals {β : Type} (m : Store β) : List β := m.map Prod.snd

/-- The least number not used as a key at or above `n`, looking `fuel` numbers ahead. -/
def Store.fresh {β : Type} (m : Store β) : Nat → Nat → Nat
  | _, 0 => 0
  | n, fuel + 1 => if (Store.find m n).isNone then n else Store.fresh m (n + 1) fuel

end Sys2Proof.Machine
end

