-- ==== Sys2Proof/Syntax.lean ====
section
/-! DEFINITION. The instructions and events of the KN-1600: one constructor of `Instr` per row of the opcode table.
An instruction carries the fields of its format (R52, R53), which fill its 96 bits together with the opcode.
An event or command carries what names it: an agent, a pending operation of the state, or the data it brings in.
spec/95_what_each_step_holds.md lists what comes about inside a step. -/

namespace Sys2Proof

/-- The fields of bits 85:60 that every format holds (R52); the opcode is the constructor of `Instr`. -/
structure Hdr where
  wbs  : BitVec 1
  greg : BitVec 9
  gbit : BitVec 5
  gneg : BitVec 1
  dst  : BitVec 10
  deriving DecidableEq, Repr

/-- Format G (R53). -/
structure FmtG where
  h : Hdr
  a : BitVec 10
  b : BitVec 10
  c : BitVec 10
  md : BitVec 30
  deriving DecidableEq, Repr

/-- Format K (R53). -/
structure FmtK where
  h : Hdr
  a : BitVec 10
  b : BitVec 10
  imm : BitVec 32
  md : BitVec 8
  deriving DecidableEq, Repr

/-- Format M (R53). -/
structure FmtM where
  h : Hdr
  a : BitVec 10
  b : BitVec 10
  c : BitVec 10
  off : BitVec 20
  width : BitVec 4
  hint : BitVec 3
  scope : BitVec 3
  deriving DecidableEq, Repr

/-- Format J (R53). -/
structure FmtJ where
  h : Hdr
  off : BitVec 27
  tslot : BitVec 3
  md : BitVec 30
  deriving DecidableEq, Repr

/-- Format X (R53). -/
structure FmtX where
  h : Hdr
  slota : BitVec 6
  slotb : BitVec 6
  acc : BitVec 8
  c : BitVec 10
  etype : BitVec 5
  gsz : BitVec 2
  rnd : BitVec 2
  ovf : BitVec 2
  outt : BitVec 5
  xflg : BitVec 14
  deriving DecidableEq, Repr

/-- Format E (R53). -/
structure FmtE where
  h : Hdr
  a : BitVec 10
  b : BitVec 10
  c : BitVec 10
  soff : BitVec 18
  width : BitVec 4
  dims : BitVec 3
  bt : BitVec 1
  eflg : BitVec 4
  deriving DecidableEq, Repr

/-- Format S (R53); `pad` is bits 19:0, which R53 requires to be zero. -/
structure FmtS where
  h : Hdr
  a : BitVec 10
  b : BitVec 10
  imm : BitVec 16
  sub : BitVec 4
  pad : BitVec 20
  deriving DecidableEq, Repr

/-- The owner tag of an SRAM line in which an uncorrectable error was found (R379, R380). -/
inductive SramOwner where
  | free
  | l1 (vf line : Nat)
  | block (b : Nat)
  | image (g : Nat)
  | firmware
  deriving DecidableEq, Repr

/-- What the sector code finds when a sector is read (R425). -/
inductive EccResult where
  | clean
  | corrected
  | uncorrectable
  deriving DecidableEq, Repr

/-- Who writes a register (R13): the access codes FW and HM admit one writer each. -/
inductive Writer where
  | firmware
  | hostManager
  | other
  deriving DecidableEq, Repr

/-- What the boot ROM finds in the two copies of the flash image (R475, R476): the header fields the checks read and the
verdicts of the hash and the signature, which the manual gives no key values for. -/
structure ImageView where
  /-- The 1 KiB header and the body, as the flash holds them (R475). -/
  header : List (BitVec 8)
  body   : List (BitVec 8)
  /-- The digest of PUBKEY is in the fuse block and not revoked, and SIG verifies (R476 steps 3 and 4): the manual gives no key and defines neither function. -/
  keyOk  : Bool
  sigOk  : Bool
  /-- The groups that the firmware block is started with: no field gives them. -/
  groups : Nat
  deriving DecidableEq, Repr

/-- The configuration registers that a TDISP lock freezes (R485). -/
inductive CfgReg where
  | command (vf : Nat)
  | devctl (vf : Nat)
  | sriovControl
  | numVfs
  | pageSize
  | vfBar0
  | vfBar1
  | ideCtl (stream : Nat)
  | ideRid1 (stream : Nat)
  | ideRid2 (stream : Nat)
  deriving DecidableEq, Repr

/-- A message of the fabric transaction layer (R512). -/
structure FabMsg where
  kind  : Nat
  crit  : Bool
  nc    : Bool
  poison : Bool
  src   : Nat
  ndir  : Nat
  slice : Nat
  status : Nat
  tag   : Nat
  fa    : Nat
  stamp : Nat
  cseq  : W32
  off   : Nat
  len   : Nat
  aop   : Nat
  wid   : Nat
  /-- Response to RD: the directory lists another holder (R523). -/
  shared : Bool
  /-- The payload bytes. -/
  data  : List Byte
  deriving DecidableEq, Repr

/-- One constructor per row of the opcode table. -/
inductive Instr where
  /-- ADD (R123): G-format add: writes fit(a + b) in each passing thread. -/
  | add (f : FmtG)
  /-- ADD_K (R123): K-format add with a 32-bit immediate as source B. -/
  | addK (f : FmtK)
  /-- SUB (R123): Writes fit(a - b) in each passing thread. -/
  | sub (f : FmtG)
  /-- ADDC (R124): Adds a, b and a carry-in bit and writes the sum and carry-out into a pair. -/
  | addc (f : FmtG)
  /-- SUBB (R124): Subtracts b and a borrow-in bit from a and writes the difference and borrow-out into a pair. -/
  | subb (f : FmtG)
  /-- MUL (R125): G-format mul: writes the low half of a times b. -/
  | mul (f : FmtG)
  /-- MUL_K (R125): K-format mul with a 32-bit immediate multiplier. -/
  | mulK (f : FmtK)
  /-- MULH (R125): Writes the high half of the double-width product. -/
  | mulh (f : FmtG)
  /-- MAD (R125): Writes wrap(a times b plus c). -/
  | mad (f : FmtG)
  /-- MADH (R125): Writes the high half of a times b plus c. -/
  | madh (f : FmtG)
  /-- DIV (R126): Integer division rounding toward zero; a zero divisor writes all ones or parks with INTDIV. -/
  | div (f : FmtG)
  /-- REM (R126): Integer remainder with the sign of a; a zero divisor writes a or parks with INTDIV. -/
  | rem (f : FmtG)
  /-- MIN (R128): Writes the smaller integer operand. -/
  | min (f : FmtG)
  /-- MAX (R128): Writes the larger integer operand. -/
  | max (f : FmtG)
  /-- ABS (R128): Writes fit(|a|). -/
  | abs (f : FmtG)
  /-- NEG (R128): Writes fit(-a). -/
  | neg (f : FmtG)
  /-- CLAMP (R128): Writes min(max(a, b), c). -/
  | clamp (f : FmtG)
  /-- AND (R129): G-format bitwise AND. -/
  | and (f : FmtG)
  /-- AND_K (R129): K-format bitwise AND with a 32-bit immediate. -/
  | andK (f : FmtK)
  /-- OR (R129): G-format bitwise OR. -/
  | or (f : FmtG)
  /-- OR_K (R129): K-format bitwise OR with a 32-bit immediate. -/
  | orK (f : FmtK)
  /-- XOR (R129): G-format bitwise XOR. -/
  | xor (f : FmtG)
  /-- XOR_K (R129): K-format bitwise XOR with a 32-bit immediate. -/
  | xorK (f : FmtK)
  /-- ANDN (R129): Writes a AND NOT b. -/
  | andn (f : FmtG)
  /-- SHL (R130): Shifts left, filling with zeros. -/
  | shl (f : FmtG)
  /-- SHR (R130): Shifts right, filling with zeros. -/
  | shr (f : FmtG)
  /-- SRA (R130): Shifts right, filling with the sign bit. -/
  | sra (f : FmtG)
  /-- ROT (R130): Rotates toward the most significant bit by n mod w. -/
  | rot (f : FmtG)
  /-- BFE (R131): Extracts a bit field given by POS and LEN. -/
  | bfe (f : FmtG)
  /-- BFI (R131): Inserts the low bits of b into a bit field of a. -/
  | bfi (f : FmtG)
  /-- POPC (R132): Writes the number of ones. -/
  | popc (f : FmtG)
  /-- CLZ (R132): Writes the number of leading zeros. -/
  | clz (f : FmtG)
  /-- CTZ (R132): Writes the number of trailing zeros. -/
  | ctz (f : FmtG)
  /-- BREV (R132): Reverses the bit order. -/
  | brev (f : FmtG)
  /-- CMP (R133): Compares integers and writes one predicate bit. -/
  | cmp (f : FmtG)
  /-- SEL (R134): Writes a or b according to a predicate bit. -/
  | sel (f : FmtG)
  /-- MOV (R135): Copies a register, pair, quad or special. -/
  | mov (f : FmtG)
  /-- MOVK (R135): Writes a 32-bit immediate, sign-extended or into the high register. -/
  | movk (f : FmtK)
  /-- LEA (R136): G-format lea: forms a 64-bit address from a base and a scaled index. -/
  | lea (f : FmtG)
  /-- LEA_K (R136): K-format lea with an immediate index. -/
  | leaK (f : FmtK)
  /-- VBC (R141): Broadcasts lane L's value to every participating lane. -/
  | vbc (f : FmtG)
  /-- RDLANE (R141): Reads lane L of a vector register into a scalar destination. -/
  | rdlane (f : FmtG)
  /-- WRLANE (R141): Writes a uniform value into lane L of a vector register. -/
  | wrlane (f : FmtG)
  /-- SHFL (R142): Moves values between lanes within segments. -/
  | shfl (f : FmtG)
  /-- LSH (R143): Shifts values across lanes and fills the edge lanes. -/
  | lsh (f : FmtG)
  /-- VOTE (R144): Combines one predicate bit across the participating lanes. -/
  | vote (f : FmtG)
  /-- LRED (R146): Reduces values across each segment. -/
  | lred (f : FmtG)
  /-- LSCAN (R147): Forms inclusive or exclusive prefixes within each segment. -/
  | lscan (f : FmtG)
  /-- ADDMIN (R148): Writes min(fit(a + b), c). -/
  | addmin (f : FmtG)
  /-- ADDMAX (R148): Writes max(fit(a + b), c). -/
  | addmax (f : FmtG)
  /-- DP4 (R149): Dot product of packed narrow integers added to an accumulator. -/
  | dp4 (f : FmtG)
  /-- FADD (R158): G-format fadd: f32 addition rounded once with RND. -/
  | fadd (f : FmtG)
  /-- FADD_K (R158): K-format fadd with an f32 bit-pattern immediate, rounded with .rne. -/
  | faddK (f : FmtK)
  /-- FSUB (R158): f32 subtraction rounded once. -/
  | fsub (f : FmtG)
  /-- FMUL (R158): G-format fmul: f32 multiplication rounded once. -/
  | fmul (f : FmtG)
  /-- FMUL_K (R158): K-format fmul with an f32 bit-pattern immediate. -/
  | fmulK (f : FmtK)
  /-- FFMA (R158): Fused multiply-add with a single rounding. -/
  | ffma (f : FmtG)
  /-- FMIN (R161): Writes the smaller f32 operand, with NaN handling. -/
  | fmin (f : FmtG)
  /-- FMAX (R161): Writes the larger f32 operand, with NaN handling. -/
  | fmax (f : FmtG)
  /-- FCMP (R162): Compares floats and writes one predicate bit. -/
  | fcmp (f : FmtG)
  /-- FCLASS (R163): Writes a one-hot class mask of a float. -/
  | fclass (f : FmtG)
  /-- FRND (R160): Rounds an f32 to an integral value under RND. -/
  | frnd (f : FmtG)
  /-- FSCALE (R159): Writes a times 2^n, rounded once. -/
  | fscale (f : FmtG)
  /-- FRCP (R164): Correctly rounded reciprocal on the transcendental pipe. -/
  | frcp (f : FmtG)
  /-- FRSQ (R165): Approximate reciprocal square root. -/
  | frsq (f : FmtG)
  /-- FSQRT (R164): Correctly rounded square root. -/
  | fsqrt (f : FmtG)
  /-- FEX2 (R165): Approximate 2^a. -/
  | fex2 (f : FmtG)
  /-- FLG2 (R165): Approximate log2 a. -/
  | flg2 (f : FmtG)
  /-- FSIN (R165): Approximate sine. -/
  | fsin (f : FmtG)
  /-- FCOS (R165): Approximate cosine. -/
  | fcos (f : FmtG)
  /-- FTANH (R165): Approximate hyperbolic tangent. -/
  | ftanh (f : FmtG)
  /-- FSIGM (R165): Approximate logistic sigmoid. -/
  | fsigm (f : FmtG)
  /-- HADD2 (R167): Packed half-precision addition, per element. -/
  | hadd2 (f : FmtG)
  /-- HMUL2 (R167): Packed half-precision multiplication, per element. -/
  | hmul2 (f : FmtG)
  /-- HFMA2 (R167): Packed half-precision fused multiply-add, per element. -/
  | hfma2 (f : FmtG)
  /-- HMAX2 (R167): Packed half-precision maximum, per element. -/
  | hmax2 (f : FmtG)
  /-- DP2 (R168): Two-element packed dot product plus f32, rounded once. -/
  | dp2 (f : FmtG)
  /-- CVT (R171): Converts between numeric types under RND and the overflow policy. -/
  | cvt (f : FmtG)
  /-- PACK (R172): Converts two f32 values to a narrow type and packs them. -/
  | pack (f : FmtG)
  /-- UNPACK (R173): Reads one packed element and writes it as an exact f32. -/
  | unpack (f : FmtG)
  /-- NOP (R184): Continues at the next instruction; with a MARK it is a procedure mark. -/
  | nop (f : FmtG)
  /-- BRA (R185): Transfers passing threads to the J-format target. -/
  | bra (f : FmtJ)
  /-- BRX (R187): Transfers each passing thread to a target from a register pair. -/
  | brx (f : FmtG)
  /-- DBRA (R186): Decrements a counter and branches while it is non-zero. -/
  | dbra (f : FmtJ)
  /-- CALL (R188): Pushes a call entry and transfers to the J-format target. -/
  | call (f : FmtJ)
  /-- CALLX (R188): Pushes a call entry and transfers to a target from a pair. -/
  | callx (f : FmtG)
  /-- RET (R190): Pops to the topmost call entry and returns to its address. -/
  | ret (f : FmtG)
  /-- RGN (R191): Pushes a region entry naming its join address. -/
  | rgn (f : FmtJ)
  /-- JOIN (R192): Pops a matching region entry and waits for the region to close. -/
  | join (f : FmtG)
  /-- BRK (R194): Pops N entries and waits at the join of the outermost region left. -/
  | brk (f : FmtG)
  /-- EXIT (R196): Moves passing threads to Exited. -/
  | exit (f : FmtG)
  /-- YIELD (R197): Ends the path's turn or offers the active place to another group. -/
  | yield (f : FmtG)
  /-- TRAP (R198): Parks passing threads with SYSCALL. -/
  | trap (f : FmtG)
  /-- BKPT (R198): Parks passing threads with WATCH. -/
  | bkpt (f : FmtG)
  /-- LD (R219): Loads global memory into vector registers after the witness is satisfied. -/
  | ld (f : FmtM)
  /-- ST (R221): Stores to global memory and receives the commit witness. -/
  | st (f : FmtM)
  /-- SLD (R220): Scalar load executed once for the path. -/
  | sld (f : FmtM)
  /-- SST (R222): Scalar store executed once for the path. -/
  | sst (f : FmtM)
  /-- PREF (R228): Brings a line into L2 and optionally L1. -/
  | pref (f : FmtM)
  /-- ATOM_ADD (R224): Atomic add at the home, returning the old value and a witness. -/
  | atomAdd (f : FmtM)
  /-- ATOM_MIN (R224): Atomic minimum at the home. -/
  | atomMin (f : FmtM)
  /-- ATOM_MAX (R224): Atomic maximum at the home. -/
  | atomMax (f : FmtM)
  /-- ATOM_AND (R224): Atomic AND at the home. -/
  | atomAnd (f : FmtM)
  /-- ATOM_OR (R224): Atomic OR at the home. -/
  | atomOr (f : FmtM)
  /-- ATOM_XOR (R224): Atomic XOR at the home. -/
  | atomXor (f : FmtM)
  /-- ATOM_EXCH (R224): Atomic exchange at the home. -/
  | atomExch (f : FmtM)
  /-- ATOM_CAS (R224): Atomic compare-and-swap at the home. -/
  | atomCas (f : FmtM)
  /-- RED_ADD (R226): Reduction add at the home, returning only a witness. -/
  | redAdd (f : FmtM)
  /-- RED_MIN (R226): Reduction minimum at the home. -/
  | redMin (f : FmtM)
  /-- RED_MAX (R226): Reduction maximum at the home. -/
  | redMax (f : FmtM)
  /-- RED_AND (R226): Reduction AND at the home. -/
  | redAnd (f : FmtM)
  /-- RED_OR (R226): Reduction OR at the home. -/
  | redOr (f : FmtM)
  /-- RED_XOR (R226): Reduction XOR at the home. -/
  | redXor (f : FmtM)
  /-- WJOIN (R229): Writes the Join of two witnesses. -/
  | wjoin (f : FmtM)
  /-- WJOINR (R230): Joins the witnesses of every passing lane into a scalar pair. -/
  | wjoinr (f : FmtM)
  /-- WTEST (R231): Writes whether a witness is satisfied, without waiting. -/
  | wtest (f : FmtM)
  /-- WWAIT (R232): Waits for a witness and writes its stand-in or normalised value. -/
  | wwait (f : FmtM)
  /-- WCANC (R233): Cancels the engine job named by a future and writes a status code. -/
  | wcanc (f : FmtM)
  /-- WSCOP (R234): Widens the scope of a witness. -/
  | wscop (f : FmtM)
  /-- RDCR (R276): Reads a per-group control register. -/
  | rdcr (f : FmtS)
  /-- WRCR (R277): Writes a per-group control register field by field. -/
  | wrcr (f : FmtS)
  /-- RDFLT (R278): Reads half of the thread's fault record into a quad. -/
  | rdflt (f : FmtS)
  /-- RTE (R279): Returns a handler thread to RESUME or a given address and clears its in-handler mark. -/
  | rte (f : FmtS)
  /-- SYS (R280): Sends a service request to the slice's command processor and waits for the reply. -/
  | sys (f : FmtS)
  /-- HALT (R281): Waits for a non-zero firmware event mask or the timer, then returns and clears it. -/
  | halt (f : FmtS)
  /-- TLBI (R282): Invalidates selected TLB and walker-cache entries package-wide. -/
  | tlbi (f : FmtS)
  /-- LDIO (R283): Reads an I/O register. -/
  | ldio (f : FmtS)
  /-- STIO (R283): Writes an I/O register. -/
  | stio (f : FmtS)
  /-- MBXW (R284): Posts a message to a firmware mailbox outbound ring. -/
  | mbxw (f : FmtS)
  /-- ENGX (R285): Submits a job descriptor to a bulk copy engine and returns a future. -/
  | engx (f : FmtS)
  /-- STRM (R309): Configures an operand queue and starts its affine walk. -/
  | strm (f : FmtE)
  /-- STRMX (R310): Stops or rewinds an operand-queue stream. -/
  | strmx (f : FmtE)
  /-- OQST (R313): Reads the state of an operand queue. -/
  | oqst (f : FmtE)
  /-- LDS (R323): Loads from scratchpad, waiting while the line is Empty. -/
  | lds (f : FmtE)
  /-- STS (R323): Stores to scratchpad and receives a witness. -/
  | sts (f : FmtE)
  /-- PRES (R326): Reads the presence state of a scratchpad line. -/
  | pres (f : FmtE)
  /-- FMASK (R327): Reads the FLTMASK of a group of the block. -/
  | fmask (f : FmtE)
  /-- ATOMS_ADD (R323): Scratchpad atomic add. -/
  | atomsAdd (f : FmtE)
  /-- ATOMS_MIN (R323): Scratchpad atomic minimum. -/
  | atomsMin (f : FmtE)
  /-- ATOMS_MAX (R323): Scratchpad atomic maximum. -/
  | atomsMax (f : FmtE)
  /-- ATOMS_AND (R323): Scratchpad atomic AND. -/
  | atomsAnd (f : FmtE)
  /-- ATOMS_OR (R323): Scratchpad atomic OR. -/
  | atomsOr (f : FmtE)
  /-- ATOMS_XOR (R323): Scratchpad atomic XOR. -/
  | atomsXor (f : FmtE)
  /-- ATOMS_EXCH (R323): Scratchpad atomic exchange. -/
  | atomsExch (f : FmtE)
  /-- ATOMS_CAS (R323): Scratchpad atomic compare-and-swap. -/
  | atomsCas (f : FmtE)
  /-- CPY (R332): Checks and accepts a global-to-scratchpad copy job on the streamer. -/
  | cpy (f : FmtE)
  /-- CPYO (R332): Checks and accepts a scratchpad-to-global copy job on the streamer. -/
  | cpyo (f : FmtE)
  /-- CPYG (R332): Checks and accepts a global-to-global copy job on a bulk engine. -/
  | cpyg (f : FmtE)
  /-- GANG (R348): Writes a validated GANG value. -/
  | gang (f : FmtX)
  /-- OCLM (R351): Claims an operand-memory tile slot, waiting or trying. -/
  | oclm (f : FmtX)
  /-- OREL (R352): Enters the queue to zero and free a tile slot. -/
  | orel (f : FmtX)
  /-- OLD (R353): Copies scratchpad rows into a tile slot via the matrix queue. -/
  | old (f : FmtX)
  /-- MMA (R354): Ganged matrix multiply-accumulate into accumulator units. -/
  | mma (f : FmtX)
  /-- MZERO (R355): Zeroes an accumulator unit or makes an empty scaled tile. -/
  | mzero (f : FmtX)
  /-- SCACC (R356): Folds partial-sum planes into a scaled tile. -/
  | scacc (f : FmtX)
  /-- MDRAIN (R357): Converts an accumulator unit to scratchpad or registers, with optional amax merge. -/
  | mdrain (f : FmtX)
  /-- MRD (R360): Reads a raw accumulator row into lane pairs. -/
  | mrd (f : FmtX)
  /-- BINI (R368): Arms a barrier slot for the block. -/
  | bini (f : FmtS)
  /-- BARR (R369): Arrives at a barrier and waits for the phase to complete. -/
  | barr (f : FmtS)
  /-- BWAIT (R370): Waits until a given barrier phase has completed. -/
  | bwait (f : FmtS)
  /-- BARW (R371): Adds a witness arrival to a barrier slot. -/
  | barw (f : FmtS)
  /-- BINV (R373): Frees a barrier slot, with .force regardless of waiters. -/
  | binv (f : FmtS)
  /-- BQRY (R374): Reads barrier slot state or counts. -/
  | bqry (f : FmtS)
  /-- FETCH_LINE (R48): A thread fetches a 64-byte line and applies translation, consistency, target and parity checks. -/
  | fetchLine (g lane : Nat)
  /-- ISSUE_CYCLE (R305): Each core cycle issues up to eight instructions by tenant deficit counters. -/
  | issueCycle (core : Nat)
  /-- PATH_QUANTUM_EXPIRED (R175): A path that has issued QUANTUM instructions ends its turn and the next ready path is served. -/
  | pathQuantumExpired (g : Nat)
  /-- GROUP_SWAP_OUT (R300): An active group that has waited 16 cycles leaves for the pending set. -/
  | groupSwapOut (g : Nat)
  /-- ACTIVE_PLACE_FILL (R301): A free active place is filled with the oldest ready group of the tenant with the highest counter. -/
  | activePlaceFill (core : Nat)
  /-- TRAP_HANDLER_ENTRY (R262): Parked threads enter the handler once no other thread of the group runs. -/
  | trapHandlerEntry (g : Nat)
  /-- BLOCK_END (R264): A block ends after an unhandled or double fault and passes its records to the command processor. -/
  | blockEnd (b : Nat)
  /-- LOAD_REPLY (R217): A load reply arrives and writes its destination, or is discarded for an exited thread. -/
  | loadReply (r : Nat) (fromL1 : Bool)
  /-- HOME_COMMIT (R236): A home commits a write, stamps it and returns its witness. -/
  | homeCommit (r : Nat)
  /-- ATOMIC_PERFORM (R245): A home performs an atomic as one read and one write with one stamp and replies. -/
  | atomicPerform (r : Nat)
  /-- WITNESS_SATISFIED (R214): A presented witness becomes satisfied and the waiting access proceeds. -/
  | witnessSatisfied (g : Nat)
  /-- GROUP_RETIRE (R196): A group retires once every thread has exited and every reply has arrived, forming its retirement witness. -/
  | groupRetire (g : Nat)
  /-- L1_FILL (R202): L1 fills a line and records its home counter and .pk frontier. -/
  | l1Fill (core vf line : Nat)
  /-- COUNTER_PUBLISH (R413): A home publishes a changed counter on the stamp ring. -/
  | counterPublish (slice home : Nat)
  /-- COUNTER_REPUBLISH (R413): A home republishes each counter at least every 1024 cycles. -/
  | counterRepublish (slice home : Nat)
  /-- RING_MESSAGE_RECEIVE (R414): A core or home applies a received stamp-ring message. -/
  | ringMessageReceive (rcv : Nat) (msg : W64) (bad : Bool)
  /-- RENEWAL_REQUEST (R415): A home whose counter passes the threshold requests a renewal of the stamp space. -/
  | renewalRequest (slice home : Nat)
  /-- RENEWAL_DRAINED (R415): A home stalls, drains and sends its counter with KIND 2. -/
  | renewalDrained (slice home : Nat)
  /-- GENERATION_MESSAGE (R415): The slice controller sends the new generation; WGEN advances and counters restart. -/
  | generationMessage (slice : Nat)
  /-- STREAM_ENTRY_PRODUCE (R309): A stream walk reads one entry and appends it to its queue. -/
  | streamEntryProduce (g q : Nat)
  /-- STREAM_SPILL (R311): With SPILL, an entry beyond 64 goes to the spill ring, or QQUOTA pauses the queue. -/
  | streamSpill (g q : Nat)
  /-- PREEMPT_GROUP (R303): Fine-grained pre-emption writes a group's state to its image. -/
  | preemptGroup (g : Nat)
  /-- COPY_ELEMENT_WRITE (R331): A copy job writes one element, committing with its own stamp. -/
  | copyElementWrite (j : Nat)
  /-- COPY_JOB_COMPLETE (R334): A copy job completes, its lines leave PEND and its future is satisfied. -/
  | copyJobComplete (j : Nat)
  /-- COPY_JOB_STOP (R335): A running job stops when a page loses translation or permission; unwritten bytes are poisoned. -/
  | copyJobStop (j : Nat)
  /-- ENGINE_JOB_START (R447): A bulk engine starts a job whose edges and witness are met. -/
  | engineJobStart (j : Nat)
  /-- GANG_RENDEZVOUS_COMPLETE (R349): Every gang member has arrived and the ganged instruction enters the matrix queue. -/
  | gangRendezvousComplete (b base : Nat)
  /-- GANGMIS_FAILURE (R350): Disagreeing arrivals or a retired member park every arriving thread with GANGMIS. -/
  | gangmisFailure (b base : Nat)
  /-- MATRIX_OP_START (R346): A queued matrix operation starts once earlier conflicting operations complete. -/
  | matrixOpStart (core op : Nat)
  /-- MATRIX_OP_COMPLETE (R347): A matrix operation completes and sets its flags. -/
  | matrixOpComplete (core op : Nat)
  /-- BARRIER_WITNESS_ARRIVAL (R371): A pending barw witness becomes satisfied and counts toward the phase. -/
  | barrierWitnessArrival (slot i : Nat)
  /-- ORPHAN_ARRIVAL (R373): A dropped witness arrival becomes satisfied and increments ORPHAN. -/
  | orphanArrival (core i : Nat)
  /-- HOME_WATCH_ACCEPT (R378): The home accepts a home watch and ARMED becomes 1. -/
  | homeWatchAccept (g n : Nat)
  /-- SCRUB_READ (R379): The SRAM scrubber reads and corrects one line in an idle bank cycle. -/
  | scrubRead (core line : Nat)
  /-- SRAM_UNCORRECTABLE (R380): An uncorrectable SRAM error is handled according to the line's owner. -/
  | sramUncorrectable (core : Nat) (owner : SramOwner)
  /-- CLUSTER_NETWORK_ERROR (R391): An uncorrectable cluster-network transfer ends the accessing block. -/
  | clusterNetworkError (cluster b : Nat)
  /-- BLOCK_PLACE (R395): The distributor places blocks on members that fit, in each cycle. -/
  | blockPlace (slice : Nat)
  /-- LAUNCH_TURN_BEGIN (R396): A launch's turn begins with the initial placement pass. -/
  | launchTurnBegin (l : Nat)
  /-- CAPACITY_HOLD (R399): A block with no possible candidate is held and CAPACITY reported. -/
  | capacityHold (l blockid : Nat)
  /-- REFRESH_DUE (R420): A bank's refresh falls due: REFpb, postpone, or forced REFab. -/
  | refreshDue (ch bank : Nat)
  /-- REFPB_REPAY (R420): An idle bank with debt repays one refresh with REFpb. -/
  | refpbRepay (ch bank : Nat)
  /-- REFRESH_COMPLETE (R420): A refresh ends and waiting accesses and deferred dues proceed. -/
  | refreshComplete (ch bank : Nat)
  /-- ROW_PRECHARGE (R417): A row unused for 1 µs is precharged. -/
  | rowPrecharge (ch bank : Nat)
  /-- ACTIVATION_THRESHOLD (R421): A row reaching 2048 activations gets RFM and its top VF is throttled. -/
  | activationThreshold (ch bank row : Nat)
  /-- THROTTLE_END (R421): A 32 µs activation throttle expires. -/
  | throttleEnd (ch bank vf : Nat)
  /-- TRACKER_WINDOW_END (R421): The 32 ms activation-count window ends. -/
  | trackerWindowEnd (ch bank : Nat)
  /-- ALERT_BACK_OFF (R422): A stack raises ABO; activations stop, REFab if needed, then RFM, and the stall is charged. -/
  | alertBackOff (ch bank : Nat)
  /-- HBM_SCRUB_READ (R427): The channel scrubber reads a sector when the queues are idle. -/
  | hbmScrubRead (ch : Nat) (ecc : EccResult)
  /-- SCRUB_ESCALATE (R427): A behind scrubber issues one read every 4 µs regardless of occupancy. -/
  | scrubEscalate (ch : Nat) (ecc : EccResult)
  /-- HBM_UNCORRECTABLE (R426): An uncorrectable HBM error poisons the sector. -/
  | hbmUncorrectable (ch addr : Nat)
  /-- MAC_MISMATCH (R496): A line or node MAC fails and the covered lines are poisoned. -/
  | macMismatch (line level : Nat)
  /-- ROOT_LOST (R496): No two root copies agree and the region's slice fails. -/
  | rootLost (slice region : Nat)
  /-- LAUNCH (R438): Queue entry that launches the record at ADDR. -/
  | launch (cp q : Nat)
  /-- GRAPH (R445): Queue entry that runs a node table of launches. -/
  | graph (cp q : Nat)
  /-- SIGNAL (R438): Queue entry that sets, adds or stores a joined witness into a word. -/
  | signal (cp q : Nat)
  /-- WAIT (R440): Queue entry that waits on a word under COND. -/
  | wait (cp q : Nat)
  /-- COPY (R446): Queue entry that submits a descriptor to a bulk engine. -/
  | copy (cp q : Nat)
  /-- LAUNCH_COMPLETE (R250): A launch's groups have retired and the completion witness is stored. -/
  | launchComplete (l : Nat)
  /-- GRAPH_NODE_COMPLETE (R445): A node's launch completes and successors whose counters reach zero launch. -/
  | graphNodeComplete (l : Nat)
  /-- ENTRY_SELECT (R439): Every 8 cycles the command processor begins one entry by weighted counters. -/
  | entrySelect (cp : Nat)
  /-- QUEUE_REFILL (R435): The command processor reads a queue's rows and head and rewrites the guest page. -/
  | queueRefill (cp q : Nat)
  /-- REFILL_TIMER (R435): A queue is refilled at least once every 100 µs. -/
  | refillTimer (cp q : Nat)
  /-- DOORBELL (R435): A write to a VF BAR0 doorbell triggers a refill of the queue. -/
  | doorbell (vf q : Nat)
  /-- WAIT_SLOT_POLL (R442): A wait slot re-reads its word every 1 µs. -/
  | waitSlotPoll (cp slot : Nat)
  /-- SPILLED_WAIT_POLL (R442): Spilled waiters are read at least once every 100 µs. -/
  | spilledWaitPoll (cp q : Nat)
  /-- HOLDT_EXPIRED (R436): A waiting queue passes HOLDT and becomes Spilled, freeing its slot. -/
  | holdtExpired (cp q : Nat)
  /-- ENTRY_TIMEOUT (R444): An entry passes TIMEOUT; TIMEDOUT is set and a notice posted. -/
  | entryTimeout (cp q n : Nat)
  /-- NOTICE_POST (R444): A held notice is posted when the host takes a mailbox message. -/
  | noticePost (die : Nat)
  /-- SYS_NOP (R280): Service 0: replies 0. -/
  | sysNop (g : Nat)
  /-- METER (R280): Service 1: replies with a live Parsnip counter. -/
  | meter (g : Nat)
  /-- NOTIFY (R531): Service 3: posts a value to the VF's host notification ring. -/
  | notify (g : Nat)
  /-- TLBINV (R280): Service 4: invalidates the VF's stage-1 entries for a page or all. -/
  | tlbinv (g : Nat)
  /-- SYS_REPLY (R280): The service reply arrives and is written to the sys destination. -/
  | sysReply (g : Nat)
  /-- STAGE2_INVALIDATE_PAGE (R448): Host command 0x01: stage-2 invalidation of one page of a VF. -/
  | stage2InvalidatePage (die : Nat) (cmd : W64)
  /-- STAGE2_INVALIDATE_VF (R448): Host command 0x02: stage-2 invalidation of a whole VF. -/
  | stage2InvalidateVf (die : Nat) (cmd : W64)
  /-- QUEUE_START (R436): Host command 0x10 starts a queue. -/
  | queueStart (die : Nat) (cmd : W64)
  /-- QUEUE_STOP (R436): Host command 0x11 stops a queue. -/
  | queueStop (die : Nat) (cmd : W64)
  /-- MAILBOX_INBOUND (R448): A message arrives in a firmware mailbox inbound ring and sets event bit 0. -/
  | mailboxInbound (die mbx : Nat) (msg : W64)
  /-- HALT_TIMER_EXPIRED (R281): The halt timer expires and sets event bit 3. -/
  | haltTimerExpired (g : Nat)
  /-- MBXIN (R473): A host write posts a value to mailbox 0 inbound. -/
  | mbxin (die : Nat) (msg : W64)
  /-- MBXOUT (R473): A host read returns and removes the oldest outbound message. -/
  | mbxout (die : Nat)
  /-- INPOP (R449): A firmware read returns and removes the oldest inbound message. -/
  | inpop (die mbx : Nat)
  /-- REGISTER_WRITE (R13): A write to a register that has no behaviour of its own, under its access codes. -/
  | registerWrite (who : Writer) (reg : W64) (value : W64)
  /-- POWER_GOOD (R474): Power-good starts boot: Nymlink training and the boot ROM. -/
  | powerGood (die : Nat) (image : ImageView)
  /-- TABLE (R456): Slice command 0x20 sets SLTBASE. -/
  | table (cmd : W64)
  /-- CREATE (R456): Slice command 0x21 creates a slice. -/
  | create (cmd : W64)
  /-- DESTROY (R456): Slice command 0x22 frees a slice and zeroes its state. -/
  | destroy (cmd : W64)
  /-- VFON (R456): Slice command 0x23 enables a VF and installs its key. -/
  | vfon (cmd : W64)
  /-- VFOFF (R456): Slice command 0x24 disables a VF and destroys its key. -/
  | vfoff (cmd : W64)
  /-- LEND (R462): Slice command 0x25 lends a cluster to another slice. -/
  | lend (cmd : W64)
  /-- RECALL (R463): Slice command 0x26 returns a lent cluster within 200 µs. -/
  | recall (cmd : W64)
  /-- RECALL_JOB_DEADLINE (R463): At 100 µs after a recall, remaining streamer jobs are stopped or removed. -/
  | recallJobDeadline (cluster : Nat)
  /-- MERGE (R465): Slice command 0x27 absorbs one slice into another. -/
  | merge (cmd : W64)
  /-- SPLIT (R465): Slice command 0x28 splits clusters and VFs into a new slice. -/
  | split (cmd : W64)
  /-- RESIZE (R465): Slice command 0x29 changes a slice's owned clusters. -/
  | resize (cmd : W64)
  /-- EXPORT (R467): Slice command 0x2A quiesces a slice and writes a sealed blob. -/
  | exportSlice (cmd : W64)
  /-- IMPORT (R467): Slice command 0x2B checks a blob and restores a slice. -/
  | importSlice (cmd : W64)
  /-- CORE (R398): Slice command 0x2C takes a core online or offline. -/
  | core (cmd : W64)
  /-- FLAGS (R456): Slice command 0x2D sets BOOST, RACE and TSLICE. -/
  | flags (cmd : W64)
  /-- REGION (R497): Command 0x30 takes up a region's owner entry and initialises its tree. -/
  | region (cmd : W64)
  /-- RELOAD (R517): Command 0x31 re-reads fabric configuration, buckets and routes. -/
  | reload (cmd : W64)
  /-- QUIESCE_STEP (R464): One step of the quiesce and reshape sequence completes and the next begins. -/
  | quiesceStep (slice : Nat)
  /-- GOURD_EXCHANGE (R461): Halted cores' pools are swapped with the Gourd within 6 µs. -/
  | gourdExchange (slice : Nat) (cores : List Nat)
  /-- HALT_CORES (R460): The slice controller halts a set of cores. -/
  | haltCores (cores : List Nat)
  /-- TIME_SLICE_END (R458): A protected VF's time slice ends and the next VF is swapped in. -/
  | timeSliceEnd (slice : Nat)
  /-- BOOST_LIMIT (R459): The power estimate reaches 1,800 W and boosted slices drop to 1.6 GHz. -/
  | boostLimit
  /-- METER_COPY (R469): Every 100 µs Parsnip writes host-visible copies of the counters. -/
  | meterCopy
  /-- GET_VERSION (R478): SPDM GET_VERSION request. -/
  | getVersion (session : Nat)
  /-- GET_CAPABILITIES (R478): SPDM GET_CAPABILITIES request. -/
  | getCapabilities (session : Nat)
  /-- NEGOTIATE_ALGORITHMS (R478): SPDM NEGOTIATE_ALGORITHMS request. -/
  | negotiateAlgorithms (session : Nat)
  /-- GET_DIGESTS (R478): SPDM GET_DIGESTS request. -/
  | getDigests (session : Nat)
  /-- GET_CERTIFICATE (R478): SPDM GET_CERTIFICATE request. -/
  | getCertificate (session slot : Nat)
  /-- CHALLENGE (R478): SPDM CHALLENGE request. -/
  | challenge (session slot : Nat)
  /-- GET_MEASUREMENTS (R479): Returns measurement blocks computed live by Shallot. -/
  | getMeasurements (session : Nat) (index : Nat)
  /-- KEY_EXCHANGE (R478): SPDM KEY_EXCHANGE opens a session, or Busy beyond 16. -/
  | keyExchange (session : Nat)
  /-- FINISH (R478): SPDM FINISH request. -/
  | finish (session : Nat)
  /-- HEARTBEAT (R478): SPDM HEARTBEAT request. -/
  | heartbeat (session : Nat)
  /-- KEY_UPDATE (R478): SPDM KEY_UPDATE request. -/
  | keyUpdate (session : Nat)
  /-- END_SESSION (R478): SPDM END_SESSION request. -/
  | endSession (session : Nat)
  /-- EVIDENCE (R481): Vendor request returning signed live evidence for a VF. -/
  | evidence (session vf : Nat) (meter : Bool) (nonce : BitVec 256)
  /-- INSTALL (R482): Vendor request installing a VF memory key or slice migration key if LAYOUTGEN matches. -/
  | install (session kind target : Nat) (gen : W64) (key : BitVec 512)
  /-- KEY_PROG (R483): IDE_KM programs a selective stream's keys. -/
  | keyProg (session stream : Nat) (key : BitVec 256)
  /-- K_SET_GO (R483): IDE_KM starts a stream's keys. -/
  | kSetGo (session stream : Nat)
  /-- K_SET_STOP (R483): IDE_KM stops a stream and moves bound locked VFs to ERROR. -/
  | kSetStop (session stream : Nat)
  /-- LOCK_INTERFACE_REQUEST (R504): TDISP request moving a VF to CONFIG_LOCKED. -/
  | lockInterfaceRequest (session : Byte) (msg : List Byte)
  /-- GET_DEVICE_INTERFACE_REPORT (R504): TDISP request returning a portion of the interface report. -/
  | getDeviceInterfaceReport (session : Byte) (msg : List Byte)
  /-- START_INTERFACE_REQUEST (R504): TDISP request moving a locked VF to RUN when the nonce matches. -/
  | startInterfaceRequest (session : Byte) (msg : List Byte)
  /-- STOP_INTERFACE_REQUEST (R484): TDISP request returning a VF to CONFIG_UNLOCKED with a fresh key. -/
  | stopInterfaceRequest (session : Byte) (msg : List Byte)
  /-- TDISP_ABORT (R488): Message 0x3A: the host aborted the DOE object. -/
  | tdispAbort
  /-- FROZEN_REGISTER_WRITE (R485): A configuration write to a frozen register moves the VF to ERROR. -/
  | frozenRegisterWrite (reg : CfgReg) (value : W64)
  /-- WRONG_STREAM_TLP (R483): A TLP in a stream that does not cover its VF is dropped. -/
  | wrongStreamTlp (stream vf : Nat) (posted : Bool)
  /-- HOST_MMIO (R486): Host MMIO to a VF BAR0 is accepted or dropped by TSTATE. -/
  | hostMmio (vf offset : Nat) (write tee : Bool) (stream : Nat)
  /-- NYMLINK_READ (R251): A read from Nymlink is performed at the home. -/
  | nymlinkRead (addr bytes : Nat)
  /-- NYMLINK_WRITE (R437): A write from Nymlink commits at its home. -/
  | nymlinkWrite (addr : Nat) (data : List Byte)
  /-- RD (R519): Fabric read request for a coherent line. -/
  | rd (r : Nat)
  /-- RDX (R519): Fabric read-for-ownership request. -/
  | rdx (r : Nat)
  /-- WR (R523): Fabric write request, applied at the node or answered keep. -/
  | wr (r : Nat)
  /-- ATM (R519): Critical fabric atomic performed at the directory. -/
  | atm (r : Nat)
  /-- PROBE (R522): Periodic counter probe sent to each directory at least every 2 µs. -/
  | probe (dir : Nat)
  /-- RSP (R523): A node response arrives and updates the line state and destinations. -/
  | rsp (m : FabMsg) (port : Nat)
  /-- RCL (R523): A node recall invalidates or makes NC the package's copy. -/
  | rcl (m : FabMsg) (port : Nat)
  /-- FAIL (R524): A directory failover is carried out on FAIL. -/
  | fail (m : FabMsg) (port : Nat)
  /-- BADMSG (R512): A message of unknown KIND is discarded and counted. -/
  | badmsg (m : FabMsg) (port : Nat)
  /-- CRITICAL_DUPLICATE (R513): A second copy of a critical message is discarded and counted in DUPS. -/
  | criticalDuplicate (m : FabMsg) (port : Nat)
  /-- LINE_EVICT (R523): The caching bank evicts a coherent line, writing it back from M or O. -/
  | lineEvict (slice fa : Nat)
  /-- NC_EXPIRE (R523): An NC mark expires 10 ms after the recall. -/
  | ncExpire (fa : Nat)
  /-- REMOTE_TIMEOUT (R521): A request unanswered within RTIMEOUT parks its thread with REMOTE. -/
  | remoteTimeout (r : Nat)
  /-- LINK_TRAINED (R508): Port training completes and the link becomes NORMAL. -/
  | linkTrained (port width : Nat)
  /-- CRC_FAILURE (R508): A flit fails CRC and the port enters REPLAY. -/
  | crcFailure (port lane : Nat)
  /-- REPLAY_PASSED (R508): Replayed flits pass CRC and the port returns to NORMAL. -/
  | replayPassed (port : Nat)
  /-- RETRAIN (R509): The port retrains at the widest width without retired lanes, or goes DOWN. -/
  | retrain (port : Nat) (ok : Bool)
  /-- LANE_RETIRE (R509): A lane's health score passes LHTHRESH and it is marked for retirement. -/
  | laneRetire (port lane : Nat)
  /-- HEALTH_DECAY (R509): Every 1 ms each lane's health score is halved. -/
  | healthDecay (port : Nat)
  /-- PORT_DISABLE (R508): DISABLE forces a port DOWN. -/
  | portDisable (port : Nat)
  /-- TOKEN_REFILL (R518): Each µs a port refills buckets and redistributes surplus. -/
  | tokenRefill (port : Nat)
  /-- FABRIC_STATUS_WRITE (R517): Every 100 µs the agent writes the fabric status page and bucket levels. -/
  | fabricStatusWrite
  /-- REGISTER_LINE_FETCH (R292): A context-image register line that a read found absent arrives in the pool and the waiting group becomes ready. -/
  | registerLineFetch (g line : Nat)
  /-- GOURD_WRITE_OUT (R463): A halted slice's image finishes leaving the Gourd for its context region, which frees the Gourd and allows the block to be placed again. -/
  | gourdWriteOut (b : Nat)
  /-- POWER_LOSS (R477): The module loses power, everything stops, and a fuse advance may be left partly done. -/
  | powerLoss
  /-- L2_UNCORRECTABLE (R426): An uncorrectable L2 error poisons a dirty sector, or heals a clean sector by a re-read, and logs type 0x14. -/
  | l2Uncorrectable (line sector : Nat)
  /-- DOE_DISCOVERY (R472): A DOE discovery request on PF 0 is answered. -/
  | doeDiscovery (index : Nat)
  /-- OUTBOUND_RING_TAKE (R448): The slice controller, a command processor or the board management controller takes a message from a firmware mailbox outbound ring, so the ring is no longer full. -/
  | outboundRingTake (die mbx : Nat)
  /-- UNSUPPORTED_TDISP_REQUEST (R504): A TDISP request of any type the responder does not handle is answered with TDISP_ERROR UNSUPPORTED_REQUEST. -/
  | unsupportedTdispRequest (session : Byte) (msg : List Byte)
  deriving DecidableEq, Repr

end Sys2Proof
end

