-- ==== Sys2Proof/Machine/GroupState.lean ====
section
/-! DEFINITION. What a thread, a group and a block own (chapters 01, 06, 09, 10, 11), and the accesses in flight. -/

namespace Sys2Proof.Machine

/-- The run states of a thread (R16). A thread in its handler is `running` with its in-handler mark set. -/
inductive RunSt where
  | running
  | waiting
  | parked
  | exited
  deriving DecidableEq, Repr

/-- A convergence entry (R18): KIND 0b01 or 0b10. -/
inductive ConvEntry where
  | region (id : W16) (addr : W64)
  | call (addr : W64)
  deriving DecidableEq, Repr

/-- The 32-byte fault record (R260). -/
structure FaultRec where
  code   : Byte := 0
  lane   : Byte := 0
  flags  : Byte := 0
  skid   : Byte := 0
  extra  : W32 := 0
  pc     : W64 := 0
  addr   : W64 := 0
  resume : W64 := 0
  deriving DecidableEq, Repr

/-- The record of a thread at reset: its LANE is the thread's number (R260). -/
def FaultRec.atReset (i : Nat) : FaultRec := { lane := BitVec.ofNat 8 i }

/-- What a cleared latch remembers of its producer (R68): the destination specifier, the registers written, WBS. -/
structure Producer where
  dst  : BitVec 10
  regs : Nat
  wbs  : Bool
  deriving DecidableEq, Repr

/-- A thread that waits at a barrier: the slot, the phase token of a `bwait`, and the destination of the status word (R369, R370). -/
structure BarWait where
  slot  : Nat
  token : Option W16
  dst   : BitVec 10
  deriving DecidableEq, Repr

/-- What keeps a thread from issuing its next instruction (R299). A `slot k` waits for an operand-memory tile slot, `drain`
for the matrix operation `op` of its core. -/
inductive WaitFor where
  | none
  | reply
  | line
  | stream
  | presence
  | witness
  | barrier
  | gang
  | engine
  | slot (k : Nat)
  | drain (op : Nat)
  deriving DecidableEq, Repr

/-- A thread (R14), bound to one lane. `issued` counts the instructions issued for a path that holds it (R260 SKID). -/
structure Lane where
  run       : RunSt := .exited
  inHandler : Bool := false
  pc        : W64 := 0
  /-- The convergence stack, top entry first (R18). -/
  stack     : List ConvEntry := []
  /-- The region id the thread waits for while `waiting` (R192, R194). -/
  awaiting  : W16 := 0
  v         : Store W32 := []
  flt       : FaultRec := {}
  /-- The next issue is exempt from LSU watches (R377). -/
  exempt    : Bool := false
  /-- The last producers of the thread's latches, most recent first (R31, R68). -/
  prods     : List Producer := []
  issued    : Nat := 0
  bar       : Option BarWait := none
  /-- The waits at barriers in which the thread parked imprecisely: issued, and still to complete (R267, R369, R370). -/
  barLate   : List BarWait := []
  wait      : WaitFor := .none
  /-- Vector registers whose result has not arrived, with the keys of the accesses that bring one, the latest first (R217). -/
  pend      : Store (List Nat) := []
  /-- The thread parked while TRAPVEC was zero, or with a double fault: its block ends (R264). -/
  fatal     : Bool := false
  /-- The group's turn in which the thread's path was last served, or in which the thread came to run (R178). -/
  served    : Nat := 0
  deriving DecidableEq, Repr

/-- A bypass latch that has not been cleared (R31): its value in each of the 32 lanes. -/
structure Latch where
  vals : List W128
  deriving DecidableEq, Repr

/-- The states of an operand queue (R310). -/
inductive QState where
  | idle
  | walking
  | produced
  | paused
  deriving DecidableEq, Repr

/-- One operand-queue entry: a value per lane, and the faults it carries by lane (R309, R312): code, EXTRA, address. -/
structure QEntry where
  vals   : List W32
  faults : Store (Byte × W32 × W64)
  deriving DecidableEq, Repr

/-- An operand queue with its stream (R32, R307–R313). -/
structure OpQueue where
  st      : QState := .idle
  entries : List QEntry := []
  /-- The spill ring, in walk order (R311). -/
  spilled : List QEntry := []
  base    : W64 := 0
  counts  : List W32 := []
  strides : List W64 := []
  lstride : W32 := 0
  width   : BitVec 4 := 0
  mask    : BitVec 32 := 0
  wit     : W64 := 0
  spill   : Bool := false
  /-- The `strm` and what the lowest lane of the mask had issued with it, for a QQUOTA record. -/
  pc      : W64 := 0
  issued  : Nat := 0
  /-- The index of the next entry the walk produces, and the number of entries of the walk. -/
  next    : Nat := 0
  total   : Nat := 0
  /-- The number of entries popped. -/
  popped  : Nat := 0
  /-- What the fabric has answered for the entry in production, by lane: a fault code (0 for none), EXTRA, the value (R519). -/
  got     : Store (Byte × W32 × W32) := []
  /-- The issue number of the request whose answer the walk awaits: answers to requests of a discarded walk are none of it (R309). -/
  asked   : Option Nat := none
  deriving DecidableEq, Repr

/-- A `sys` request (R280) that waits for its reply. -/
structure SysReq where
  service : W16
  arg     : W64
  dst     : BitVec 10
  reply   : Option W64
  deriving DecidableEq, Repr

/-- A `halt` that waits (R281): its destination and its limit in microseconds, 0 for none. -/
structure HaltReq where
  dst : BitVec 10
  us  : Nat
  deriving DecidableEq, Repr

/-- The states of an admitted group (R298), before admission and after retirement included. -/
inductive GState where
  | pending
  | active
  | preempted
  | retiring
  | retired
  deriving DecidableEq, Repr

/-- A fetched line held by the instruction path of the group (R51). -/
structure ILine where
  addr : W64
  data : BitVec 512
  deriving DecidableEq, Repr

/-- A group: 32 threads that issue together, with its scalar registers, latches, queues and control registers (R20, R34). -/
structure Group where
  blk     : Nat
  groupid : Nat
  /-- Global core index die × 49 + core (R43). -/
  core    : Nat
  st      : GState := .pending
  /-- The order of the group's last admission to its core (R301). -/
  age     : Nat := 0
  /-- The writer tag of R256. -/
  tag     : BitVec 12 := 0
  /-- Firmware's privileged mode (R275). -/
  priv    : Bool := false
  /-- VGRAN, SGRAN and D of the kernel header (R19, R21). -/
  vgran   : Nat := 1
  sgran   : Nat := 1
  divd    : Nat := 1
  lanes   : List Lane
  s       : Store W32 := []
  /-- As `Lane.pend`, for scalar registers. -/
  spend   : Store (List Nat) := []
  latch   : List Latch := []
  oq      : List OpQueue := [{}, {}, {}, {}]
  pathq   : Byte := 16
  fpctl   : BitVec 5 := 0
  fpstat  : BitVec 5 := 0
  trapvec : W64 := 0
  fltmask : BitVec 32 := 0
  gang    : W32 := 0
  obs     : W64 := 0
  stallc  : W32 := 0
  watch   : List W64 := [0, 0, 0, 0]
  /-- The physical lines of the home watches: armed ones by watch index, those sent to their home and not yet accepted at 4 +
  index; and notices that wait for a thread: watch index, writer
  class, line address (R378). -/
  hwatch  : Store Nat := []
  notices : List (Nat × Nat × W64) := []
  /-- The path that last issued (R177). -/
  path    : BitVec 32 := 0
  /-- The path whose turn it is, what is left of its quantum (R175), and the number of the turn (R178). -/
  turn    : BitVec 32 := 0
  quantum : Nat := 0
  turnNo  : Nat := 0
  /-- The threads between the two instructions of a pair: the second has not issued (R69). -/
  mid     : BitVec 32 := 0
  /-- Groups that have entered the active set while this one was the oldest ready pending group of its tenant (R302). -/
  skipped : Nat := 0
  /-- Consecutive cycles waited (R300). -/
  waited  : Nat := 0
  sysq    : Option SysReq := none
  haltq   : Option HaltReq := none
  /-- Bits 4:0 of a firmware group's event mask (R281). -/
  events  : BitVec 5 := 0
  ilines  : List ILine := []
  /-- Register lines not in the pool (R292), by their index offset/128 in the context image. -/
  absent  : List Nat := []
  /-- The Join of the witnesses of every write the group's threads committed (R250). -/
  writes  : W64 := 0
  /-- Where its context image lies in its slice's context region (R290); firmware groups have none. -/
  image   : Option Nat := none
  deriving DecidableEq, Repr

/-- The tags of an accumulator unit (R340). -/
inductive Tag where
  | Z
  | I
  | F
  | P
  | S
  /-- The upper unit of a scaled tile. -/
  | Shi
  deriving DecidableEq, Repr

/-- A scaled accumulator tile (R108): F and the marks by element, the tile exponent, `none` while the empty mark is set. -/
structure Scaled where
  f    : Store (BitVec 48) := []
  sat  : Store Bool := []
  nan  : Store Bool := []
  t    : Option Int := none
  deriving DecidableEq, Repr

/-- A 32 KiB accumulator unit (R340): its tag, its 32-bit elements, and the scaled tile it names. -/
structure AccUnit where
  tag  : Tag := .Z
  e    : Store W32 := []
  sc   : Scaled := {}
  deriving DecidableEq, Repr

/-- A 128-byte scratchpad line's presence state (R317). -/
structure SpLine where
  w    : Bool := false
  pend : Nat := 0
  deriving DecidableEq, Repr

/-- The scratchpad and accumulator share of a block on one of its cores (R314, R340, R387). -/
structure Share where
  core   : Nat
  mem    : Store Byte := []
  lines  : Store SpLine := []
  poison : Store Bool := []
  acc    : Store AccUnit := []
  deriving DecidableEq, Repr

/-- A block of a launch (R293), with what the header declares for it (R83). -/
structure Block where
  /-- The launch it belongs to; `none` for a firmware block (R448). -/
  launch   : Option Nat
  blockid  : Nat
  slice    : Nat
  vf       : Nat
  ngroups  : Nat
  bthreads : Nat
  vgran    : Nat
  sgran    : Nat
  divd     : Nat
  scratch  : Nat
  producer : Nat
  quota    : Nat
  accu     : Nat
  partw    : W32
  trapvec  : W64
  entry    : W64
  args     : W64
  /-- Footprint: base, length, readable, writable (R84). -/
  foot     : List (Nat × Nat × Bool × Bool)
  /-- The shares of its cores while placed (R387); kept while pre-empted (R320). -/
  shares   : List Share
  placed   : Bool
  /-- The block has been ended by R264, or a copy of it failed (R335). -/
  failed   : Bool
  done     : Bool
  /-- Final FLTMASK values of its groups, by GROUPID (R327). -/
  fltmasks : Store W32
  /-- The fault records passed to the command processor (R264). -/
  records  : List FaultRec
  /-- Pre-empted, with the lines still in the Gourd (R463). -/
  inGourd  : Bool
  /-- Exchanged at the end of its VF's time slice: it comes back to the same cores (R458). -/
  swapped  : Bool := false
  /-- It was admitted when it was exchanged. -/
  kept     : Bool := false
  deriving DecidableEq, Repr

/-- The atomic operations (R224). -/
inductive AtomOp where
  | add
  | min
  | max
  | and
  | or
  | xor
  | exch
  | cas
  deriving DecidableEq, Repr

/-- The kinds of access in flight. -/
inductive ReqKind where
  | load
  | store
  | atom (op : AtomOp) (red : Bool)
  deriving DecidableEq, Repr

/-- Where an access of a coherent page stands with the fabric (R519). -/
inductive FabPhase where
  | unsent
  /-- Awaits the response to a message of KIND `kind`. -/
  | sent (tag kind : Nat)
  deriving DecidableEq, Repr

/-- A per-thread access to global memory or scratchpad that has issued and has not been performed (R217). -/
structure Req where
  g      : Nat
  lane   : Nat
  /-- Issue number of the instruction: equal for the lanes of one instruction, rising in program order. -/
  seq    : Nat
  kind   : ReqKind
  /-- Scratchpad access: the block and the index of its share. -/
  sp     : Option (Nat × Nat)
  vf     : Nat
  slice  : Nat
  va     : W64
  /-- Physical address, fabric address when `coh`, scratchpad offset when `sp`. -/
  pa     : Nat
  home   : Nat
  coh    : Bool
  rchk   : Bool
  width  : BitVec 4
  bytes  : Nat
  data   : W128
  wit    : W64
  /-- The witnesses of every thread of the instruction (R202). -/
  wits   : List W64
  scope  : BitVec 3
  hint   : BitVec 3
  dst    : BitVec 10
  pc     : W64
  issued : Nat
  fab    : FabPhase
  /-- The bytes of a job's piece come from a poisoned word (R335). -/
  poison : Bool := false
  /-- Page hits that have passed it in its pseudo-channel (R418). -/
  passed : Nat := 0
  deriving DecidableEq, Repr

end Sys2Proof.Machine
end

