-- ==== Sys2Proof/Machine/CoreState.lean ====
section
/-! DEFINITION. What a core, a cluster, an engine and the stamp ring own (chapters 07, 10, 11, 12, 13, 15, 17). -/

namespace Sys2Proof.Machine

/-- A tenant of a core (R305): a VF with admitted groups, its slot 0–7 and its signed counter. -/
structure Tenant where
  slot : Nat
  vf   : Nat
  c    : Int
  deriving DecidableEq, Repr

/-- An L1 line (R202): its data, the sectors it holds, the home counter and the .pk frontier recorded at the fill. -/
structure L1Line where
  core   : Nat
  vf     : Nat
  line   : Nat
  coh    : Bool
  slice  : Nat
  data   : List Byte
  valid  : BitVec 4
  home   : Nat
  ctr    : Nat
  fr     : Nat
  deriving DecidableEq, Repr

/-- A TLB entry (R270): VF, virtual, guest-physical and physical granule, attributes; `tlb` names the TLB: 0–195 an L1 TLB, 196 up the cluster
TLBs. An entry maps the bytes that one table entry of each stage covers, `size`; `s1` and `s2` are the bytes of the pages of its two leaves
(R272). -/
structure TlbEntry where
  tlb   : Nat
  vf    : Nat
  vpage : Nat
  gpage : Nat
  ppage : Nat
  size  : Nat
  s1    : Nat
  s2    : Nat
  r     : Bool
  w     : Bool
  coh   : Bool
  rchk  : Bool
  shost : Bool
  deriving DecidableEq, Repr

/-- A path that issued a matrix operation: its group and lanes, where it issued it, and what its lowest lane had issued with it (R260, R350). -/
structure OpIssuer where
  g      : Nat
  lanes  : BitVec 32
  pc     : W64
  issued : Nat
  deriving DecidableEq, Repr

/-- A matrix operation in a core's queue (R346): the instruction, its block, the paths that issued it, in the order of their GROUPIDs, the
register values read at issue, and what its entry fixed. -/
structure MOp where
  instr   : Instr
  blk     : Nat
  issuers : List OpIssuer
  /-- The SRCC pair: for `old` base and stride, for `mdrain` the amax address. -/
  src     : W64
  /-- Scoreboard key of its register results (R217). -/
  key     : Nat
  /-- The tag of ACC when the operation entered, and the units it dissolves (R340). -/
  tag     : Tag
  zero    : List Nat
  /-- Physical address of the amax word, and whether its page is coherent or race-check. -/
  amax    : Option (Nat × Bool × Bool)
  started : Bool
  array   : Option Nat
  /-- The witness of an amax merge made through the fabric. -/
  merged  : Option W64
  deriving DecidableEq, Repr

/-- An arrival at a rendezvous latch (R349). -/
structure Arrival where
  g     : Nat
  lanes : BitVec 32
  instr : Instr
  gang  : W32
  skip  : Bool
  src   : W64
  pc    : W64
  deriving DecidableEq, Repr

/-- A rendezvous latch (R349), named by its block and BASE: arrivals in issue order. -/
structure GangLatch where
  core     : Nat
  blk      : Nat
  base     : Nat
  arrivals : List Arrival
  deriving DecidableEq, Repr

/-- A tile slot claimed by a block (R338). A free slot is absent from its table. -/
structure TileSlot where
  blk  : Nat
  data : Store Byte
  deriving DecidableEq, Repr

/-- An Armed barrier slot (R362). A Free slot is absent from its table. `pend` holds the witnesses of PENDENG with the
VF of the group that issued each. -/
structure BarSlot where
  blk     : Nat
  first   : Nat
  ng      : Nat
  eng     : Nat
  phase   : W16
  arrived : Nat
  live    : Nat
  engarr  : Nat
  pend    : List (Nat × W64)
  deriving DecidableEq, Repr

/-- One of the 49 cores of a die. -/
structure Core where
  online  : Bool := true
  halted  : Bool := false
  partw   : W32 := 0x01020040
  /-- The active set, at most 8 groups (R298). -/
  active  : List Nat := []
  cycle   : W64 := 0
  /-- The core's time in nineteenths of a cycle of 1.6 GHz: a cycle at 1.9 GHz takes 16 of them (R459). -/
  ticks   : Nat := 0
  tenants : List Tenant := []
  nextAge : Nat := 0
  /-- The second instructions of pairs that take their slots first in the next cycle (R305): group and opcode. -/
  carry   : List (Nat × BitVec 10) := []
  /-- Cycles for which the transcendental pipe stays held (R157). -/
  trans   : Nat := 0
  /-- Cycles at which vacated active places may be filled, and the cycle of the last swap (R298). -/
  vacated : List Nat := []
  lastSwap : Option Nat := none
  /-- Groups to which a `yield` has offered a place, oldest offer first (R197). -/
  offers  : List Nat := []
  /-- The matrix queue, oldest first, keyed by entry number (R346). -/
  mq      : Store MOp := []
  mqNext  : Nat := 0
  /-- The next `cpyg` of this core takes the second of its two engines (R328). -/
  alt     : Bool := false
  /-- Dropped arrivals whose witness is not yet satisfied, with their VF (R373). -/
  orphans : List (Nat × W64) := []
  orphan  : W32 := 0
  sramce  : W32 := 0
  sramue  : W32 := 0
  scrubpass : W32 := 0
  /-- The line the SRAM scrubber reads next (R379). -/
  scrubpos  : Nat := 0
  gourdBusy : Bool := false
  deriving DecidableEq, Repr

/-- What an engine's job slot keeps (R211, R328). -/
structure JobSlot where
  seq    : W32
  vf     : Nat
  /-- The job in the slot has completed, with this completion witness. -/
  comp   : Option W64
  /-- The retirement witnesses by slice: each covers every job that the slot has completed for a VF of the slice. -/
  retire : Store W64
  deriving DecidableEq, Repr

/-- The kinds of copy job. -/
inductive JobKind where
  | cpy
  | cpyo
  | cpyg
  /-- A job descriptor of R446: from a COPY entry (true) or from `engx` (false). -/
  | bulk (entry : Bool)
  deriving DecidableEq, Repr

/-- The modes of a bulk job (R446). -/
inductive BulkMode where
  | copy
  | fill
  | rekey
  deriving DecidableEq, Repr

/-- A copy job accepted by an engine (R331–R334, R446, R447). -/
structure Job where
  kind   : JobKind
  /-- Engine number: 0–95 bulk engine die × 24 + n; 96 + global core index a streamer. -/
  eng    : Nat
  slot   : Nat
  seq    : W32
  vf     : Nat
  slice  : Nat
  blk    : Option Nat
  core   : Nat
  g      : Nat
  lane   : Nat
  cp     : Option (Nat × Nat × Nat)
  /-- Element bytes. -/
  w      : Nat
  counts : List Nat
  base   : W64
  gstr   : List W64
  sbase  : W64
  sstr   : List W64
  table  : List W64
  bt     : Bool
  mode   : BulkMode
  phys   : Bool
  skey   : Nat
  dkey   : Nat
  wit    : W64
  scope  : BitVec 3
  /-- Element walk: the next element and their number. -/
  next   : Nat
  total  : Nat
  started : Bool
  stopped : Bool
  /-- Cancelled: it completes, with what it has committed, once its writes in flight have been answered (R233). -/
  ended  : Bool
  /-- The job card (R333): global and scratchpad read and write intervals. -/
  rg     : List (Nat × Nat)
  wg     : List (Nat × Nat)
  rs     : List (Nat × Nat)
  ws     : List (Nat × Nat)
  /-- The scratchpad lines whose PEND the job raised: share and line. -/
  pendLines : List (Nat × Nat)
  wroteLines : List (Nat × Nat)
  /-- The Join of its writes' witnesses. -/
  wits   : W64
  pc     : W64
  /-- What the issuing thread had issued with the copy (R260 SKID). -/
  issued : Nat
  deriving DecidableEq, Repr

/-- A group's pick for issue (R305): what `step` runs next. `first`/`second` say where a pair stands; `other` is the opcode
of the instruction the pair bit joins. -/
structure Issue where
  g      : Nat
  lanes  : BitVec 32
  pc     : W64
  first  : Bool
  second : Bool
  other  : BitVec 10
  deriving DecidableEq, Repr

/-- An L2 line (R409, R410): its home bank, whose it is, and its valid and dirty sectors. -/
structure L2Line where
  bank  : Nat
  slice : Nat
  vf    : Nat
  valid : BitVec 4
  dirty : BitVec 4
  deriving DecidableEq, Repr

end Sys2Proof.Machine
end

