-- ==== Sys2Proof/Machine/DieState.lean ====
section
/-! DEFINITION. What a die and its command processors own (chapters 17, 18). -/

namespace Sys2Proof.Machine

/-- An entry of a bank's activation tracker (R421): a row, its count, and the activations of it by VF. The hardware's entry names the four VFs with
the most; the counts of all of them say at any time which these are. -/
structure TrackEntry where
  row   : Nat
  count : Nat
  vfs   : List (Nat × Nat)
  deriving DecidableEq, Repr

/-- What a bank's refresh machinery is doing (R419–R424). -/
inductive BankBusy where
  | idle
  /-- A REFpb runs. -/
  | refpb
  /-- The REFab of its pseudo-channel runs; `rfm` when an alert's RFM follows it. -/
  | refab (rfm : Bool)
  /-- An RFM runs. -/
  | rfm
  deriving DecidableEq, Repr

/-- An HBM4E bank (R417, R420, R421). -/
structure Bank where
  row     : Option Nat := none
  /-- Cycle of the last access to the open row. -/
  last    : Nat := 0
  debt    : Nat := 0
  busy    : BankBusy := .idle
  /-- A due that fell during a refresh and is taken when it ends (R420). -/
  due     : Bool := false
  /-- The stall in ns of the alert that is being answered, to the end of its RFM (R419, R422, R423). -/
  alert   : Option Nat := none
  track   : List TrackEntry := []
  /-- VFs throttled (R421), and the cycle at which each last activated a row of the bank. -/
  throttled : List Nat := []
  acted   : Store Nat := []
  /-- The cycles of the last due and of the last alert: of those of one cycle the alert comes first (R424). -/
  dueTime : Option Nat := none
  alertTime : Option Nat := none
  deriving DecidableEq, Repr

/-- An HBM4E channel with its registers (R428). Banks are numbered pseudo-channel × 16 + group × 4 + bank. -/
structure Channel where
  banks : Store Bank := []
  refab : W32 := 0
  postpone : W32 := 0
  rfm   : W32 := 0
  abo   : W32 := 0
  throttle : W32 := 0
  ce    : W32 := 0
  ue    : W32 := 0
  scrubpos : BitVec 24 := 0
  scrubpass : W32 := 0
  idleq : BitVec 4 := 2
  period : Byte := 12
  lastue : W64 := 0
  /-- Deficit counters in bytes, by pseudo-channel × 512 + VF (R418). -/
  deficit : Store Int := []
  /-- Alerts that wait to be answered, in arrival order: the bank, and the stall in ns so far (R422–R424). -/
  alerts : List (Nat × Nat) := []
  /-- Accesses that wait in the controller for a refresh or an alert to end (R420, R422): address, VF and bytes, oldest first. -/
  late : List (Nat × Nat × Nat) := []
  /-- The scrubber is escalated, and the cycle of its last escalated read (R427). -/
  escal : Option Nat := none
  deriving DecidableEq, Repr

/-- An error-log entry (R429). -/
structure LogEntry where
  type : Byte
  unit : Nat
  vf   : Nat
  addr : Nat
  time : Nat
  data : W64
  deriving DecidableEq, Repr

/-- A mailbox (R448): messages oldest first, at most 16 in each ring. -/
structure Mbox where
  inb  : List W64 := []
  outb : List W64 := []
  deriving DecidableEq, Repr

/-- A die: boot state, error log, mailboxes, firmware events, held notices. -/
structure Die where
  bstate : Nat := 0
  bcause : Nat := 0
  /-- The image that the boot ROM has accepted and not yet started (R474, R477). -/
  image  : Option ImageView := none
  /-- The first copy of the image has been refused (R476). -/
  retried : Bool := false
  /-- The firmware code region: the body that the boot ROM has loaded; nothing else writes it (R448, R479). -/
  code   : List Byte := []
  svn    : Nat := 0
  /-- The last 64 log entries at most, by entry number; HEAD and TAIL are counts (R429). -/
  log    : Store LogEntry := []
  head   : W64 := 0
  tail   : W64 := 0
  dropped : W64 := 0
  mbox   : Store Mbox := []
  /-- Notices and replies held while mailbox 0's outbound ring is full (R444). -/
  notices : List W64 := []
  deriving DecidableEq, Repr

/-- The queue states (R434, R436). -/
inductive QSt where
  | idle
  | ready
  | active
  | waiting
  | spilled
  | stopped
  deriving DecidableEq, Repr

/-- A queue entry (R437). -/
structure Entry where
  ctl   : W32
  addr  : W64
  value : W64
  deriving DecidableEq, Repr

/-- An entry begun and not complete (R438): its number, its effect still to be carried out (`fresh`), its time-out. -/
structure Begun where
  n      : Nat
  e      : Entry
  fresh  : Bool
  timedout : Bool
  deriving DecidableEq, Repr

/-- A queue of a command processor (R431–R438). -/
structure Queue where
  st     : QSt := .stopped
  qcb    : W64 := 0
  vf     : Nat := 0
  owner  : Nat := 0
  weight : Nat := 0
  quota  : Nat := 0
  enable : Nat := 0
  timeout : Nat := 0
  /-- ECHO0 and ECHO1: the row as last read (R433). -/
  echo0  : W64 := 0
  echo1  : W64 := 0
  ring   : W64 := 0
  size   : Nat := 16
  rdptr  : Nat := 0
  done   : Nat := 0
  index  : W16 := 0
  err    : Byte := 0
  failed : Bool := false
  timedout : Bool := false
  cap    : Bool := false
  /-- The entry at RDPTR, once a refill has found it valid. -/
  head   : Option Entry := none
  begun  : List Begun := []
  qc     : Int := 0
  /-- The Join of the completion witnesses since the last SIGNAL with WIT (R438). -/
  wits   : W64 := 0
  /-- The wait's condition has been read with its fault checks; slot number while Waiting. -/
  slot   : Option Nat := none
  /-- The guest page is still to be written: its translation waits for a coherent line. -/
  pageDue : Bool := false
  /-- Coherent lines that the fabric could not give for the entry at hand. -/
  lost   : List Nat := []
  deriving DecidableEq, Repr

/-- A node of a running graph (R445). -/
structure GNode where
  lrec  : W64
  npred : Nat
  succ  : List Nat
  left  : Nat
  launched : Bool
  done  : Bool
  deriving DecidableEq, Repr

/-- A running graph: the entry's queue and number, its nodes, its completion witness so far. -/
structure Graph where
  q     : Nat
  n     : Nat
  nodes : List GNode
  wit   : W64
  deriving DecidableEq, Repr

/-- A command processor (R441). `c` holds the owners' counters (R439), keyed by VF, 511 for the host manager's share. -/
structure Cp where
  qtbase : W64 := 0
  vtbase : W64 := 0
  nq     : Nat := 0
  holdt  : Nat := 20
  queues : Store Queue := []
  c      : Store Int := []
  /-- Wait slots in use: slot to queue (R442). -/
  slots  : Store Nat := []
  /-- Spilled queues in list order. -/
  spill  : List Nat := []
  graphs : List Graph := []
  stopped : Bool := false
  deriving DecidableEq, Repr

/-- A declared tier (R293): COUNT, DOMAIN, SCOPE. -/
structure Tier where
  count  : Nat
  domain : Nat
  scope  : Nat
  deriving DecidableEq, Repr

/-- A launch accepted by a command processor (R293, R395, R396). -/
structure Launch where
  cp     : Nat
  q      : Nat
  /-- Entry number, and the node when a graph launched it. -/
  n      : Nat
  node   : Option Nat
  slice  : Nat
  vf     : Nat
  record : W64
  compl  : W64
  nblocks : Nat
  bthreads : Nat
  accu   : Nat
  tiers  : List Tier
  /-- The block template: header fields common to the blocks. -/
  tmpl   : Block
  status : W32
  turn   : Bool
  /-- New blocks already placed, by BLOCKID; new blocks never placed are the rest below `nblocks`. -/
  placed : Store Bool
  retired : Nat
  /-- Blocks held for want of a candidate (R399). -/
  held   : Store Bool
  /-- Blocks that have been held and are not placed yet: CAP stands for them (R444). -/
  caps   : List Nat
  /-- Members, by their first core, that have refused the launch's first block and have gained no room since (R395). -/
  refused : List Nat
  /-- Cores that have placed a group of the launch (R249). -/
  seen   : List Nat
  failed : Bool
  /-- The Join of the retirement witnesses (R250). -/
  wit    : W64
  /-- Every block that is not placed is dropped: the queue was stopped (R436). -/
  cut    : Bool
  /-- Its completion word has been stored (R250). -/
  sent   : Bool
  deriving DecidableEq, Repr

end Sys2Proof.Machine
end

