-- ==== Sys2Proof/Machine/PackageState.lean ====
section
/-! DEFINITION. What the package and the fabric agent own (chapters 20, 21, 23). -/

namespace Sys2Proof.Machine

/-- The states of a slice (R454, R457). -/
inductive SliceSt where
  | free
  | running
  | quiescing
  | exported
  | importing
  deriving DecidableEq, Repr

/-- A slice row (R454). -/
structure Slice where
  st       : SliceSt := .free
  clusters : BitVec 48 := 0
  borrowed : BitVec 48 := 0
  lent     : BitVec 48 := 0
  apbase   : Nat := 0
  offline  : BitVec 192 := 0
  cpn      : BitVec 4 := 0
  prot     : Bool := false
  boost    : Bool := false
  race     : BitVec 2 := 0
  gen      : BitVec 4 := 0
  tslice   : Nat := 20
  /-- Next writer tag (R256). -/
  nextTag  : Nat := 0
  /-- Stores stall: a renewal is in course (R239). -/
  renewing : Bool := false
  drained  : List Nat := []
  /-- The VF.LOCAL that holds a protected slice now (R458). -/
  turnVf   : Nat := 0
  migKey   : Option (BitVec 256) := none
  /-- The slice key, for the context region (R491). -/
  key      : Option (BitVec 512) := none
  failed   : Bool := false
  deriving DecidableEq, Repr

/-- The slice controller's command in progress (R456, R457, R464): the command word, what it involves, its next step. -/
structure SlCmd where
  cmd   : W64
  op    : Byte
  sa    : Nat
  sb    : Nat
  mask  : BitVec 48
  apb   : Nat
  vfs   : BitVec 24
  cpn   : Nat
  cl    : Nat
  buf   : Nat
  blen  : Nat
  step  : Nat
  /-- The die whose mailbox 0 brought it. -/
  die   : Nat
  /-- Slices whose pools have been exchanged with the Gourd in step 3. -/
  exch  : List Nat
  deriving DecidableEq, Repr

/-- A recall in progress (R463). -/
structure Recall where
  cluster : Nat
  owner   : Nat
  borrower : Nat
  step    : Nat
  /-- The command it was sent by, `none` when a quiesce recalls (R464 step 0). -/
  cmd     : Option W64
  die     : Nat
  deriving DecidableEq, Repr

/-- What the device holds of a VF: the fields of its row taken at VFON or at the last reshaping (R454, R480), the model's
stage-1 root, and its notification ring's PROD (R531). -/
structure Vf where
  enabled : Bool := false
  slice   : Nat := 0
  local_  : Nat := 0
  s1root  : Nat := 0
  s2root  : Nat := 0
  shbase  : W64 := 0
  rlog    : Nat := 0
  rlogn   : Nat := 0
  rloghead : W64 := 0
  rdrop   : W32 := 0
  shmiss  : W32 := 0
  weight  : Nat := 1
  nring   : Nat := 0
  nsize   : Nat := 16
  prod    : W64 := 0
  /-- The MMIO reporting offset of the lock request (R490, R504). -/
  mmioOff : W64 := 0
  /-- The memory key (R491). -/
  key     : Option (BitVec 512) := none
  /-- Metering counters (R469), codes 0–6. -/
  meter   : Store W64 := []
  deriving DecidableEq, Repr

/-- A region's owner entry as taken up (R493, R497), with the three copies of its root (R495). -/
structure Region where
  kind : BitVec 2
  vf   : Nat
  tree : Nat
  slot : Nat
  root : List Nat
  deriving DecidableEq, Repr

/-- A selective IDE stream (R483, R503). -/
structure Stream where
  go    : Bool := false
  key   : Option (BitVec 256) := none
  base  : Nat := 0
  limit : Nat := 0
  deriving DecidableEq, Repr

/-- A message on the stamp ring (R412). -/
structure RingMsg where
  slice : Nat
  pkg   : Bool
  home  : Nat
  kind  : BitVec 2
  value : Nat
  deriving DecidableEq, Repr

/-- The link states of a port (R508). -/
inductive LinkSt where
  | down
  | normal
  | replay
  | retrain
  deriving DecidableEq, Repr

/-- A fabric port (R507–R509, R516, R517). `buckets` holds LEVEL by VF; `rate` and `depth` the bucket table last taken. -/
structure Port where
  st     : LinkSt := .down
  width  : Nat := 0
  retired : BitVec 4 := 0
  health : List Nat := [0, 0, 0, 0]
  fec    : W32 := 0
  crc    : W32 := 0
  retrains : W32 := 0
  dups   : W32 := 0
  /-- Failures of the flit in replay, and failed trainings in a row. -/
  flitFails : Nat := 0
  trainFails : Nat := 0
  /-- A lane was marked for retirement while the port was in REPLAY (R509). -/
  marked : Bool := false
  level  : Store Int := []
  rate   : Store Nat := []
  depth  : Store Nat := []
  deriving DecidableEq, Repr

/-- The states of a coherent line (R523); NC is a mark, kept apart. -/
inductive Coh where
  | I
  | S
  | E
  | O
  | M
  deriving DecidableEq, Repr

/-- A coherent line held by the package for a slice (R519, R523). -/
structure FabLine where
  slice : Nat
  vf    : Nat
  fa    : Nat
  st    : Coh
  data  : List Byte
  /-- Highest response stamp applied to it (R523). -/
  stamp : Nat
  deriving DecidableEq, Repr

/-- A route entry of a VF (R511). -/
structure Route where
  vf    : Nat
  base  : Nat
  limit : Nat
  ndir  : Nat
  ndir2 : Nat
  porta : Nat
  portb : Nat
  deriving DecidableEq, Repr

/-- A directory failover under way (R524): the directory, the FAIL's tag, and the slices that have still to renew. -/
structure Failing where
  dir    : Nat
  tag    : Nat
  slices : List Nat
  deriving DecidableEq, Repr

/-- The fabric agent (R510–R524). -/
structure Fabric where
  pkgid  : Nat := 0
  disable : BitVec 16 := 0
  lhthresh : Nat := 4096
  rtimeout : Nat := 1000
  ports  : Store Port := []
  routes : List Route := []
  lines  : List FabLine := []
  /-- NC marks, oldest first, with the cycle of the recall (R523). -/
  nc     : List (Nat × Nat) := []
  /-- CSEQ last sent and last received, by directory (R513). -/
  ctx    : Store W32 := []
  crx    : Store W32 := []
  /-- Highest absolute counter heard, by directory; BASE by slice (R522). -/
  heard  : Store Nat := []
  base   : Store Nat := []
  failed : BitVec 256 := 0
  failing : List Failing := []
  /-- Tags of probes under way. -/
  probes : List Nat := []
  badmsg : W32 := 0
  nextTag : Nat := 0
  /-- Messages handed to the ports, oldest first, with their port. -/
  out    : List (Nat × FabMsg) := []
  /-- Recalls deferred until a response has been applied (R523). -/
  deferred : List (FabMsg × Nat) := []
  deriving DecidableEq, Repr

/-- The host port, the key store and TDISP (R471–R490, R503). -/
structure Security where
  /-- Configuration registers of R485. -/
  cfg      : Store W64 := []
  pfrid    : Nat := 0
  fusecnt  : Nat := 0
  /-- The two copies of the firmware image in the module's flash, once the boot ROM of a die has read them: one image serves all four dies (R475, R476). -/
  flash1   : Option ImageView := none
  flash2   : Option ImageView := none
  layoutgen : W64 := 0
  sessions : List Nat := []
  streams  : Store Stream := []
  /-- A DOE request is with firmware, and the host has aborted it (R488). -/
  doeBusy  : Bool := false
  doeAborted : Bool := false
  /-- Answers the device has given on its host link, oldest first. -/
  answers  : List (List Byte) := []
  /-- TLPs dropped and logged in AER as IDE check failures (R483). -/
  ideDrops : Nat := 0
  /-- MSI-X vectors raised, oldest first (R472). -/
  msix     : List Nat := []
  deriving DecidableEq, Repr

end Sys2Proof.Machine
end

