-- ==== Sys2Proof/Machine/State.lean ====
section
/-! DEFINITION. The state of one KN-1600 package as plain data, the reasons a step can stop, and the state after reset. -/

namespace Sys2Proof.Machine

/-- The reasons the machine stops with a fault. The manual's own faults park a thread and are next states; a fault here
means that the state given to `exec` is not one in which an instruction can issue. -/
inductive Fault where
  /-- Raised by every instruction's meaning when no group is issuing: there is no path to execute it for. Safe: no run
  reaches it, since `step` executes an instruction only for a pick it has made. -/
  | noPath
  deriving DecidableEq, Repr

/-- The reasons a step is refused. -/
inductive Refusal where
  /-- Raised by the dispatcher for a row whose meaning is not written. Safe. -/
  | notModelled (mnemonic : String)
  /-- Raised by an event whose conditions the state does not meet, so that the manual has no such step there (R16, R179,
  R298, R310, R420, R436, R508, R523: "no other transition exists"). Safe. -/
  | notEnabled (event : String)
  deriving DecidableEq, Repr

/-- What an exported blob carries of a slice, under the seal (R467, R498): the slice state has no layout in the manual, so the model
keeps it as it stood and finds it by the blob's bytes. Memory is by aperture offset. -/
structure Export where
  blob     : List Byte
  key      : BitVec 256
  slice    : Nat
  gen      : BitVec 4
  prot     : Bool
  boost    : Bool
  race     : BitVec 2
  tslice   : Nat
  turnVf   : Nat
  mem      : List Host.Cell
  poison   : Store Bool
  regions  : Store Region
  vfs      : Store Vf
  blocks   : Store Block
  groups   : Store Group
  launches : Store Launch
  tiles    : Store TileSlot
  bars     : Store BarSlot
  cp       : Cp
  deriving DecidableEq, Repr

/-- The machine: one package with its cores, dies, slices, memory and fabric agent, and what it is about to do. -/
structure State where
  /-- The package has power (R13 of scope: no always-on domain). -/
  powered : Bool
  /-- Cycles of the 1.6 GHz clock since power-good; the model's own clock (R429 TIME). -/
  time    : Nat
  /-- Global cores by die × 49 + core; an unlisted core is as after reset. -/
  cores   : Store Core
  groups  : Store Group
  blocks  : Store Block
  launches : Store Launch
  /-- Accesses in flight (R217), keyed in issue order. -/
  reqs    : Store Req
  nextSeq : Nat
  /-- The byte memory: physical addresses below 2^49 the device's, at or above 2^49 the host's (R273). -/
  mem     : List Host.Cell
  /-- Poisoned 4-byte words, by address / 4 (R426). -/
  poison  : Store Bool
  l1      : List L1Line
  /-- L2 lines, by `l2Key` of the line and the VF whose key tags it (R409). -/
  l2      : Store L2Line
  tlb     : List TlbEntry
  /-- Home counters by slice × 1024 + home; slice 16 is the package counter (R236, R530). -/
  ctr     : Store Nat
  /-- Counters published, same keys (R237). -/
  pub     : Store Nat
  /-- Counters heard: by receiver × 32768 + slice × 1024 + home (R413). Receivers 0–195 are cores, 256 + id homes. -/
  heard   : Store Nat
  ring    : List RingMsg
  /-- Cores that have heard the generation message of a renewal that is not over, by core × 32 + slice (R415). -/
  genHeard : List Nat
  /-- The package generation of R530. -/
  pkgGen  : BitVec 4
  pkgRenewing : Bool
  pkgDrained : List Nat
  /-- Job slots by ENGINE × 65536 + SLOT (R328), and jobs accepted. -/
  slots   : Store JobSlot
  jobs    : Store Job
  nextJob : Nat
  /-- Byte deficit counters of the bulk engines, by ENGINE × 512 + VF (R447). -/
  engCredit : Store Int
  /-- Tile slots by core × 64 + slot (R338). -/
  tiles   : Store TileSlot
  /-- Barrier slots: core slots at core × 64 + slot, cluster slots at 16384 + cluster × 16 + slot − 48 (R362, R392). -/
  bars    : Store BarSlot
  gangs   : List GangLatch
  chans   : Store Channel
  dies    : Store Die
  cps     : Store Cp
  slices  : Store Slice
  vfs     : Store Vf
  sltbase : Nat
  /-- Owner entries taken up, by slice × 2^32 + region (R493); counters of lines, by address / 128 (R495). -/
  regions : Store Region
  lineCtr : Store Nat
  /-- Counters of the nodes of levels 1 to 3, as their parents hold them, and MACs of lines and nodes, by address / 128 (R494, R495). -/
  nodeCtr : Store Nat
  macs    : Store (BitVec 64)
  cmd     : Option SlCmd
  /-- Lines that stay poisoned until their region is initialised again (R496): first line (address / 128) and their number. -/
  badNodes : List (Nat × Nat)
  recalls : List Recall
  exports : List Export
  fab     : Fabric
  sec     : Security
  /-- Firmware's estimate has lowered boosted slices to 1.6 GHz (R459). -/
  capped  : Bool
  /-- The dies in whose mailbox 0 a slice command waits, one entry a command, in the order in which the commands arrived (R457). -/
  arrivals : List Nat
  /-- The instruction being issued. -/
  cur     : Option Issue
  /-- Picks of the cores' issue cycles, in issue order; the step runs the first (R305). -/
  issueQ  : List Issue
  /-- Events that reach the machine next, in order: every order the manual leaves open is this list's. -/
  inbox   : List Instr
  /-- The number of the next group, block or launch: the model's own name for each. -/
  nextId  : Nat
  /-- The model's counter of free values. -/
  free    : Nat
  deriving DecidableEq, Repr

/-- The machine right after reset: no power-good yet, no slice, no group, every queue Stopped (R436), every counter 0, every
register at the reset value of its map. -/
def State.reset : State where
  powered := false
  time := 0
  cores := []
  groups := []
  blocks := []
  launches := []
  reqs := []
  nextSeq := 0
  mem := []
  poison := []
  l1 := []
  l2 := []
  tlb := []
  ctr := []
  pub := []
  heard := []
  ring := []
  genHeard := []
  pkgGen := 0
  pkgRenewing := false
  pkgDrained := []
  slots := []
  jobs := []
  nextJob := 0
  engCredit := []
  tiles := []
  bars := []
  gangs := []
  chans := []
  dies := []
  cps := []
  slices := []
  vfs := []
  sltbase := 0
  regions := []
  lineCtr := []
  nodeCtr := []
  macs := []
  cmd := none
  badNodes := []
  recalls := []
  exports := []
  fab := {}
  sec := {}
  capped := false
  arrivals := []
  cur := none
  issueQ := []
  inbox := []
  nextId := 1
  free := 0

end Sys2Proof.Machine
end

