-- ==== Sys2Proof/Machine/Memory.lean ====
section
/-! DEFINITION. The byte memory, poison, the two-stage translation (R270–R273), and the home of an address (R201, R407, R408). -/

namespace Sys2Proof.Machine

/-! ### Bytes -/

/-- The canonical form of the memory: addresses strictly rising, no listed byte 0. -/
abbrev Memory.wf (m : List Host.Cell) : Bool := Store.wf (0 : BitVec 8) m

/-- What an unlisted address reads as (R494: a line never written reads as zero). -/
def memDefault : Byte := 0

/-- The byte at an address. -/
def State.byte (s : State) (a : Nat) : Byte := Store.get memDefault s.mem a

/-- The memory with one byte written. -/
def Memory.write (m : List Host.Cell) (a : Nat) (b : Byte) : List Host.Cell := Store.set memDefault m a b

/-- The memory with consecutive bytes written. -/
def Memory.writeList (m : List Host.Cell) (a : Nat) : List Byte → List Host.Cell
  | [] => m
  | b :: bs => Memory.writeList (Memory.write m a b) (a + 1) bs

/-- Consecutive bytes. -/
def State.bytes (s : State) (a : Nat) : Nat → List Byte
  | 0 => []
  | n + 1 => s.byte a :: s.bytes (a + 1) n

/-- Little-endian number of a byte list (R12). -/
def leNat : List Byte → Nat
  | [] => 0
  | b :: bs => b.toNat + 256 * leNat bs

/-- The n bytes of a number, least significant first (R12). -/
def leBytes : Nat → Nat → List Byte
  | 0, _ => []
  | n + 1, v => BitVec.ofNat 8 v :: leBytes n (v / 256)

/-- The little-endian number of `n` bytes at `a`. -/
def State.nat (s : State) (a n : Nat) : Nat := leNat (s.bytes a n)

/-- Do the bytes touch a line that a failed tree node covers (R496)? -/
def State.nodeBad (s : State) (a n : Nat) : Bool :=
  s.badNodes.any (fun e => decide (128 * e.1 < a + n) && decide (a < 128 * (e.1 + e.2)))

/-- Set or clear the poison of the words that the bytes touch. -/
def State.setPoison (s : State) (a n : Nat) (p : Bool) : State :=
  let step := fun ps i => if 4 * (a / 4 + i) < a + n then Store.set false ps (a / 4 + i) p else ps
  { s with poison := (List.range (n / 4 + 2)).foldl step s.poison }

/-- Write bytes, clearing the poison of the words written (R426). -/
def State.writeBytes (s : State) (a : Nat) (bs : List Byte) : State :=
  { s.setPoison a bs.length false with mem := Memory.writeList s.mem a bs }

/-- Write a little-endian number of `n` bytes. -/
def State.writeNat (s : State) (a n v : Nat) : State := s.writeBytes a (leBytes n v)

/-! ### Slices, channels and homes -/

/-- A job of a firmware group, and what firmware accesses, carry VF number 511. -/
def fwVf : Nat := 511

/-- The device's physical addresses end at 2^49; host memory begins there (R273). -/
def hostBase : Nat := 2 ^ 49

/-- The slice row. -/
def State.slice (s : State) (i : Nat) : Slice := Store.get {} s.slices i
/-- The VF. -/
def State.vf (s : State) (i : Nat) : Vf := Store.get {} s.vfs i

/-- The clusters of a mask, in order of die and CLUSTER.ID (R385). -/
def clustersOf (m : BitVec 48) : List Nat := (List.range 48).filter (fun i => m.getLsbD i)

/-- Bytes of a slice's aperture: 12 GiB per owned cluster (R407). -/
def Slice.apLen (sl : Slice) : Nat := 12 * 2 ^ 30 * (clustersOf sl.clusters).length

/-- Does the physical address lie in the aperture? -/
def Slice.holds (sl : Slice) (pa : Nat) : Bool :=
  sl.st != .free && decide (sl.apbase ≤ pa) && decide (pa < sl.apbase + sl.apLen)

/-- The slice whose aperture holds the address (R530). -/
def State.apSlice (s : State) (pa : Nat) : Option (Nat × Slice) := s.slices.find? (fun e => e.2.holds pa)

/-- Is there memory behind the physical address (R1: 50 bits; R273, R530)? -/
def State.backed (s : State) (pa : Nat) : Bool := (decide (hostBase ≤ pa) && decide (pa < 2 ^ 50)) || (s.apSlice pa).isSome

/-- The channel (die × 96 + channel of the die) and channel-local address of a device address (R407): cluster k of a die
brings the die's channels 8k to 8k + 7. -/
def State.channelOf (s : State) (pa : Nat) : Option (Nat × Nat) :=
  match s.apSlice pa with
  | none => none
  | some (_, sl) =>
    let cs := clustersOf sl.clusters
    let n := 8 * cs.length
    let o := pa - sl.apbase
    let q := o / 256 % n
    let c := cs.getD (q / 8) 0
    some (c / 12 * 96 + 8 * (c % 12) + q % 8, o / 256 / n * 256 + o % 256)

/-- The home of host memory (R201). -/
def hostHome : Nat := 0x300

/-- The home id of a physical address (R201, R408). -/
def State.homeOf (s : State) (pa : Nat) : Nat :=
  if hostBase ≤ pa then hostHome
  else
    match s.channelOf pa with
    | none => hostHome
    | some (c, a) => c / 96 * 48 + (a / 128 + 2 * (c % 96)) % 48

/-- The route entry that covers a fabric address of a VF (R511), and the directory home of the line. -/
def State.route (s : State) (vf fa : Nat) : Option Route :=
  s.fab.routes.find? (fun r => r.vf == vf && decide (r.base ≤ fa) && decide (fa ≤ r.limit))

/-! ### Memory encryption (R491–R494)

A private page's bytes are held as the plaintext under the key of the VF that owns their region: that VF's cores and engines see no other. Who
reads or writes them physically, or under another key, meets the ciphertext. -/

/-- The owner entry of a region of a slice (R493). -/
def State.region? (s : State) (slice off : Nat) : Option Region := Store.find s.regions (slice * 2 ^ 32 + off / 2 ^ 21)

/-- The VF under whose key a device address is encrypted: the owner of its data region, while it has a key (R491–R493). -/
def State.cipherVf (s : State) (pa : Nat) : Option Nat :=
  if hostBase ≤ pa then none
  else
    match s.apSlice pa with
    | none => none
    | some (i, sl) =>
      match s.region? i (pa - sl.apbase) with
      | some r => if r.kind = 1 ∧ (s.vf r.vf).key.isSome then some r.vf else none
      | none => none

/-- The ciphertext of sector `sec` under the key of a VF, and the plaintext of a ciphertext; the tweak is the sector's address >> 5 (R492). -/
def State.enc (s : State) (k : Option Nat) (sec : Nat) (x : BitVec 256) : BitVec 256 :=
  match k.bind (fun v => (s.vf v).key) with
  | some key => Config.xts key (BitVec.ofNat 128 sec) x
  | none => x
def State.dec (s : State) (k : Option Nat) (sec : Nat) (x : BitVec 256) : BitVec 256 :=
  match k.bind (fun v => (s.vf v).key) with
  | some key => (Config.xts key (BitVec.ofNat 128 sec)).symm x
  | none => x

/-- A coherent line as it stands on the fabric, under the key of a VF, and the plaintext of such a line; the tweak is FA >> 5 (R510). -/
def State.lineEnc (s : State) (vf fa : Nat) (d : List Byte) : List Byte :=
  (List.range 4).flatMap (fun i => leBytes 32 (s.enc (some vf) (fa / 32 + i) (BitVec.ofNat 256 (leNat ((d.drop (32 * i)).take 32)))).toNat)
def State.lineDec (s : State) (vf fa : Nat) (d : List Byte) : List Byte :=
  (List.range 4).flatMap (fun i => leBytes 32 (s.dec (some vf) (fa / 32 + i) (BitVec.ofNat 256 (leNat ((d.drop (32 * i)).take 32)))).toNat)

/-- L2 lines are kept by line and by the VF whose key tags them (R409). -/
def l2Key (line vf : Nat) : Nat := line * 512 + vf

/-- Has the line never been written: its counter is 0 and L2 holds nothing of it to write back? It reads as zero (R494). -/
def State.unwritten (s : State) (line : Nat) : Bool :=
  Store.get 0 s.lineCtr line == 0 && !s.l2.any (fun e => e.1 / 512 == line && e.2.dirty != 0)

/-- Does who uses the key of `k`, none for a physical access, see the bytes as they are held? -/
def State.sees (s : State) (k : Option Nat) (a n : Nat) : Bool :=
  (List.range (n / 32 + 2)).all (fun i => let p := 32 * (a / 32 + i); decide (a + n ≤ p) || s.cipherVf p == k || s.unwritten (p / 128))

/-- A sector as the key of `k` shows it. -/
def State.sectorBy (s : State) (k : Option Nat) (sec : Nat) : BitVec 256 :=
  let w := s.cipherVf (32 * sec)
  let x := BitVec.ofNat 256 (s.nat (32 * sec) 32)
  if w = k ∨ s.unwritten (sec / 4) = true then x else s.dec k sec (s.enc w sec x)

/-- Bytes as the key of `k` shows them. -/
def State.bytesBy (s : State) (k : Option Nat) (a n : Nat) : List Byte :=
  if s.sees k a n then s.bytes a n
  else (List.range n).map (fun i => (s.sectorBy k ((a + i) / 32)).extractLsb' (8 * ((a + i) % 32)) 8)

/-- A sector takes a value under the key of `k`. -/
def State.setSectorBy (s : State) (k : Option Nat) (sec : Nat) (x : BitVec 256) : State :=
  { s with mem := Memory.writeList s.mem (32 * sec) (leBytes 32 (s.dec (s.cipherVf (32 * sec)) sec (s.enc k sec x)).toNat) }

/-- A sector with the bytes of a list, which stand from `a` on, put into it. -/
def putInto (sec a : Nat) (bs : List Byte) (x : BitVec 256) : BitVec 256 :=
  (List.range 32).foldl (fun x j =>
    let p := 32 * sec + j
    if a ≤ p ∧ p < a + bs.length then (x &&& ~~~((0xFF : BitVec 256) <<< (8 * j))) ||| ((bs.getD (p - a) 0).zeroExtend 256 <<< (8 * j)) else x) x

/-- Is `k` the key under which the bytes are held? A line that has not been written is no exception: what is written to it is held under the
owner's key. -/
def State.holdsFor (s : State) (k : Option Nat) (a n : Nat) : Bool :=
  (List.range (n / 32 + 2)).all (fun i => let p := 32 * (a / 32 + i); decide (a + n ≤ p) || s.cipherVf p == k)

/-- Write bytes under the key of `k`: the rest of their sectors keeps its ciphertext. -/
def State.writeBy (s : State) (k : Option Nat) (a : Nat) (bs : List Byte) : State :=
  if s.holdsFor k a bs.length then s.writeBytes a bs
  else
    ((List.range (bs.length / 32 + 2)).foldl (fun t i =>
      let sec := a / 32 + i
      if 32 * sec < a + bs.length then t.setSectorBy k sec (putInto sec a bs (s.sectorBy k sec)) else t) s).setPoison a bs.length false

/-- Bytes as an accessor of the VF sees them: a VF its plaintext, firmware what lies in memory (R492). -/
def State.bytesFor (s : State) (vf a n : Nat) : List Byte := if vf = fwVf then s.bytesBy none a n else s.bytes a n

/-- As `bytesFor`, a little-endian number. -/
def State.natFor (s : State) (vf a n : Nat) : Nat := leNat (s.bytesFor vf a n)

/-- Write bytes as an accessor of the VF does. -/
def State.writeFor (s : State) (vf a : Nat) (bs : List Byte) : State := if vf = fwVf then s.writeBy none a bs else s.writeBytes a bs

/-! ### Translation -/

/-- A failed translation (R271). -/
structure XErr where
  stage : Nat := 0
  level : Nat := 0
  noncanon : Bool := false
  noreg : Bool := false
  malformed : Bool := false
  /-- A stage-2 table stands where nothing is behind the address (R530). -/
  unbacked : Bool := false
  /-- The walk waits: a stage-1 table lies on a coherent page, and the package does not hold the line at this fabric address. -/
  ask : Option Nat := none
  deriving DecidableEq, Repr

/-- EXTRA of an XLATE fault (R271). -/
def XErr.extra (x : XErr) : W32 :=
  BitVec.ofNat 32 (x.stage + 4 * x.level + (if x.noncanon then 32 else 0) + (if x.noreg then 64 else 0) +
    (if x.malformed then 128 else 0))

/-- The page a walk found. -/
structure Leaf where
  addr  : Nat
  size  : Nat
  level : Nat
  r     : Bool
  w     : Bool
  coh   : Bool
  rchk  : Bool
  shost : Bool
  deriving DecidableEq, Repr

/-- Bytes of a page by its SIZE code (R272). -/
def pageBytes (c : Nat) : Nat :=
  match c with
  | 0 => 2 ^ 12 | 1 => 2 ^ 16 | 2 => 2 ^ 21 | 3 => 2 ^ 25 | 4 => 2 ^ 30 | 5 => 2 ^ 34 | _ => 2 ^ 38

/-- Is a leaf of SIZE `c` allowed at the level (R272)? -/
def leafAt (level c : Nat) : Bool :=
  match level with
  | 1 => decide (c ≤ 1)
  | 2 => c == 2 || c == 3
  | 3 => decide (4 ≤ c ∧ c ≤ 6)
  | _ => false

/-- What a walk answers, with the physical addresses of the table entries that it read. -/
abbrev Walked (α : Type) := List Nat × Except XErr α

/-- Walk a five-level radix tree (R271, R272): `rd` reads the entry of a level at a table address. Of a leaf of a larger page the ADDR bits below
its size are not read (log 154). -/
def walkTree (rd : Nat → Nat → Walked Nat) (stage va : Nat) : Nat → Nat → Walked Leaf
  | 0, _ => ([], .error { stage := stage, level := 1, malformed := true })
  | lvl + 1, base =>
    let q := rd (lvl + 1) (base + 8 * (va / 2 ^ (12 + 9 * lvl) % 512))
    match q.2 with
    | .error x => (q.1, .error x)
    | .ok e =>
      let b (i : Nat) : Bool := e / 2 ^ i % 2 == 1
      let size := e / 4 % 8
      let addr := e / 2 ^ 12 % 2 ^ 38 * 2 ^ 12
      if !b 0 then (q.1, .error { stage := stage, level := lvl + 1 })
      else if e / 2 ^ 50 != 0 || e / 2 ^ 10 % 4 != 0 then (q.1, .error { stage := stage, level := lvl + 1, malformed := true })
      else if b 1 then
        if leafAt (lvl + 1) size then
          let n := pageBytes size
          (q.1, .ok { addr := addr / n * n + va % n, size := n, level := lvl + 1, r := b 5, w := b 6, coh := b 7, rchk := b 8, shost := b 9 })
        else (q.1, .error { stage := stage, level := lvl + 1, malformed := true })
      else if size = 7 then (q.1, .error { stage := stage, level := lvl + 1, malformed := true })
      else
        let n := walkTree rd stage va lvl addr
        (q.1 ++ n.1, n.2)

/-- May the VF reach the physical address its stage 2 names (R407, R493)? -/
def State.mayReach (s : State) (vf : Nat) (shost : Bool) (pa : Nat) : Bool :=
  if hostBase ≤ pa then true
  else
    let sl := s.slice (s.vf vf).slice
    sl.holds pa &&
    (match s.region? (s.vf vf).slice (pa - sl.apbase) with
     | some r => r.vf == vf && ((r.kind == 1 && !shost) || (r.kind == 3 && shost))
     | none => false)

/-- Read an entry of a stage-2 table, which has a physical address (R530). -/
def State.stage2Entry (s : State) (lvl a : Nat) : Walked Nat :=
  if s.backed a then ([a], .ok (leNat (s.bytesBy none a 8))) else ([], .error { stage := 2, level := lvl, malformed := true, unbacked := true })

/-- Stage 2 of a guest-physical address (R271, R407, R493, R510). -/
def State.stage2 (s : State) (vf gpa : Nat) : Walked Leaf :=
  let q := walkTree s.stage2Entry 2 gpa 5 (s.vf vf).s2root
  match q.2 with
  | .error x => (q.1, .error x)
  | .ok l =>
    if (!l.coh || !l.shost) && (l.coh || s.mayReach vf l.shost l.addr) then (q.1, .ok l)
    else (q.1, .error { stage := 2, level := l.level, malformed := true })

/-- The coherent line a slice's caching bank holds under the key of a VF (R519). -/
def State.fabLine (s : State) (sl vf fa : Nat) : Option FabLine :=
  s.fab.lines.find? (fun l => l.slice == sl && l.vf == vf && l.fa == fa / 128 * 128)

/-- Where a line that came for a unit under a no-cache mark stands aside, by the number of the unit that asked, until it has been read (R519). -/
def asideOf (who sl : Nat) : Nat := 2 ^ 20 + 32 * who + sl

/-- A coherent line as the unit that asked for it reads it (R519). -/
def State.unitLine (s : State) (who sl vf fa : Nat) : Option FabLine :=
  match s.fabLine sl vf fa with
  | some l => some l
  | none => s.fabLine (asideOf who sl) vf fa

/-- A line of a table as a walker reads it: it may have come for any unit of the slice. -/
def State.tableLine (s : State) (sl vf fa : Nat) : Option FabLine :=
  match s.fabLine sl vf fa with
  | some l => some l
  | none => s.fab.lines.find? (fun l => decide (2 ^ 20 ≤ l.slice) && l.slice % 32 == sl && l.vf == vf && l.fa == fa / 128 * 128)

/-- What came under no-cache marks for a unit has been read. -/
def State.dropAside (s : State) (who : Nat) : State :=
  { s with fab := { s.fab with lines := s.fab.lines.filter (fun l => !(decide (2 ^ 20 ≤ l.slice) && (l.slice - 2 ^ 20) / 32 == who)) } }

/-- The `n` bytes at an address of a coherent line. -/
def FabLine.slice_ (l : FabLine) (a n : Nat) : List Byte := (l.data.drop (a % 128)).take n

/-- Replace bytes of a line. -/
def setBytes (d : List Byte) (o : Nat) (bs : List Byte) : List Byte := d.take o ++ bs ++ d.drop (o + bs.length)

/-- A completed translation: `size` bytes around the address share it, from one table entry of each stage, with leaves for pages of `s1` and
`s2` bytes (R272). -/
structure Tr where
  pa    : Nat
  gpa   : Nat
  size  : Nat
  s1    : Nat
  s2    : Nat
  r     : Bool
  w     : Bool
  coh   : Bool
  rchk  : Bool
  shost : Bool
  deriving DecidableEq, Repr

/-- Bits 63:57 equal bit 56 (R200). -/
def canonical (va : W64) : Bool := va.extractLsb' 56 8 == 0 || va.extractLsb' 56 8 == 0xFF

/-- Bytes that one table entry of a level covers. -/
def entrySpan (level : Nat) : Nat := 2 ^ (3 + 9 * level)

/-- Read an entry of a stage-1 table at its home (R270): its guest-physical address is translated by stage 2; on a coherent page the line that the
package holds is read, and one it does not hold is asked for. The poison of an entry is not looked at (log 155). -/
def State.stage1Entry (s : State) (vf a : Nat) : Walked Nat :=
  let q := s.stage2 vf a
  match q.2 with
  | .error x => (q.1, .error x)
  | .ok l =>
    if l.coh then
      (match s.tableLine (s.vf vf).slice vf l.addr with
       | some x => (q.1, .ok (leNat (x.slice_ l.addr 8)))
       | none => (q.1, .error { ask := some l.addr }))
    else (q.1 ++ [l.addr], .ok (s.nat l.addr 8))

/-- Both stages walked (R271, R272). The stage-1 tables lie at guest-physical addresses, each translated by stage 2. -/
def State.walkAll (s : State) (vf : Nat) (va : W64) : Walked Tr :=
  if !canonical va then ([], .error { stage := 1, level := 5, noncanon := true })
  else
    let q := walkTree (fun _ a => s.stage1Entry vf a) 1 (va.toNat % 2 ^ 57) 5 (s.vf vf).s1root
    match q.2 with
    | .error x => (q.1, .error x)
    | .ok l1 =>
      let t := s.stage2 vf l1.addr
      match t.2 with
      | .error x => (q.1 ++ t.1, .error x)
      | .ok l2 => (q.1 ++ t.1, .ok { pa := l2.addr, gpa := l1.addr, size := min (entrySpan l1.level) (entrySpan l2.level), s1 := l1.size,
                                     s2 := l2.size, r := l1.r && l2.r, w := l1.w && l2.w, coh := l2.coh, rchk := l1.rchk, shost := l2.shost })

/-- The translation of a walk. -/
def State.walk (s : State) (vf : Nat) (va : W64) : Except XErr Tr := (s.walkAll vf va).2

/-- The addresses that a table tree from `base` on may map to `target`: every entry of every table is looked at; `at_` is the first address that
the table covers. -/
def mapsTo (rd : Nat → Nat → Walked Nat) (target : Nat) : Nat → Nat → Nat → List Nat
  | 0, _, _ => []
  | lvl + 1, base, at_ =>
    (List.range 512).flatMap (fun i =>
      let va := at_ + i * 2 ^ (12 + 9 * lvl)
      match (rd (lvl + 1) (base + 8 * i)).2 with
      | .error _ => []
      | .ok e =>
        if e % 4 = 1 then mapsTo rd target lvl (e / 2 ^ 12 % 2 ^ 38 * 2 ^ 12) va
        else
          match (walkTree rd 1 va (lvl + 1) base).2 with
          | .ok l => if l.addr ≤ target ∧ target < l.addr + 2 ^ (12 + 9 * lvl) then [va + (target - l.addr)] else []
          | .error _ => [])

/-- The virtual addresses of race-check pages through which a VF reaches a physical address of device or host memory (R255, R271). -/
def State.rchkVas (s : State) (vf pa : Nat) : List W64 :=
  let gs := mapsTo s.stage2Entry pa 5 (s.vf vf).s2root 0
  let vs := gs.flatMap (fun g => mapsTo (fun _ a => s.stage1Entry vf a) g 5 (s.vf vf).s1root 0)
  ((vs.map (fun v => (BitVec.ofNat 57 v).signExtend 64)).filter (fun v => match s.walk vf v with
    | .ok t => t.rchk && !t.coh && t.pa == pa
    | .error _ => false)).dedup

/-- Did a write of `n` bytes at `a` change a TSTATE byte, which `old` gives as it was (R480)? -/
def State.tstates (s : State) (a n : Nat) : List Byte :=
  let b := s.sltbase + 0xC400
  if a + n ≤ b ∨ b + 64 * 384 ≤ a then []
  else (List.range ((n + 63) / 64 + 1)).map (fun i => let r := (a - b) / 64 + i; if r < 384 then s.byte (b + 64 * r) else 0)

/-- TSTATE of a VF in the interface table (R489), read at its home. -/
def State.tstate (s : State) (vf : Nat) : Nat := (s.byte (s.sltbase + 0xC400 + 64 * vf)).toNat

end Sys2Proof.Machine
end

