-- ==== Sys2Proof/Machine/Tree.lean ====
section
/-! DEFINITION. The integrity of data regions: line counters, the counter tree and its roots, MACs, and the poison that a failed check gives (R494–R496,
R426). -/

namespace Sys2Proof.Machine

/-! ### The tree of a region (R495) -/

/-- The region of a line (address / 128), with its slice and the line's number in it. -/
def State.regionOfLine (s : State) (line : Nat) : Option (Nat × Slice × Region × Nat) :=
  match s.apSlice (128 * line) with
  | none => none
  | some (i, sl) =>
    let o := 128 * line - sl.apbase
    (s.region? i o).map (fun r => (i, sl, r, o % 2 ^ 21 / 128))

/-- Lines that a node of a level covers (R495): leaves 16, each level above 16 times as many. -/
def nodeSpan (level : Nat) : Nat := 16 ^ level

/-- The physical address of the node of a level that covers line n of a region (R495). -/
def nodeAt (sl : Slice) (r : Region) (level n : Nat) : Nat :=
  sl.apbase + r.tree * 2 ^ 21 + 0x22280 * r.slot + [0, 0, 0x20000, 0x22000, 0x22200].getD level 0 + 128 * (n / nodeSpan level)

/-- A line of a data region, with its place in the region's tree. -/
structure InTree where
  /-- The region's key in `State.regions`. -/
  key  : Nat
  sl   : Slice
  r    : Region
  /-- The region's first line, and the line's number in it. -/
  base : Nat
  n    : Nat
  deriving DecidableEq, Repr

/-- The place of a line of a data region; none elsewhere. -/
def State.inTree (s : State) (line : Nat) : Option InTree :=
  match s.regionOfLine line with
  | none => none
  | some (i, sl, r, n) => if r.kind = 1 then some ⟨i * 2 ^ 32 + (128 * line - sl.apbase) / 2 ^ 21, sl, r, line - n, n⟩ else none

/-- The line (address / 128) of line n of the region, level 0, or of the node of a level that covers it. -/
def InTree.place (t : InTree) (level n : Nat) : Nat := if level = 0 then t.base + n else nodeAt t.sl t.r level n / 128

/-- The root of a region: where one of its three copies disagrees it is corrected from the other two; none when no two agree (R496). -/
def Region.rootOf (r : Region) : Option Nat :=
  match r.root with
  | [a, b, c] => if a = b ∨ a = c then some a else if b = c then some b else none
  | _ => none

/-- The counter of line n or of the node of a level that covers it: its parent holds it, and the root is the level-4 node's (R495). -/
def State.treeCtr (s : State) (t : InTree) (level n : Nat) : Nat :=
  if level = 0 then Store.get 0 s.lineCtr (t.place 0 n)
  else if level = 4 then t.r.rootOf.getD 0
  else Store.get 0 s.nodeCtr (t.place level n)

/-- The lines that stand first in each child of the parent of line n, or of the node of a level that covers it: the 16 children of a node, four of the
top one (R495). -/
def siblings (level n : Nat) : List Nat :=
  ((List.range 16).map (fun i => n / nodeSpan (level + 1) * nodeSpan (level + 1) + i * nodeSpan level)).filter (fun m => decide (m < 16384))

/-- What a node holds beside its MAC: the major counter, 64 bits, and the minors, 48 bits each; the counter of a child is major × 2^48 + minor (R495). -/
def nodeBytes (cs : List Nat) : List Byte := leBytes 8 ((cs.map (· / 2 ^ 48)).foldl max 0) ++ cs.flatMap (fun c => leBytes 6 (c % 2 ^ 48))

/-- The ciphertext of a line (R492, R494). -/
def State.lineCipher (s : State) (line : Nat) : List Byte :=
  (List.range 4).flatMap (fun k => leBytes 32 (s.enc (s.cipherVf (128 * line)) (4 * line + k) (BitVec.ofNat 256 (s.nat (128 * line + 32 * k) 32))).toNat)

/-- What the MAC of line n, or of the node of a level that covers it, is taken over. -/
def State.treeText (s : State) (t : InTree) (level n : Nat) : List Byte :=
  if level = 0 then s.lineCipher (t.place 0 n)
  else nodeBytes ((siblings (level - 1) n).map (s.treeCtr t (level - 1)))

/-- The 22-byte IV (R494): the line number, 8 bytes, then the counter, 14 bytes. -/
def macIv (line ctr : Nat) : Nat := line % 2 ^ 64 + 2 ^ 64 * (ctr % 2 ^ 112)

/-- The MAC that line n, or the node of a level that covers it, has under the key of the region's VF; none while the VF has no key (R494, R495). -/
def State.treeMac (s : State) (t : InTree) (level n : Nat) : Option (BitVec 64) :=
  (s.vf t.r.vf).key.map (fun k => Config.mac k (macIv (t.place level n) (s.treeCtr t level n)) (s.treeText t level n))

/-! ### A write-back (R494, R495) -/

/-- One more in the counter of a line: when its minor counter would pass 2^48 − 1 the major counter of the leaf advances and its 16
minors restart at 0 (R495). -/
def bumpLine (m : Store Nat) (k : Nat) : Store Nat :=
  let n := Store.get 0 m k + 1
  if n % 2 ^ 48 = 0 then (List.range 16).foldl (fun st i => Store.set 0 st (k / 16 * 16 + i) n) m else Store.set 0 m k n

/-- As `bumpLine`, for a node among its siblings. -/
def bumpNode (m : Store Nat) (ks : List Nat) (k : Nat) : Store Nat :=
  let n := Store.get 0 m k + 1
  if n % 2 ^ 48 = 0 then ks.foldl (fun st x => Store.set 0 st x n) m else Store.set 0 m k n

/-- The tree above a line whose counter has advanced: the node of each level is written back in its turn, so that its counter advances, up to the root
(log 163); the line, the nodes, and the children of a node whose major counter advanced, get their MACs. -/
def State.treeWrite (s : State) (line : Nat) : State :=
  match s.inTree line with
  | none => s
  | some t0 =>
    let root := t0.r.rootOf.getD 0 + 1
    let t : InTree := { t0 with r := { t0.r with root := [root, root, root] } }
    let s1 : State :=
      { s with nodeCtr := [1, 2, 3].foldl (fun m l => bumpNode m ((siblings l t.n).map (t.place l)) (t.place l t.n)) s.nodeCtr,
               regions := Store.upd s.regions t.key (fun r => { r with root := [root, root, root] }) }
    let again (l : Nat) : List (Nat × Nat) :=
      (if l < 4 ∧ s1.treeCtr t l t.n % 2 ^ 48 = 0 then siblings l t.n else [t.n]).map (fun n => (l, n))
    { s1 with macs := ((List.range 5).flatMap again).foldl (fun m e =>
        match s1.treeMac t e.1 e.2 with
        | some x => Store.put m (t.place e.1 e.2) x
        | none => Store.del m (t.place e.1 e.2)) s1.macs }

/-- Lines are written to HBM4E: each counter advances, and the tree above it (R494, R495). -/
def State.linesWritten (s : State) (ls : List Nat) : State :=
  ls.foldl (fun t k => ({ t with lineCtr := bumpLine t.lineCtr k } : State).treeWrite k) s

/-- The lines that `n` bytes touch. -/
def linesOf (a n : Nat) : List Nat := ((List.range (n / 128 + 2)).map (fun i => a / 128 + i)).filter (fun l => decide (128 * l < a + n))

/-! ### The check of a read (R494, R496) -/

/-- Does L2 hold something of the line? Then what it holds has been checked when it was read. -/
def State.lineInL2 (s : State) (line : Nat) : Bool := s.l2.any (fun e => e.1 / 512 == line)

/-- The highest level of the tree at which a read of the line from HBM4E finds a failed check, 0 for the line itself: a line or a node whose counter is
0 is not checked (R494, log 164). -/
def State.macFails (s : State) (line : Nat) : Option Nat :=
  if s.lineInL2 line then none
  else
    match s.inTree line with
    | none => none
    | some t =>
      if t.r.rootOf = none then some 4
      else [4, 3, 2, 1, 0].find? (fun l => s.treeCtr t l t.n != 0 && Store.find s.macs (t.place l t.n) != s.treeMac t l t.n)

/-- Do the bytes touch a line whose check fails? -/
def State.macBad (s : State) (a n : Nat) : Bool :=
  (List.range (n / 128 + 2)).any (fun i => decide (128 * (a / 128 + i) < a + n) && (s.macFails (a / 128 + i)).isSome)

/-! ### Poison (R426, R496) -/

/-- Is a 4-byte word that the bytes touch poisoned (R426, R496)? -/
def State.poisoned (s : State) (a n : Nat) : Bool :=
  s.nodeBad a n || s.macBad a n ||
  (List.range (n / 4 + 2)).any (fun i => decide (4 * (a / 4 + i) < a + n) && Store.get false s.poison (a / 4 + i))

/-- Does a write of `n` bytes at `a` cover a part of a poisoned word only (R426)? -/
def State.partPoison (s : State) (a n : Nat) : Bool :=
  (List.range (n / 4 + 2)).any (fun i =>
    let w := a / 4 + i
    decide (4 * w < a + n) && !(decide (a ≤ 4 * w) && decide (4 * w + 4 ≤ a + n)) && (Store.get false s.poison w || s.nodeBad (4 * w) 4 || s.macBad (4 * w) 4))

/-- A write of `n` bytes at `a` into a line whose check fails: the words of the line that it does not write are poisoned in its stead (R426, R496). -/
def State.macSpoil (s : State) (a n : Nat) : State :=
  (List.range (n / 128 + 2)).foldl (fun t i =>
    let l := a / 128 + i
    if 128 * l < a + n ∧ (s.macFails l).isSome then
      { t with poison := (List.range 32).foldl (fun p k =>
          let w := 32 * l + k
          if a ≤ 4 * w ∧ 4 * w + 4 ≤ a + n then p else Store.set false p w true) t.poison }
    else t) s

end Sys2Proof.Machine
end

