-- ==== Sys2Proof/Machine/FabSend.lean ====
section
/-! DEFINITION. Sending messages of the fabric agent (R512–R514, R516, R518), and the coherent lines of the caching banks that leave with one (R519, R523). -/

namespace Sys2Proof.Machine

/-- Bytes counted by metering: HBM reads and writes (R469). -/
def State.meterAdd (s : State) (vf code n : Nat) : State :=
  if vf = fwVf then s
  else
    let v := s.vf vf
    { s with vfs := Store.set {} s.vfs vf { v with meter := Store.set 0 v.meter code (Store.get 0 v.meter code + BitVec.ofNat 64 n) } }

/-- A port of the package. -/
def State.port (s : State) (p : Nat) : Port := Store.get {} s.fab.ports p
/-- Change a port. -/
def State.updPort (s : State) (p : Nat) (f : Port → Port) : State :=
  { s with fab := { s.fab with ports := Store.set {} s.fab.ports p (f (s.port p)) } }
/-- Is the port NORMAL? -/
def State.portUp (s : State) (p : Nat) : Bool := decide (p < 16) && (s.port p).st == .normal

/-- The 32-byte header of a message (R512). -/
def fabHeader (m : FabMsg) : List Byte :=
  leBytes 1 m.kind ++ leBytes 1 (m.crit.toNat + 2 * m.nc.toNat + 4 * m.poison.toNat) ++ leBytes 2 m.src ++ leBytes 1 m.ndir ++
  leBytes 1 (m.slice % 16 + 16 * m.status) ++ leBytes 2 m.tag ++ leBytes 8 m.fa ++ leBytes 8 m.stamp ++ leBytes 4 m.cseq.toNat ++ leBytes 1 m.off ++
  leBytes 1 m.len ++ leBytes 1 m.aop ++ leBytes 1 m.wid

/-- Tokens of a message, its header included (R516). -/
def fabTokens (m : FabMsg) : Nat := ((fabHeader m).length + m.data.length + 31) / 32

/-- The ports that the copies of a critical message take (R513); with neither NORMAL it stands at PORTA. -/
def State.critWays (s : State) (rt : Route) : List Nat :=
  match [rt.porta, rt.portb].filter s.portUp with
  | [] => [rt.porta]
  | l => l

/-- Hand a message to a port: its tokens leave the VF's bucket, a critical one's down to −DEPTH, and are counted (R516, R518). -/
def State.sendOn (s : State) (vf : Nat) (m : FabMsg) (p : Nat) : State :=
  let s1 := s.updPort p (fun x =>
    { x with level := Store.set 0 x.level vf (max (-((Store.get (0 : Nat) x.depth vf : Nat) : Int)) (Store.get 0 x.level vf - fabTokens m)) })
  { s1 with fab := { s1.fab with out := s1.fab.out ++ [(p, m)] } }.meterAdd vf 4 (32 * fabTokens m)

/-- Send a critical message with the directory's next CSEQ (R513). -/
def State.sendCrit (s : State) (vf : Nat) (rt : Route) (m : FabMsg) : State :=
  let c := Store.get 0 s.fab.ctx m.ndir + 1
  let s1 := { s with fab := { s.fab with ctx := Store.set 0 s.fab.ctx m.ndir c } }
  (s1.critWays rt).foldl (fun t p => t.sendOn vf { m with crit := true, cseq := c } p) s1

/-- A message of the agent, its other fields zero. -/
def State.fabMsg (s : State) (kind ndir slice tag fa stamp : Nat) : FabMsg :=
  { kind := kind, crit := false, nc := false, poison := false, src := s.fab.pkgid, ndir := ndir, slice := slice % 16, status := 0, tag := tag, fa := fa,
    stamp := stamp, cseq := 0, off := 0, len := 0, aop := 0, wid := 0, shared := false, data := [] }

/-- The agent's answer to a directory, or a write-back: the line from M or O, else nothing. -/
def State.writeBack (s : State) (rt : Route) (ndir tag fa : Nat) (l : Option FabLine) : State :=
  let sl := (l.map FabLine.slice).getD 0
  let vf := (l.map FabLine.vf).getD fwVf
  let data := match l with | some x => if x.st = .M ∨ x.st = .O then s.lineEnc x.vf x.fa x.data else [] | none => []
  s.sendCrit vf rt { s.fabMsg 10 ndir sl tag fa (Store.get 0 s.fab.heard ndir) with data := data, len := data.length - 1 }

/-- Is a request on the line, of any slice, with the fabric? -/
def State.lineBusy (s : State) (fa : Nat) : Bool :=
  s.reqs.any (fun e => e.2.coh && e.2.pa / 128 * 128 == fa && (match e.2.fab with | .sent _ _ => true | .unsent => false))

/-- The caching bank of a coherent line for a slice (R519): die × 48 + bank. -/
def State.cacheBank (s : State) (sl fa : Nat) : Nat :=
  let ds := ((clustersOf (s.slice sl).clusters).map (· / 12)).dedup
  ds.getD (fa / 128 % ds.length) 0 * 48 + fa / 512 % 48

/-- The coherent lines that a slice holds in a bank. -/
def State.cohAt (s : State) (sl bank : Nat) : List FabLine := s.fab.lines.filter (fun l => l.slice == sl && s.cacheBank sl l.fa == bank)

/-- A caching bank evicts a coherent line: from M or O it goes back to its directory (R523). -/
def State.cohEvict (s : State) (l : FabLine) : State :=
  let s1 := { s with fab := { s.fab with lines := s.fab.lines.filter (fun x => !(x.slice == l.slice && x.vf == l.vf && x.fa == l.fa)) } }
  match s.route l.vf l.fa with
  | some rt => if l.st = .M ∨ l.st = .O then s1.writeBack rt rt.ndir 0 l.fa (some l) else s1
  | none => s1

end Sys2Proof.Machine
end

