-- ==== Sys2Proof/Machine/Bank.lean ====
section
/-! DEFINITION. HBM4E banks: the address map of a channel, open rows and the activation tracker (R417, R421), and what an access waits
for (R420, R422). -/

namespace Sys2Proof.Machine

/-- An HBM4E channel, by die × 96 + channel of the die. -/
def State.chan (s : State) (c : Nat) : Channel := Store.get {} s.chans c
/-- Change a channel. -/
def State.updChan (s : State) (c : Nat) (f : Channel → Channel) : State := { s with chans := Store.set {} s.chans c (f (s.chan c)) }

/-- Bank of a channel-local address: pseudo-channel × 16 + group × 4 + bank (R417). -/
def bankOf (a : Nat) : Nat := a / 256 % 2 * 16 + a / 512 % 4 * 4 + a / 2048 % 4
/-- Row of a channel-local address. -/
def rowOf (a : Nat) : Nat := a / 65536

/-- A bank. -/
def Channel.bank (c : Channel) (b : Nat) : Bank := Store.get {} c.banks b
/-- Change a bank. -/
def Channel.updBank (c : Channel) (b : Nat) (f : Bank → Bank) : Channel := { c with banks := Store.set {} c.banks b (f (c.bank b)) }

/-- One more in a list of named counts. -/
def bumpCount (v : Nat) (l : List (Nat × Nat)) : List (Nat × Nat) :=
  if l.any (fun e => e.1 == v) then l.map (fun e => if e.1 = v then (e.1, e.2 + 1) else e) else l ++ [(v, 1)]

/-- An activation of a row by a VF in the 64-entry tracker (R421). -/
def bumpTrack (row vf : Nat) (l : List TrackEntry) : List TrackEntry :=
  if l.any (fun e => e.row == row) then l.map (fun e => if e.row = row then { e with count := e.count + 1, vfs := bumpCount vf e.vfs } else e)
  else if l.length < 64 then l ++ [{ row := row, count := 1, vfs := [(vf, 1)] }]
  else
    let least := l.foldl (fun m e => min m e.count) ((l.headD ⟨0, 0, []⟩).count)
    match l.findIdx? (fun e => e.count == least) with
    | some i => l.set i { row := row, count := 1, vfs := [(vf, 1)] }
    | none => l

/-- W of a tenant (R305): the VF's weight, 64 for firmware. -/
def State.weightOf (s : State) (vf : Nat) : Nat := if vf = fwVf then 64 else (s.vf vf).weight

/-- The quantum of a VF in bytes: a sector for each unit of its weight (R418, R447). -/
def State.quantumOf (s : State) (vf : Nat) : Int := 32 * (s.weightOf vf : Int)

/-- The deficit counter of a VF at the pseudo-channel of a bank (R418). -/
def Channel.credit (c : Channel) (bank vf : Nat) : Int := Store.get 0 c.deficit (bank / 16 * 512 + vf)

/-- `n` bytes are taken from a VF's deficit counter at a pseudo-channel (R418). -/
def Channel.debit (c : Channel) (bank vf n : Nat) : Channel :=
  { c with deficit := Store.set 0 c.deficit (bank / 16 * 512 + vf) (c.credit bank vf - n) }

/-- Is the bank, or its pseudo-channel, being refreshed (R420)? -/
def Channel.refreshing (c : Channel) (b : Nat) : Bool :=
  (c.bank b).busy != .idle ||
  (List.range 16).any (fun k => match (c.bank (b / 16 * 16 + k)).busy with | .refab _ => true | _ => false)

/-- Is an alert of the pseudo-channel being answered, or does one wait for its answer (R422)? -/
def Channel.alerted (c : Channel) (b : Nat) : Bool :=
  (List.range 16).any (fun k => (c.bank (b / 16 * 16 + k)).alert.isSome) || c.alerts.any (fun e => e.1 / 16 == b / 16)

/-- A throttled VF's activations of a bank are 200 ns apart (R421). -/
def State.tooSoon (s : State) (b : Bank) (vf : Nat) : Bool :=
  b.throttled.contains vf && (match Store.find b.acted vf with | some t => decide (s.time < t + 320) | none => false)

/-- Does an access to a row of a bank wait: for a refresh, or, as it would activate the row, for an alert or a throttle (R420–R422)? -/
def State.bankWaits (s : State) (c vf a : Nat) : Bool :=
  let x := s.chan c
  let b := x.bank (bankOf a)
  x.refreshing (bankOf a) || (b.row != some (rowOf a) && (x.alerted (bankOf a) || s.tooSoon b vf))

/-- An access of a VF reaches a bank: a row other than the open one is activated. -/
def Bank.access (b : Bank) (row vf time : Nat) : Bank :=
  if b.row = some row then { b with last := time }
  else { b with row := some row, last := time, track := bumpTrack row vf b.track,
                acted := if b.throttled.contains vf then Store.put b.acted vf time else b.acted }

/-- An access of `n` bytes to HBM4E: they are taken from the VF's counter, and its row is accessed, or, when the bank is being refreshed, once that
has ended (R420, R422). -/
def State.hbmTouch (s : State) (vf pa n : Nat) : State :=
  match s.channelOf pa with
  | none => s
  | some (c, a) =>
    let w := s.bankWaits c vf a
    s.updChan c (fun x =>
      let y := x.debit (bankOf a) vf n
      if w then { y with late := y.late ++ [(a, vf, n)] } else y.updBank (bankOf a) (fun b => b.access (rowOf a) vf s.time))

/-! ### L2 (R409, R410) -/

/-- Does L2 hold the sector of an address for a VF (R409: no line hits for another)? -/
def State.l2Has (s : State) (vf pa : Nat) : Bool :=
  match Store.find s.l2 (l2Key (pa / 128) vf) with
  | some l => l.valid.getLsbD (pa / 32 % 4)
  | none => false

/-- A write-back of `n` bytes of a line to HBM4E: its bytes are counted, its counter advances, and it gets its MAC (R469, R494, R495). -/
def State.wroteBack (s : State) (vf pa n : Nat) : State :=
  let s1 := (s.meterAdd vf 3 n).hbmTouch vf pa n
  { s1 with lineCtr := bumpLine s1.lineCtr (pa / 128) }.treeWrite (pa / 128)

/-- The number of a line's dirty sectors. -/
def L2Line.dirtySectors (l : L2Line) : Nat := ((List.range 4).filter (fun k => l.dirty.getLsbD k)).length

/-- An L2 line leaves: its dirty sectors are written back. -/
def State.l2Evict (s : State) (key : Nat) : State :=
  match Store.find s.l2 key with
  | none => s
  | some l =>
    let s1 := { s with l2 := Store.del s.l2 key }
    if l.dirty = 0 then s1 else s1.wroteBack (key % 512) (128 * (key / 512)) (32 * l.dirtySectors)

/-- Lines that a bank has room for in the ways of one cluster: two of 24 ways of 2 MiB (R1, R409). -/
def wayLines : Nat := 2 * 2 ^ 20 / 24 * 2 / 128

/-- Lines that a slice may hold in an L2 bank: the ways of its clusters on the bank's die (R409). -/
def State.bankRoom (s : State) (sl bank : Nat) : Nat :=
  wayLines * ((clustersOf (s.slice sl).clusters).filter (fun c => c / 12 == bank / 48)).length

/-- The slice in whose aperture an address lies. -/
def State.ownerSlice (s : State) (pa : Nat) : Nat := match s.apSlice pa with | some (i, _) => i | none => 16

/-- The bank has room for one more line of a slice: where its ways are full another line of the slice leaves, of device memory or a coherent one that
no message concerns (R409, R519). The replacement order is not architected: which line leaves is a free choice (log 112). -/
def State.l2Room (s : State) (sl bank : Nat) : State :=
  let own := s.l2.filter (fun e => e.2.bank == bank && e.2.slice == sl)
  let coh := s.cohAt sl bank
  let mov := coh.filter (fun l => !s.lineBusy l.fa)
  if own.length + mov.length = 0 ∨ own.length + coh.length < s.bankRoom sl bank then s
  else
    let k := Config.freeNat s.free % (own.length + mov.length)
    match mov[k - own.length]? with
    | some l => { (if k < own.length then s.l2Evict ((own[k]?).map Prod.fst |>.getD 0) else s.cohEvict l) with free := s.free + 1 }
    | none => { s.l2Evict ((own[k]?).map Prod.fst |>.getD 0) with free := s.free + 1 }

/-- A line of an address is in L2 for a VF, empty where it was not. -/
def State.l2Line (s : State) (vf pa : Nat) : State :=
  let k := l2Key (pa / 128) vf
  if (Store.find s.l2 k).isSome then s
  else
    let sl := s.ownerSlice pa
    let s1 := s.l2Room sl (s.homeOf pa)
    { s1 with l2 := Store.put s1.l2 k { bank := s.homeOf pa, slice := sl, vf := vf, valid := 0, dirty := 0 } }

/-- A sector is in L2 for a VF, dirty when it was written. -/
def State.l2Mark (s : State) (vf pa : Nat) (write : Bool) : State :=
  let sec : BitVec 4 := 1 <<< (pa / 32 % 4)
  let s1 := s.l2Line vf pa
  { s1 with l2 := Store.upd s1.l2 (l2Key (pa / 128) vf) (fun l =>
      { l with valid := l.valid ||| sec, dirty := if write then l.dirty ||| sec else l.dirty }) }

/-- A read of a sector: one that L2 does not hold comes from HBM4E; with `.drop` (hint 2) it is not allocated (R203, R410, R469), nor is one that fails
its check (R496). -/
def State.sectorRead (s : State) (vf pa : Nat) (hint : BitVec 3) : State :=
  if hostBase ≤ pa then s
  else if s.l2Has vf pa then s
  else
    let s1 := (s.meterAdd vf 2 32).hbmTouch vf pa 32
    if hint = 2 ∨ (s.macFails (pa / 128)).isSome = true then s1 else s1.l2Mark vf pa false

/-- A write of `n` bytes in one sector (R203, R410): where they cover a part of an absent sector it is read first; `.drop` writes the line on to
HBM4E and does not keep it. -/
def State.sectorWrite (s : State) (vf pa n : Nat) (hint : BitVec 3) : State :=
  let s1 := if n < 32 ∧ s.l2Has vf pa = false then (s.meterAdd vf 2 32).hbmTouch vf pa 32 else s
  let s2 := s1.l2Mark vf pa true
  if hint = 2 then s2.l2Evict (l2Key (pa / 128) vf) else s2

/-- The bytes from `a` on in the sector of `a + i`-th sector of a write: its first address and their number. -/
def sectorPart (a n i : Nat) : Nat × Nat :=
  let lo := max a (32 * (a / 32 + i))
  (lo, min (a + n) (32 * (a / 32 + i + 1)) - lo)

/-- Allocate in L2 what a write of `n` bytes touches. -/
def State.l2Write (s : State) (vf pa n : Nat) (hint : BitVec 3) : State :=
  if hostBase ≤ pa then s
  else (List.range (n / 32 + 2)).foldl (fun t i =>
    let p := sectorPart pa n i
    if p.2 = 0 then t else t.sectorWrite vf p.1 p.2 hint) (s.macSpoil pa n)

/-- The channel and channel-local address at which an access of a VF goes to HBM4E, because L2 does not hold its sector. -/
def State.toHbm (s : State) (vf pa : Nat) : Option (Nat × Nat) := if hostBase ≤ pa ∨ s.l2Has vf pa = true then none else s.channelOf pa

/-- Does an access to a device address that L2 does not hold wait for its bank (R420–R422)? -/
def State.hbmWaits (s : State) (vf pa : Nat) : Bool :=
  match s.toHbm vf pa with
  | none => false
  | some (c, a) => s.bankWaits c vf a

/-! ### The TLBs (R270, R272, R407) -/

/-- The L1 TLB of a core is TLB number `core`, the cluster TLB of die d, cluster k is 196 + 13d + k (R270); core 48 of a die has none, and k = 12
stands for that. -/
def clusterTlb (core : Nat) : Nat := 196 + core / 49 * 13 + core % 49 / 4

/-- The entry of a TLB that maps the address. -/
def State.tlbFind (s : State) (tlb vf : Nat) (va : W64) : Option TlbEntry :=
  s.tlb.find? (fun e => e.tlb == tlb && e.vf == vf && va.toNat / e.size == e.vpage)

/-- What a TLB entry answers. -/
def TlbEntry.tr (e : TlbEntry) (va : W64) : Tr :=
  { pa := e.ppage * e.size + va.toNat % e.size, gpa := e.gpage * e.size + va.toNat % e.size, size := e.size, s1 := e.s1, s2 := e.s2,
    r := e.r, w := e.w, coh := e.coh, rchk := e.rchk, shost := e.shost }

/-- The entry that caches a translation. -/
def Tr.entry (t : Tr) (tlb vf : Nat) (va : W64) : TlbEntry :=
  { tlb := tlb, vf := vf, vpage := va.toNat / t.size, gpage := t.gpa / t.size, ppage := t.pa / t.size, size := t.size,
    s1 := t.s1, s2 := t.s2, r := t.r, w := t.w, coh := t.coh, rchk := t.rchk, shost := t.shost }

/-- Keep at most `n` entries of the TLB, the newest first. -/
def tlbTrim (tlb : Nat) : Nat → List TlbEntry → List TlbEntry
  | _, [] => []
  | n, e :: es => if e.tlb = tlb then (if n = 0 then tlbTrim tlb 0 es else e :: tlbTrim tlb (n - 1) es) else e :: tlbTrim tlb n es

/-- Put an entry into a TLB of `cap` entries, newest first. -/
def State.tlbAdd (s : State) (cap : Nat) (e : TlbEntry) : State := { s with tlb := tlbTrim e.tlb cap (e :: s.tlb) }

/-- Put a translation into the TLBs of a core and of its cluster (R270). -/
def State.tlbFill (s : State) (t : Tr) (core vf : Nat) (va : W64) : State :=
  (if core % 49 = 48 then s else s.tlbAdd 16384 (t.entry (clusterTlb core) vf va)).tlbAdd 1024 (t.entry core vf va)

/-- The table entries that a walk reads are read at their homes, as `.home` reads (R270). -/
def State.walkReads (s : State) (vf : Nat) (va : W64) : State := (s.walkAll vf va).1.foldl (fun t a => t.sectorRead vf a 1) s

/-- The level of a leaf by the size of its page (R272). -/
def leafLevel (size : Nat) : Nat := if size < 2 ^ 21 then 1 else if size < 2 ^ 30 then 2 else 3

/-- What a TLB entry answers for an address: one that its leaf leads outside the aperture or into a region that is not the VF's fails as in a walk
(R407, R493). -/
def State.tlbOut (s : State) (e : TlbEntry) (va : W64) : Except XErr Tr :=
  if e.coh || s.mayReach e.vf e.shost (e.tr va).pa then .ok (e.tr va) else .error { stage := 2, level := leafLevel e.s2, malformed := true }

/-- Translate for a VF at a core: the L1 TLB, then the cluster TLB, then a walk that fills both and reads its table entries as `.home` reads
(R270). `none` for the VF is firmware, whose addresses are physical (log 19). -/
def State.translate (s : State) (core : Nat) (vf : Option Nat) (va : W64) : State × Except XErr Tr :=
  match vf with
  | none =>
    let pa := va.toNat
    if !canonical va then (s, .error { stage := 1, level := 5, noncanon := true })
    else if s.backed pa then
      (s, .ok { pa := pa, gpa := pa, size := 2 ^ 12, s1 := 2 ^ 12, s2 := 2 ^ 12, r := true, w := true, coh := false, rchk := false, shost := false })
    else (s, .error { stage := 2, malformed := true })
  | some vf =>
    match s.tlbFind core vf va with
    | some e => (s, s.tlbOut e va)
    | none =>
      match s.tlbFind (clusterTlb core) vf va with
      | some e => (s.tlbAdd 1024 { e with tlb := core }, s.tlbOut e va)
      | none =>
        match (s.walkAll vf va).2 with
        | .error x => (s.walkReads vf va, .error x)
        | .ok t => ((s.walkReads vf va).tlbFill t core vf va, .ok t)

end Sys2Proof.Machine
end

