-- ==== Sys2Proof/Decode.lean ====
section
/-! DEFINITION. Decoding and encoding (R45, R52, R53, R72), written from the encoding tables of the manual's chapters. -/

namespace Sys2Proof

/-- Why a word is no instruction. -/
inductive DecodeReject where
  /-- The opcode is 0x000, 0x3FF, 0x260–0x3FE or an unlisted code within a range (R73 reason 1). -/
  | notInstruction (opc : Nat)
  /-- Fewer than 12 bytes. -/
  | short
  deriving DecidableEq, Repr

/-- Bits `lo + n − 1` to `lo` of a word. -/
def fld (n lo : Nat) (w : W96) : BitVec n := w.extractLsb' lo n

/-- Bits 85:60 (R52). -/
def fieldsH (w : W96) : Hdr :=
  { wbs := fld 1 85 w, greg := fld 9 76 w, gbit := fld 5 71 w, gneg := fld 1 70 w, dst := fld 10 60 w }

/-- Format G (R53). -/
def fieldsG (w : W96) : FmtG := { h := fieldsH w, a := fld 10 50 w, b := fld 10 40 w, c := fld 10 30 w, md := fld 30 0 w }

/-- Format K (R53). -/
def fieldsK (w : W96) : FmtK := { h := fieldsH w, a := fld 10 50 w, b := fld 10 40 w, imm := fld 32 8 w, md := fld 8 0 w }

/-- Format M (R53). -/
def fieldsM (w : W96) : FmtM :=
  { h := fieldsH w, a := fld 10 50 w, b := fld 10 40 w, c := fld 10 30 w, off := fld 20 10 w, width := fld 4 6 w,
    hint := fld 3 3 w, scope := fld 3 0 w }

/-- Format J (R53). -/
def fieldsJ (w : W96) : FmtJ := { h := fieldsH w, off := fld 27 33 w, tslot := fld 3 30 w, md := fld 30 0 w }

/-- Format X (R53). -/
def fieldsX (w : W96) : FmtX :=
  { h := fieldsH w, slota := fld 6 54 w, slotb := fld 6 48 w, acc := fld 8 40 w, c := fld 10 30 w, etype := fld 5 25 w,
    gsz := fld 2 23 w, rnd := fld 2 21 w, ovf := fld 2 19 w, outt := fld 5 14 w, xflg := fld 14 0 w }

/-- Format E (R53). -/
def fieldsE (w : W96) : FmtE :=
  { h := fieldsH w, a := fld 10 50 w, b := fld 10 40 w, c := fld 10 30 w, soff := fld 18 12 w, width := fld 4 8 w,
    dims := fld 3 5 w, bt := fld 1 4 w, eflg := fld 4 0 w }

/-- Format S (R53). -/
def fieldsS (w : W96) : FmtS :=
  { h := fieldsH w, a := fld 10 50 w, b := fld 10 40 w, imm := fld 16 24 w, sub := fld 4 20 w, pad := fld 20 0 w }

/-- The decoder (R72): the instruction of an opcode, with its fields; every other code is refused by name. -/
def decodeOpc (opc : Nat) (w : W96) : Except DecodeReject Instr :=
  match opc with
  | 0x001 => .ok (.add (fieldsG w))
  | 0x002 => .ok (.addK (fieldsK w))
  | 0x003 => .ok (.sub (fieldsG w))
  | 0x004 => .ok (.addc (fieldsG w))
  | 0x005 => .ok (.subb (fieldsG w))
  | 0x006 => .ok (.mul (fieldsG w))
  | 0x007 => .ok (.mulK (fieldsK w))
  | 0x008 => .ok (.mulh (fieldsG w))
  | 0x009 => .ok (.mad (fieldsG w))
  | 0x00A => .ok (.madh (fieldsG w))
  | 0x00B => .ok (.div (fieldsG w))
  | 0x00C => .ok (.rem (fieldsG w))
  | 0x00D => .ok (.min (fieldsG w))
  | 0x00E => .ok (.max (fieldsG w))
  | 0x00F => .ok (.abs (fieldsG w))
  | 0x010 => .ok (.neg (fieldsG w))
  | 0x011 => .ok (.clamp (fieldsG w))
  | 0x018 => .ok (.and (fieldsG w))
  | 0x019 => .ok (.andK (fieldsK w))
  | 0x01A => .ok (.or (fieldsG w))
  | 0x01B => .ok (.orK (fieldsK w))
  | 0x01C => .ok (.xor (fieldsG w))
  | 0x01D => .ok (.xorK (fieldsK w))
  | 0x01E => .ok (.andn (fieldsG w))
  | 0x020 => .ok (.shl (fieldsG w))
  | 0x021 => .ok (.shr (fieldsG w))
  | 0x022 => .ok (.sra (fieldsG w))
  | 0x023 => .ok (.rot (fieldsG w))
  | 0x024 => .ok (.bfe (fieldsG w))
  | 0x025 => .ok (.bfi (fieldsG w))
  | 0x026 => .ok (.popc (fieldsG w))
  | 0x027 => .ok (.clz (fieldsG w))
  | 0x028 => .ok (.ctz (fieldsG w))
  | 0x029 => .ok (.brev (fieldsG w))
  | 0x02C => .ok (.cmp (fieldsG w))
  | 0x030 => .ok (.sel (fieldsG w))
  | 0x031 => .ok (.mov (fieldsG w))
  | 0x032 => .ok (.movk (fieldsK w))
  | 0x033 => .ok (.lea (fieldsG w))
  | 0x034 => .ok (.leaK (fieldsK w))
  | 0x040 => .ok (.vbc (fieldsG w))
  | 0x041 => .ok (.rdlane (fieldsG w))
  | 0x042 => .ok (.wrlane (fieldsG w))
  | 0x043 => .ok (.shfl (fieldsG w))
  | 0x044 => .ok (.lsh (fieldsG w))
  | 0x045 => .ok (.vote (fieldsG w))
  | 0x046 => .ok (.lred (fieldsG w))
  | 0x047 => .ok (.lscan (fieldsG w))
  | 0x050 => .ok (.addmin (fieldsG w))
  | 0x051 => .ok (.addmax (fieldsG w))
  | 0x052 => .ok (.dp4 (fieldsG w))
  | 0x080 => .ok (.fadd (fieldsG w))
  | 0x081 => .ok (.faddK (fieldsK w))
  | 0x082 => .ok (.fsub (fieldsG w))
  | 0x083 => .ok (.fmul (fieldsG w))
  | 0x084 => .ok (.fmulK (fieldsK w))
  | 0x085 => .ok (.ffma (fieldsG w))
  | 0x086 => .ok (.fmin (fieldsG w))
  | 0x087 => .ok (.fmax (fieldsG w))
  | 0x088 => .ok (.fcmp (fieldsG w))
  | 0x089 => .ok (.fclass (fieldsG w))
  | 0x08A => .ok (.frnd (fieldsG w))
  | 0x08B => .ok (.fscale (fieldsG w))
  | 0x090 => .ok (.frcp (fieldsG w))
  | 0x091 => .ok (.frsq (fieldsG w))
  | 0x092 => .ok (.fsqrt (fieldsG w))
  | 0x093 => .ok (.fex2 (fieldsG w))
  | 0x094 => .ok (.flg2 (fieldsG w))
  | 0x095 => .ok (.fsin (fieldsG w))
  | 0x096 => .ok (.fcos (fieldsG w))
  | 0x097 => .ok (.ftanh (fieldsG w))
  | 0x098 => .ok (.fsigm (fieldsG w))
  | 0x0A0 => .ok (.hadd2 (fieldsG w))
  | 0x0A1 => .ok (.hmul2 (fieldsG w))
  | 0x0A2 => .ok (.hfma2 (fieldsG w))
  | 0x0A3 => .ok (.hmax2 (fieldsG w))
  | 0x0A4 => .ok (.dp2 (fieldsG w))
  | 0x0C0 => .ok (.cvt (fieldsG w))
  | 0x0C1 => .ok (.pack (fieldsG w))
  | 0x0C2 => .ok (.unpack (fieldsG w))
  | 0x100 => .ok (.nop (fieldsG w))
  | 0x101 => .ok (.bra (fieldsJ w))
  | 0x102 => .ok (.brx (fieldsG w))
  | 0x103 => .ok (.dbra (fieldsJ w))
  | 0x104 => .ok (.call (fieldsJ w))
  | 0x105 => .ok (.callx (fieldsG w))
  | 0x106 => .ok (.ret (fieldsG w))
  | 0x107 => .ok (.rgn (fieldsJ w))
  | 0x108 => .ok (.join (fieldsG w))
  | 0x109 => .ok (.brk (fieldsG w))
  | 0x10A => .ok (.exit (fieldsG w))
  | 0x10B => .ok (.yield (fieldsG w))
  | 0x10C => .ok (.trap (fieldsG w))
  | 0x10D => .ok (.bkpt (fieldsG w))
  | 0x140 => .ok (.ld (fieldsM w))
  | 0x141 => .ok (.st (fieldsM w))
  | 0x142 => .ok (.sld (fieldsM w))
  | 0x143 => .ok (.sst (fieldsM w))
  | 0x144 => .ok (.pref (fieldsM w))
  | 0x148 => .ok (.atomAdd (fieldsM w))
  | 0x149 => .ok (.atomMin (fieldsM w))
  | 0x14A => .ok (.atomMax (fieldsM w))
  | 0x14B => .ok (.atomAnd (fieldsM w))
  | 0x14C => .ok (.atomOr (fieldsM w))
  | 0x14D => .ok (.atomXor (fieldsM w))
  | 0x14E => .ok (.atomExch (fieldsM w))
  | 0x14F => .ok (.atomCas (fieldsM w))
  | 0x158 => .ok (.redAdd (fieldsM w))
  | 0x159 => .ok (.redMin (fieldsM w))
  | 0x15A => .ok (.redMax (fieldsM w))
  | 0x15B => .ok (.redAnd (fieldsM w))
  | 0x15C => .ok (.redOr (fieldsM w))
  | 0x15D => .ok (.redXor (fieldsM w))
  | 0x170 => .ok (.wjoin (fieldsM w))
  | 0x171 => .ok (.wjoinr (fieldsM w))
  | 0x172 => .ok (.wtest (fieldsM w))
  | 0x173 => .ok (.wwait (fieldsM w))
  | 0x174 => .ok (.wcanc (fieldsM w))
  | 0x175 => .ok (.wscop (fieldsM w))
  | 0x1C0 => .ok (.rdcr (fieldsS w))
  | 0x1C1 => .ok (.wrcr (fieldsS w))
  | 0x1C2 => .ok (.rdflt (fieldsS w))
  | 0x1C3 => .ok (.rte (fieldsS w))
  | 0x1C4 => .ok (.sys (fieldsS w))
  | 0x250 => .ok (.halt (fieldsS w))
  | 0x251 => .ok (.tlbi (fieldsS w))
  | 0x252 => .ok (.ldio (fieldsS w))
  | 0x253 => .ok (.stio (fieldsS w))
  | 0x254 => .ok (.mbxw (fieldsS w))
  | 0x255 => .ok (.engx (fieldsS w))
  | 0x1E0 => .ok (.strm (fieldsE w))
  | 0x1E1 => .ok (.strmx (fieldsE w))
  | 0x1E2 => .ok (.oqst (fieldsE w))
  | 0x1F0 => .ok (.lds (fieldsE w))
  | 0x1F1 => .ok (.sts (fieldsE w))
  | 0x1F2 => .ok (.pres (fieldsE w))
  | 0x1F3 => .ok (.fmask (fieldsE w))
  | 0x1F8 => .ok (.atomsAdd (fieldsE w))
  | 0x1F9 => .ok (.atomsMin (fieldsE w))
  | 0x1FA => .ok (.atomsMax (fieldsE w))
  | 0x1FB => .ok (.atomsAnd (fieldsE w))
  | 0x1FC => .ok (.atomsOr (fieldsE w))
  | 0x1FD => .ok (.atomsXor (fieldsE w))
  | 0x1FE => .ok (.atomsExch (fieldsE w))
  | 0x1FF => .ok (.atomsCas (fieldsE w))
  | 0x200 => .ok (.cpy (fieldsE w))
  | 0x201 => .ok (.cpyo (fieldsE w))
  | 0x202 => .ok (.cpyg (fieldsE w))
  | 0x210 => .ok (.gang (fieldsX w))
  | 0x211 => .ok (.oclm (fieldsX w))
  | 0x212 => .ok (.orel (fieldsX w))
  | 0x213 => .ok (.old (fieldsX w))
  | 0x218 => .ok (.mma (fieldsX w))
  | 0x219 => .ok (.mzero (fieldsX w))
  | 0x21A => .ok (.scacc (fieldsX w))
  | 0x21B => .ok (.mdrain (fieldsX w))
  | 0x21C => .ok (.mrd (fieldsX w))
  | 0x240 => .ok (.bini (fieldsS w))
  | 0x241 => .ok (.barr (fieldsS w))
  | 0x242 => .ok (.bwait (fieldsS w))
  | 0x243 => .ok (.barw (fieldsS w))
  | 0x244 => .ok (.binv (fieldsS w))
  | 0x245 => .ok (.bqry (fieldsS w))
  | n => .error (.notInstruction n)

/-- The instruction that 96 bits hold. -/
def decode (w : W96) : Except DecodeReject Instr := decodeOpc (fld 10 86 w).toNat w

/-- The 96-bit word that twelve bytes hold, the first the least significant (R12, R45). -/
def wordOfBytes : List Byte → W96
  | [] => 0
  | b :: bs => (b.zeroExtend 96) ||| (wordOfBytes bs <<< 8)

/-- Decode a list of bytes: the first instruction and the bytes after it. -/
def decodeBytes (bs : List Byte) : Except DecodeReject (Instr × List Byte) :=
  if bs.length < 12 then .error .short
  else match decode (wordOfBytes (bs.take 12)) with
    | .ok i => .ok (i, bs.drop 12)
    | .error e => .error e

/-- Bits 85:60 as laid out in R52. -/
def bodyH (h : Hdr) : BitVec 26 := h.wbs ++ h.greg ++ h.gbit ++ h.gneg ++ h.dst

/-- Format G, bits 85:0. -/
def bodyG (f : FmtG) : BitVec 86 := bodyH f.h ++ f.a ++ f.b ++ f.c ++ f.md
/-- Format K, bits 85:0. -/
def bodyK (f : FmtK) : BitVec 86 := bodyH f.h ++ f.a ++ f.b ++ f.imm ++ f.md
/-- Format M, bits 85:0. -/
def bodyM (f : FmtM) : BitVec 86 := bodyH f.h ++ f.a ++ f.b ++ f.c ++ f.off ++ f.width ++ f.hint ++ f.scope
/-- Format J, bits 85:0. -/
def bodyJ (f : FmtJ) : BitVec 86 := bodyH f.h ++ f.off ++ f.tslot ++ f.md
/-- Format X, bits 85:0. -/
def bodyX (f : FmtX) : BitVec 86 :=
  bodyH f.h ++ f.slota ++ f.slotb ++ f.acc ++ f.c ++ f.etype ++ f.gsz ++ f.rnd ++ f.ovf ++ f.outt ++ f.xflg
/-- Format E, bits 85:0. -/
def bodyE (f : FmtE) : BitVec 86 := bodyH f.h ++ f.a ++ f.b ++ f.c ++ f.soff ++ f.width ++ f.dims ++ f.bt ++ f.eflg
/-- Format S, bits 85:0. -/
def bodyS (f : FmtS) : BitVec 86 := bodyH f.h ++ f.a ++ f.b ++ f.imm ++ f.sub ++ f.pad

/-- The opcode and the 86 bits below it; an event has no encoding. -/
def encodeParts : Instr → Option (BitVec 10 × BitVec 86)
  | .add f => some (0x001, bodyG f)
  | .addK f => some (0x002, bodyK f)
  | .sub f => some (0x003, bodyG f)
  | .addc f => some (0x004, bodyG f)
  | .subb f => some (0x005, bodyG f)
  | .mul f => some (0x006, bodyG f)
  | .mulK f => some (0x007, bodyK f)
  | .mulh f => some (0x008, bodyG f)
  | .mad f => some (0x009, bodyG f)
  | .madh f => some (0x00A, bodyG f)
  | .div f => some (0x00B, bodyG f)
  | .rem f => some (0x00C, bodyG f)
  | .min f => some (0x00D, bodyG f)
  | .max f => some (0x00E, bodyG f)
  | .abs f => some (0x00F, bodyG f)
  | .neg f => some (0x010, bodyG f)
  | .clamp f => some (0x011, bodyG f)
  | .and f => some (0x018, bodyG f)
  | .andK f => some (0x019, bodyK f)
  | .or f => some (0x01A, bodyG f)
  | .orK f => some (0x01B, bodyK f)
  | .xor f => some (0x01C, bodyG f)
  | .xorK f => some (0x01D, bodyK f)
  | .andn f => some (0x01E, bodyG f)
  | .shl f => some (0x020, bodyG f)
  | .shr f => some (0x021, bodyG f)
  | .sra f => some (0x022, bodyG f)
  | .rot f => some (0x023, bodyG f)
  | .bfe f => some (0x024, bodyG f)
  | .bfi f => some (0x025, bodyG f)
  | .popc f => some (0x026, bodyG f)
  | .clz f => some (0x027, bodyG f)
  | .ctz f => some (0x028, bodyG f)
  | .brev f => some (0x029, bodyG f)
  | .cmp f => some (0x02C, bodyG f)
  | .sel f => some (0x030, bodyG f)
  | .mov f => some (0x031, bodyG f)
  | .movk f => some (0x032, bodyK f)
  | .lea f => some (0x033, bodyG f)
  | .leaK f => some (0x034, bodyK f)
  | .vbc f => some (0x040, bodyG f)
  | .rdlane f => some (0x041, bodyG f)
  | .wrlane f => some (0x042, bodyG f)
  | .shfl f => some (0x043, bodyG f)
  | .lsh f => some (0x044, bodyG f)
  | .vote f => some (0x045, bodyG f)
  | .lred f => some (0x046, bodyG f)
  | .lscan f => some (0x047, bodyG f)
  | .addmin f => some (0x050, bodyG f)
  | .addmax f => some (0x051, bodyG f)
  | .dp4 f => some (0x052, bodyG f)
  | .fadd f => some (0x080, bodyG f)
  | .faddK f => some (0x081, bodyK f)
  | .fsub f => some (0x082, bodyG f)
  | .fmul f => some (0x083, bodyG f)
  | .fmulK f => some (0x084, bodyK f)
  | .ffma f => some (0x085, bodyG f)
  | .fmin f => some (0x086, bodyG f)
  | .fmax f => some (0x087, bodyG f)
  | .fcmp f => some (0x088, bodyG f)
  | .fclass f => some (0x089, bodyG f)
  | .frnd f => some (0x08A, bodyG f)
  | .fscale f => some (0x08B, bodyG f)
  | .frcp f => some (0x090, bodyG f)
  | .frsq f => some (0x091, bodyG f)
  | .fsqrt f => some (0x092, bodyG f)
  | .fex2 f => some (0x093, bodyG f)
  | .flg2 f => some (0x094, bodyG f)
  | .fsin f => some (0x095, bodyG f)
  | .fcos f => some (0x096, bodyG f)
  | .ftanh f => some (0x097, bodyG f)
  | .fsigm f => some (0x098, bodyG f)
  | .hadd2 f => some (0x0A0, bodyG f)
  | .hmul2 f => some (0x0A1, bodyG f)
  | .hfma2 f => some (0x0A2, bodyG f)
  | .hmax2 f => some (0x0A3, bodyG f)
  | .dp2 f => some (0x0A4, bodyG f)
  | .cvt f => some (0x0C0, bodyG f)
  | .pack f => some (0x0C1, bodyG f)
  | .unpack f => some (0x0C2, bodyG f)
  | .nop f => some (0x100, bodyG f)
  | .bra f => some (0x101, bodyJ f)
  | .brx f => some (0x102, bodyG f)
  | .dbra f => some (0x103, bodyJ f)
  | .call f => some (0x104, bodyJ f)
  | .callx f => some (0x105, bodyG f)
  | .ret f => some (0x106, bodyG f)
  | .rgn f => some (0x107, bodyJ f)
  | .join f => some (0x108, bodyG f)
  | .brk f => some (0x109, bodyG f)
  | .exit f => some (0x10A, bodyG f)
  | .yield f => some (0x10B, bodyG f)
  | .trap f => some (0x10C, bodyG f)
  | .bkpt f => some (0x10D, bodyG f)
  | .ld f => some (0x140, bodyM f)
  | .st f => some (0x141, bodyM f)
  | .sld f => some (0x142, bodyM f)
  | .sst f => some (0x143, bodyM f)
  | .pref f => some (0x144, bodyM f)
  | .atomAdd f => some (0x148, bodyM f)
  | .atomMin f => some (0x149, bodyM f)
  | .atomMax f => some (0x14A, bodyM f)
  | .atomAnd f => some (0x14B, bodyM f)
  | .atomOr f => some (0x14C, bodyM f)
  | .atomXor f => some (0x14D, bodyM f)
  | .atomExch f => some (0x14E, bodyM f)
  | .atomCas f => some (0x14F, bodyM f)
  | .redAdd f => some (0x158, bodyM f)
  | .redMin f => some (0x159, bodyM f)
  | .redMax f => some (0x15A, bodyM f)
  | .redAnd f => some (0x15B, bodyM f)
  | .redOr f => some (0x15C, bodyM f)
  | .redXor f => some (0x15D, bodyM f)
  | .wjoin f => some (0x170, bodyM f)
  | .wjoinr f => some (0x171, bodyM f)
  | .wtest f => some (0x172, bodyM f)
  | .wwait f => some (0x173, bodyM f)
  | .wcanc f => some (0x174, bodyM f)
  | .wscop f => some (0x175, bodyM f)
  | .rdcr f => some (0x1C0, bodyS f)
  | .wrcr f => some (0x1C1, bodyS f)
  | .rdflt f => some (0x1C2, bodyS f)
  | .rte f => some (0x1C3, bodyS f)
  | .sys f => some (0x1C4, bodyS f)
  | .halt f => some (0x250, bodyS f)
  | .tlbi f => some (0x251, bodyS f)
  | .ldio f => some (0x252, bodyS f)
  | .stio f => some (0x253, bodyS f)
  | .mbxw f => some (0x254, bodyS f)
  | .engx f => some (0x255, bodyS f)
  | .strm f => some (0x1E0, bodyE f)
  | .strmx f => some (0x1E1, bodyE f)
  | .oqst f => some (0x1E2, bodyE f)
  | .lds f => some (0x1F0, bodyE f)
  | .sts f => some (0x1F1, bodyE f)
  | .pres f => some (0x1F2, bodyE f)
  | .fmask f => some (0x1F3, bodyE f)
  | .atomsAdd f => some (0x1F8, bodyE f)
  | .atomsMin f => some (0x1F9, bodyE f)
  | .atomsMax f => some (0x1FA, bodyE f)
  | .atomsAnd f => some (0x1FB, bodyE f)
  | .atomsOr f => some (0x1FC, bodyE f)
  | .atomsXor f => some (0x1FD, bodyE f)
  | .atomsExch f => some (0x1FE, bodyE f)
  | .atomsCas f => some (0x1FF, bodyE f)
  | .cpy f => some (0x200, bodyE f)
  | .cpyo f => some (0x201, bodyE f)
  | .cpyg f => some (0x202, bodyE f)
  | .gang f => some (0x210, bodyX f)
  | .oclm f => some (0x211, bodyX f)
  | .orel f => some (0x212, bodyX f)
  | .old f => some (0x213, bodyX f)
  | .mma f => some (0x218, bodyX f)
  | .mzero f => some (0x219, bodyX f)
  | .scacc f => some (0x21A, bodyX f)
  | .mdrain f => some (0x21B, bodyX f)
  | .mrd f => some (0x21C, bodyX f)
  | .bini f => some (0x240, bodyS f)
  | .barr f => some (0x241, bodyS f)
  | .bwait f => some (0x242, bodyS f)
  | .barw f => some (0x243, bodyS f)
  | .binv f => some (0x244, bodyS f)
  | .bqry f => some (0x245, bodyS f)
  | .fetchLine _ _ => none
  | .issueCycle _ => none
  | .pathQuantumExpired _ => none
  | .groupSwapOut _ => none
  | .activePlaceFill _ => none
  | .trapHandlerEntry _ => none
  | .blockEnd _ => none
  | .loadReply _ _ => none
  | .homeCommit _ => none
  | .atomicPerform _ => none
  | .witnessSatisfied _ => none
  | .groupRetire _ => none
  | .l1Fill _ _ _ => none
  | .counterPublish _ _ => none
  | .counterRepublish _ _ => none
  | .ringMessageReceive _ _ _ => none
  | .renewalRequest _ _ => none
  | .renewalDrained _ _ => none
  | .generationMessage _ => none
  | .streamEntryProduce _ _ => none
  | .streamSpill _ _ => none
  | .preemptGroup _ => none
  | .copyElementWrite _ => none
  | .copyJobComplete _ => none
  | .copyJobStop _ => none
  | .engineJobStart _ => none
  | .gangRendezvousComplete _ _ => none
  | .gangmisFailure _ _ => none
  | .matrixOpStart _ _ => none
  | .matrixOpComplete _ _ => none
  | .barrierWitnessArrival _ _ => none
  | .orphanArrival _ _ => none
  | .homeWatchAccept _ _ => none
  | .scrubRead _ _ => none
  | .sramUncorrectable _ _ => none
  | .clusterNetworkError _ _ => none
  | .blockPlace _ => none
  | .launchTurnBegin _ => none
  | .capacityHold _ _ => none
  | .refreshDue _ _ => none
  | .refpbRepay _ _ => none
  | .refreshComplete _ _ => none
  | .rowPrecharge _ _ => none
  | .activationThreshold _ _ _ => none
  | .throttleEnd _ _ _ => none
  | .trackerWindowEnd _ _ => none
  | .alertBackOff _ _ => none
  | .hbmScrubRead _ _ => none
  | .scrubEscalate _ _ => none
  | .hbmUncorrectable _ _ => none
  | .macMismatch _ _ => none
  | .rootLost _ _ => none
  | .launch _ _ => none
  | .graph _ _ => none
  | .signal _ _ => none
  | .wait _ _ => none
  | .copy _ _ => none
  | .launchComplete _ => none
  | .graphNodeComplete _ => none
  | .entrySelect _ => none
  | .queueRefill _ _ => none
  | .refillTimer _ _ => none
  | .doorbell _ _ => none
  | .waitSlotPoll _ _ => none
  | .spilledWaitPoll _ _ => none
  | .holdtExpired _ _ => none
  | .entryTimeout _ _ _ => none
  | .noticePost _ => none
  | .sysNop _ => none
  | .meter _ => none
  | .notify _ => none
  | .tlbinv _ => none
  | .sysReply _ => none
  | .stage2InvalidatePage _ _ => none
  | .stage2InvalidateVf _ _ => none
  | .queueStart _ _ => none
  | .queueStop _ _ => none
  | .mailboxInbound _ _ _ => none
  | .haltTimerExpired _ => none
  | .mbxin _ _ => none
  | .mbxout _ => none
  | .inpop _ _ => none
  | .registerWrite _ _ _ => none
  | .powerGood _ _ => none
  | .table _ => none
  | .create _ => none
  | .destroy _ => none
  | .vfon _ => none
  | .vfoff _ => none
  | .lend _ => none
  | .recall _ => none
  | .recallJobDeadline _ => none
  | .merge _ => none
  | .split _ => none
  | .resize _ => none
  | .exportSlice _ => none
  | .importSlice _ => none
  | .core _ => none
  | .flags _ => none
  | .region _ => none
  | .reload _ => none
  | .quiesceStep _ => none
  | .gourdExchange _ _ => none
  | .haltCores _ => none
  | .timeSliceEnd _ => none
  | .boostLimit => none
  | .meterCopy => none
  | .getVersion _ => none
  | .getCapabilities _ => none
  | .negotiateAlgorithms _ => none
  | .getDigests _ => none
  | .getCertificate _ _ => none
  | .challenge _ _ => none
  | .getMeasurements _ _ => none
  | .keyExchange _ => none
  | .finish _ => none
  | .heartbeat _ => none
  | .keyUpdate _ => none
  | .endSession _ => none
  | .evidence _ _ _ _ => none
  | .install _ _ _ _ _ => none
  | .keyProg _ _ _ => none
  | .kSetGo _ _ => none
  | .kSetStop _ _ => none
  | .lockInterfaceRequest _ _ => none
  | .getDeviceInterfaceReport _ _ => none
  | .startInterfaceRequest _ _ => none
  | .stopInterfaceRequest _ _ => none
  | .tdispAbort => none
  | .frozenRegisterWrite _ _ => none
  | .wrongStreamTlp _ _ _ => none
  | .hostMmio _ _ _ _ _ => none
  | .nymlinkRead _ _ => none
  | .nymlinkWrite _ _ => none
  | .rd _ => none
  | .rdx _ => none
  | .wr _ => none
  | .atm _ => none
  | .probe _ => none
  | .rsp _ _ => none
  | .rcl _ _ => none
  | .fail _ _ => none
  | .badmsg _ _ => none
  | .criticalDuplicate _ _ => none
  | .lineEvict _ _ => none
  | .ncExpire _ => none
  | .remoteTimeout _ => none
  | .linkTrained _ _ => none
  | .crcFailure _ _ => none
  | .replayPassed _ => none
  | .retrain _ _ => none
  | .laneRetire _ _ => none
  | .healthDecay _ => none
  | .portDisable _ => none
  | .tokenRefill _ => none
  | .fabricStatusWrite => none
  | .registerLineFetch _ _ => none
  | .gourdWriteOut _ => none
  | .powerLoss => none
  | .l2Uncorrectable _ _ => none
  | .doeDiscovery _ => none
  | .outboundRingTake _ _ => none
  | .unsupportedTdispRequest _ _ => none

/-- The 96-bit word of an instruction; an event has none. -/
def encode (i : Instr) : Option W96 :=
  match encodeParts i with
  | some (op, body) => some (op ++ body)
  | none => none

/-- The opcode of an instruction; an event reads 0, which is no instruction (R72). -/
def opcode (i : Instr) : BitVec 10 :=
  match encodeParts i with
  | some (op, _) => op
  | none => 0

/-- What the decoder reads from an instruction whose bits are `w`, bit 0 the least significant bit of the first byte. -/
def decodeTableWord (_nbits w : Nat) : Option Instr :=
  match decode (BitVec.ofNat 96 w) with
  | .ok i => some i
  | .error _ => none

end Sys2Proof
end

