-- ==== Sys2Proof/Machine/Operands.lean ====
section
/-! DEFINITION. The type codes (R60), the operand specifiers (R61–R65), and what each instruction's entry says of its
fields and operands: the checks of R73 that need the word alone (reasons 3, 4, 5, 7, 8), and the registers it names. -/

namespace Sys2Proof.Machine

/-- The type codes of R60. -/
inductive Ty where
  | b8 | b16 | b32 | b64 | b128
  | i4 | n4 | i8 | n8 | i16 | n16 | i32 | n32 | i64 | n64
  | e4m3 | e5m2 | f16 | bf16 | f32 | f16x2 | bf16x2
  deriving DecidableEq, Repr

/-- The type of a 5-bit code; every other code is illegal (R60). -/
def Ty.ofCode (c : BitVec 5) : Option Ty :=
  match c.toNat with
  | 0x00 => some .b8 | 0x01 => some .b16 | 0x02 => some .b32 | 0x03 => some .b64 | 0x04 => some .b128
  | 0x05 => some .i4 | 0x06 => some .n4 | 0x07 => some .i8 | 0x08 => some .n8 | 0x09 => some .i16
  | 0x0A => some .n16 | 0x0B => some .i32 | 0x0C => some .n32 | 0x0D => some .i64 | 0x0E => some .n64
  | 0x10 => some .e4m3 | 0x11 => some .e5m2 | 0x12 => some .f16 | 0x13 => some .bf16 | 0x14 => some .f32
  | 0x15 => some .f16x2 | 0x16 => some .bf16x2
  | _ => none

/-- The width of a type in bits (R86, R89). -/
def Ty.width : Ty → Nat
  | .i4 | .n4 => 4
  | .b8 | .i8 | .n8 | .e4m3 | .e5m2 => 8
  | .b16 | .i16 | .n16 | .f16 | .bf16 => 16
  | .b32 | .i32 | .n32 | .f32 | .f16x2 | .bf16x2 => 32
  | .b64 | .i64 | .n64 => 64
  | .b128 => 128

/-- Signed integer types (R86). -/
def Ty.signed : Ty → Bool
  | .i4 | .i8 | .i16 | .i32 | .i64 => true
  | _ => false

/-- Registers that an operand of the type takes (R23, R88, R119). -/
def Ty.regs (t : Ty) : Nat := if t.width = 64 then 2 else if t.width = 128 then 4 else 1

/-- INT of R116. -/
def Ty.isInt : Ty → Bool
  | .i8 | .n8 | .i16 | .n16 | .i32 | .n32 | .i64 | .n64 => true
  | _ => false

/-- WIDE of R116. -/
def Ty.isWide : Ty → Bool
  | .i32 | .n32 | .i64 | .n64 => true
  | _ => false

/-- BITS of R116. -/
def Ty.isBits : Ty → Bool
  | .b32 | .b64 => true
  | _ => false

/-- The scalar floating-point types (R89). -/
def Ty.isFloat : Ty → Bool
  | .e4m3 | .e5m2 | .f16 | .bf16 | .f32 => true
  | _ => false

/-- The types that `cvt` converts between (R169). -/
def Ty.isCvt (t : Ty) : Bool := t.isInt || t.isFloat

/-- Significand bits of a float type (R89), 0 for the others. -/
def Ty.prec : Ty → Nat
  | .e4m3 => 4
  | .e5m2 => 3
  | .f16 | .f16x2 => 11
  | .bf16 | .bf16x2 => 8
  | .f32 => 24
  | _ => 0

/-- An operand specifier read (R61). -/
inductive Operand where
  | vreg (n : Nat)
  | sreg (n : Nat)
  | latch (k : Nat)
  | queue (k : Nat)
  | zero
  | laneid
  | ones
  | imm (v : BitVec 8)
  | illegal
  deriving DecidableEq, Repr

/-- The specifier table of R61. -/
def Operand.ofSpec (x : BitVec 10) : Operand :=
  let i := x.toNat % 256
  match x.toNat / 256 with
  | 0 => .vreg i
  | 1 => if i < 128 then .sreg i else .illegal
  | 2 => if i < 4 then .latch i else if 8 ≤ i ∧ i < 12 then .queue (i - 8)
         else if i = 16 then .zero else if i = 17 then .laneid else if i = 18 then .ones else .illegal
  | _ => .imm (BitVec.ofNat 8 i)

/-- The none value (R62). -/
def noneSpec : BitVec 10 := 0x210

/-- Which specifiers an operand field accepts. -/
inductive Cls where
  /-- Any legal specifier: a source without a restriction. -/
  | any
  /-- The none value only (R62). -/
  | none
  /-- A vector register. -/
  | vec
  /-- A scalar register. -/
  | scal
  /-- A vector or scalar register. -/
  | reg
  /-- A uniform operand (R140). -/
  | uniform
  /-- Any legal specifier but an immediate or a special zero, laneid, all-ones (R224, `atom.cas`). -/
  | noImm
  | regOrNone
  | scalOrNone
  deriving DecidableEq, Repr

/-- Whether a field accepts the specifier (R73 reason 5). -/
def Cls.accepts (c : Cls) (x : BitVec 10) : Bool :=
  match c, Operand.ofSpec x with
  | _, .illegal => false
  | .any, _ => true
  | .none, _ => x == noneSpec
  | .vec, .vreg _ => true
  | .scal, .sreg _ => true
  | .reg, .vreg _ => true
  | .reg, .sreg _ => true
  | .uniform, .sreg _ => true
  | .uniform, .imm _ => true
  | .uniform, .zero => true
  | .uniform, .ones => true
  | .noImm, .imm _ => false
  | .noImm, .zero => false
  | .noImm, .laneid => false
  | .noImm, .ones => false
  | .noImm, _ => true
  | .regOrNone, .vreg _ => true
  | .regOrNone, .sreg _ => true
  | .regOrNone, _ => x == noneSpec
  | .scalOrNone, .sreg _ => true
  | .scalOrNone, _ => x == noneSpec
  | _, _ => false

/-- How a source's immediate is read (R64): the significand bits it must fit, 0 for an integer or raw type. -/
structure OpUse where
  spec  : BitVec 10
  cls   : Cls
  regs  : Nat
  prec  : Nat
  isDst : Bool
  deriving DecidableEq, Repr

/-- What an instruction's entry says of its fields: whether reason 4 passes, whether a vector guard is legal, and its operands. -/
structure Use where
  h        : Hdr
  fieldsOk : Bool
  vguardOk : Bool
  ops      : List OpUse
  deriving DecidableEq, Repr

/-- A destination of `n` registers. -/
def dstU (x : BitVec 10) (c : Cls) (n : Nat) : OpUse := ⟨x, c, n, 0, true⟩
/-- A source of `n` registers of an integer or raw type. -/
def srcU (x : BitVec 10) (c : Cls) (n : Nat) : OpUse := ⟨x, c, n, 0, false⟩
/-- The data of an atomic: of the .f32 width an immediate converts exactly (R64, R224). -/
def dataU (x : BitVec 10) (width : BitVec 4) (c : Cls) (n : Nat) : OpUse := ⟨x, c, n, if width = 9 then 24 else 0, false⟩
/-- A source of a float type with `p` significand bits. -/
def fltU (x : BitVec 10) (p : Nat) : OpUse := ⟨x, .any, 1, p, false⟩
/-- A field that holds none. -/
def noU (x : BitVec 10) : OpUse := ⟨x, .none, 0, 0, false⟩

end Sys2Proof.Machine

namespace Sys2Proof

/-- The fields of MOD in format G (R54). -/
def FmtG.type (f : FmtG) : BitVec 5 := f.md.extractLsb' 25 5
def FmtG.rnd (f : FmtG) : BitVec 2 := f.md.extractLsb' 23 2
def FmtG.ovf (f : FmtG) : BitVec 2 := f.md.extractLsb' 21 2
def FmtG.per (f : FmtG) : BitVec 21 := f.md.extractLsb' 0 21
/-- The fields of MOD in format K (R54). -/
def FmtK.type (f : FmtK) : BitVec 5 := f.md.extractLsb' 3 5
def FmtK.per (f : FmtK) : BitVec 3 := f.md.extractLsb' 0 3

/-- The type a format-G instruction names; .b8 stands for an illegal code, which reason 4 refuses first. -/
def FmtG.ty (f : FmtG) : Machine.Ty := (Machine.Ty.ofCode f.type).getD .b8
def FmtK.ty (f : FmtK) : Machine.Ty := (Machine.Ty.ofCode f.type).getD .b8

/-- oclm's TRY (R343). -/
def FmtX.try_ (f : FmtX) : Bool := f.xflg.getLsbD 5
/-- mdrain's REG (R343). -/
def FmtX.reg (f : FmtX) : Bool := f.xflg.getLsbD 13

end Sys2Proof

namespace Sys2Proof.Machine

/-- Whether a type code is legal and accepted. -/
def tyIs (c : BitVec 5) (p : Ty → Bool) : Bool :=
  match Ty.ofCode c with
  | some t => p t
  | none => false

/-- Format G: the type accepted, the per-instruction bits assigned, whether RND and OVF are read, a further field check. -/
def useG (f : FmtG) (p : Ty → Bool) (mask : BitVec 21) (rnd ovf extra : Bool) (ops : List OpUse) : Use :=
  { h := f.h, vguardOk := true, ops := ops,
    fieldsOk := tyIs f.type p && (rnd || f.rnd == 0) && (ovf || f.ovf == 0) && (f.per &&& ~~~mask == 0) && extra }

/-- Two integer sources (R116, R119). -/
def useInt2 (f : FmtG) (p : Ty → Bool) (mask : BitVec 21) : Use :=
  useG f p mask false false true
    [dstU f.h.dst .reg f.ty.regs, srcU f.a .any f.ty.regs, srcU f.b .any f.ty.regs, noU f.c]

/-- Three integer sources. -/
def useInt3 (f : FmtG) (p : Ty → Bool) (mask : BitVec 21) : Use :=
  useG f p mask false false true
    [dstU f.h.dst .reg f.ty.regs, srcU f.a .any f.ty.regs, srcU f.b .any f.ty.regs, srcU f.c .any f.ty.regs]

/-- One integer source, with a destination of `d` registers. -/
def useInt1 (f : FmtG) (p : Ty → Bool) (mask : BitVec 21) (d : Nat) : Use :=
  useG f p mask false false true [dstU f.h.dst .reg d, srcU f.a .any f.ty.regs, noU f.b, noU f.c]

/-- A shift: source b is one 32-bit register (R130). -/
def useShift (f : FmtG) : Use :=
  useG f Ty.isBits 0 false false true
    [dstU f.h.dst .reg f.ty.regs, srcU f.a .any f.ty.regs, srcU f.b .any 1, noU f.c]

/-- A K-format integer instruction with sources a and the immediate (R120). -/
def useK (f : FmtK) (p : Ty → Bool) (mask : BitVec 3) (extra : Bool) (ops : List OpUse) : Use :=
  { h := f.h, vguardOk := true, ops := ops, fieldsOk := tyIs f.type p && (f.per &&& ~~~mask == 0) && extra }

/-- add, mul and the logic operations in format K, with the MOD bits that the table gives them (R116). -/
def useIntK (f : FmtK) (p : Ty → Bool) (mask : BitVec 3) : Use :=
  useK f p mask true [dstU f.h.dst .reg f.ty.regs, srcU f.a .any f.ty.regs, noU f.b]

/-- Is the type one of a list? -/
def oneOf (l : List Ty) (t : Ty) : Bool := l.contains t

/-- lred and lscan: the operation and type must match (R145), SEG at most 4. -/
def redFieldsOk (f : FmtG) : Bool :=
  let op := (f.per.toNat) % 8
  let seg := (f.per.toNat / 8) % 8
  decide (op ≤ 5) && decide (seg ≤ 4) && (if op ≤ 2 then f.ty != .b32 else f.ty == .b32)

/-- A .f32 instruction with sources given as operand uses (R150, R153). -/
def useF (f : FmtG) (p : Ty → Bool) (mask : BitVec 21) (rnd ovf extra : Bool) (srcs : List OpUse) : Use :=
  useG f p mask rnd ovf extra (dstU f.h.dst .reg 1 :: srcs)

def isF32 (t : Ty) : Bool := t == .f32
def isPk (t : Ty) : Bool := t == .f16x2 || t == .bf16x2

/-- cvt's RND and OVF columns (R101, R104, R170). -/
def cvtFieldsOk (f : FmtG) (s d : Ty) : Bool :=
  s.isCvt && s != d &&
  (if d.isInt then decide (f.ovf = 0 ∨ f.ovf = 3) && (s.isFloat || f.rnd == 0) else true)

/-- A control-flow instruction in format G (R180): TYPE, RND and OVF positions are zero; `mask` the MOD bits assigned. -/
def useCtl (f : FmtG) (mask : BitVec 30) (extra : Bool) (a : OpUse) : Use :=
  { h := f.h, vguardOk := true, fieldsOk := (f.md &&& ~~~mask == 0) && extra,
    ops := [noU f.h.dst, a, noU f.b, noU f.c] }

/-- A control-flow instruction in format J. -/
def useJ (f : FmtJ) (mask : BitVec 30) (dst : OpUse) (vg : Bool) : Use :=
  { h := f.h, vguardOk := vg, fieldsOk := f.md &&& ~~~mask == 0, ops := [dst] }

/-- Is the destination a scalar register? -/
def isScalSpec (x : BitVec 10) : Bool := (match Operand.ofSpec x with | .sreg _ => true | _ => false)

/-- Bytes of a WIDTH code (R60, R215): 0x5 .i8, 0x6 .i16, 0x7 .i32, 0x8 .i64, 0x9 .f32. -/
def widthBytes (w : BitVec 4) : Nat :=
  match w.toNat with
  | 0 => 1 | 1 => 2 | 2 => 4 | 3 => 8 | 4 => 16 | 5 => 1 | 6 => 2 | 7 => 4 | 8 => 8 | 9 => 4 | _ => 1

/-- Registers that a datum of the width takes. -/
def widthRegs (w : BitVec 4) : Nat := max 1 (widthBytes w / 4)

/-- Is the WIDTH code in the list? -/
def wIn (w : BitVec 4) (l : List Nat) : Bool := l.contains w.toNat

/-- A format-M instruction (R215, R216). -/
def useM (f : FmtM) (ws : List Nat) (hintMax : Nat) (scopeAny offOk : Bool) (ops : List OpUse) : Use :=
  { h := f.h, vguardOk := true, ops := ops,
    fieldsOk := wIn f.width ws && decide (f.hint.toNat ≤ hintMax) && (scopeAny || f.scope == 0) && offOk }

/-- atom and red: `q` destination registers; cas takes twice the data. -/
def useAtom (f : FmtM) (ws : List Nat) (q : Nat) (cas : Bool) : Use :=
  useM f ws 0 true true
    [dstU f.h.dst .vec q, srcU f.a .reg 2,
     dataU f.b f.width (if cas then .noImm else .any) (widthRegs f.width * (if cas then 2 else 1)), srcU f.c .regOrNone 2]

/-- A format-S instruction (R274, R275, R367). -/
def useS (f : FmtS) (immOk subOk vg : Bool) (ops : List OpUse) : Use :=
  { h := f.h, vguardOk := vg, ops := ops, fieldsOk := f.pad == 0 && immOk && subOk }

/-- Widths of the control registers of R34: `none` for an index not in the table. -/
def crWidth (ix : W16) : Option Nat :=
  let i := ix.toNat
  if i = 0x03 ∨ i = 0x06 ∨ i = 0x09 ∨ (0x18 ≤ i ∧ i ≤ 0x1B) then some 64
  else if i ≤ 0x11 then some 32 else none

/-- Registers that the control register named by IMM16 takes. -/
def crRegs (ix : W16) : Nat := if crWidth ix = some 64 then 2 else 1

/-- A format-E instruction (R307, R321). -/
def useE (f : FmtE) (ws : List Nat) (soff dims bt : Bool) (emask : BitVec 4) (ops : List OpUse) : Use :=
  { h := f.h, vguardOk := true, ops := ops,
    fieldsOk := wIn f.width ws && (soff || f.soff == 0) && (dims || f.dims == 0) && (bt || f.bt == 0) && (f.eflg &&& ~~~emask == 0) }

/-- atoms: as atom, with a 32-bit address register. -/
def useAtoms (f : FmtE) (ws : List Nat) (cas : Bool) : Use :=
  useE f ws true false false 7
    [dstU f.h.dst .vec 4, srcU f.a .reg 1,
     dataU f.b f.width (if cas then .noImm else .any) (widthRegs f.width * (if cas then 2 else 1)), srcU f.c .regOrNone 2]

/-- The copies. -/
def useCpy (f : FmtE) : Use :=
  { useE f [0, 1, 2, 3, 4] true true true 7
      [dstU f.h.dst .scal 2, srcU f.a .scal 2, srcU f.b .scal 2, srcU f.c .scalOrNone 2] with
    fieldsOk := (useE f [0, 1, 2, 3, 4] true true true 7 []).fieldsOk && decide (f.dims.toNat ≤ 4) && !(f.bt == 1 && f.dims == 0) }

/-- The element types of `mma` (R337). -/
def isMmaTy (c : BitVec 5) : Bool := tyIs c (oneOf [.i4, .n4, .i8, .n8, .e4m3, .e5m2, .f16, .bf16])
def isNarrowTy (c : BitVec 5) : Bool := tyIs c (oneOf [.i4, .n4, .i8, .n8])

/-- Which fields of format X must be zero. -/
structure XZero where
  slota : Bool := true
  slotb : Bool := true
  acc   : Bool := true
  etype : Bool := true
  gsz   : Bool := true
  roo   : Bool := true
  xmask : BitVec 14 := 0

/-- A format-X instruction (R343, R344). -/
def useX (f : FmtX) (z : XZero) (extra : Bool) (ops : List OpUse) : Use :=
  { h := f.h, vguardOk := false, ops := ops,
    fieldsOk := (!z.slota || f.slota == 0) && (!z.slotb || f.slotb == 0) && (!z.acc || f.acc == 0) &&
      (!z.etype || f.etype == 0) && (!z.gsz || f.gsz == 0) && (!z.roo || (f.rnd == 0 && f.ovf == 0 && f.outt == 0)) &&
      (f.xflg &&& ~~~z.xmask == 0) && extra }

/-- The none use of an event. -/
def useNone : Use := { h := ⟨0, 511, 0, 0, 0x210⟩, fieldsOk := true, vguardOk := true, ops := [] }

/-- What each instruction's entry says of its fields and operands (R116, R150, R180, R215, R274, R307, R321, R343, R367). -/
def use (i : Instr) : Use :=
  match i with
  | .add f => useInt2 f Ty.isInt 1
  | .addK f => useIntK f Ty.isInt 1
  | .sub f => useInt2 f Ty.isInt 1
  | .addc f => useG f (· == .n32) 0 false false true [dstU f.h.dst .reg 2, srcU f.a .any 1, srcU f.b .any 1, srcU f.c .any 1]
  | .subb f => useG f (· == .n32) 0 false false true [dstU f.h.dst .reg 2, srcU f.a .any 1, srcU f.b .any 1, srcU f.c .any 1]
  | .mul f => useInt2 f Ty.isInt 0
  | .mulK f => useIntK f Ty.isInt 0
  | .mulh f => useInt2 f Ty.isWide 0
  | .mad f => useInt3 f Ty.isInt 0
  | .madh f => useInt3 f Ty.isWide 0
  | .div f => useInt2 f Ty.isWide 1
  | .rem f => useInt2 f Ty.isWide 1
  | .min f => useInt2 f Ty.isInt 0
  | .max f => useInt2 f Ty.isInt 0
  | .abs f => useInt1 f (oneOf [.i8, .i16, .i32, .i64]) 1 f.ty.regs
  | .neg f => useInt1 f Ty.isInt 1 f.ty.regs
  | .clamp f => useInt3 f Ty.isInt 0
  | .and f => useInt2 f Ty.isBits 0
  | .andK f => useIntK f Ty.isBits 0
  | .or f => useInt2 f Ty.isBits 0
  | .orK f => useIntK f Ty.isBits 0
  | .xor f => useInt2 f Ty.isBits 0
  | .xorK f => useIntK f Ty.isBits 0
  | .andn f => useInt2 f Ty.isBits 0
  | .shl f => useShift f
  | .shr f => useShift f
  | .sra f => useShift f
  | .rot f => useShift f
  | .bfe f => useG f Ty.isWide 0 false false true [dstU f.h.dst .reg f.ty.regs, srcU f.a .any f.ty.regs, noU f.b, srcU f.c .any 1]
  | .bfi f => useG f Ty.isBits 0 false false true
      [dstU f.h.dst .reg f.ty.regs, srcU f.a .any f.ty.regs, srcU f.b .any f.ty.regs, srcU f.c .any 1]
  | .popc f => useInt1 f Ty.isBits 0 1
  | .clz f => useInt1 f Ty.isBits 0 1
  | .ctz f => useInt1 f Ty.isBits 0 1
  | .brev f => useInt1 f Ty.isBits 0 f.ty.regs
  | .cmp f => useG f (fun t => t.isInt || t.isBits) 0xFF false false
      (decide (f.per.toNat % 8 ≤ 5) && (!f.ty.isBits || decide (f.per.toNat % 8 ≤ 1)))
      [dstU f.h.dst .reg 1, srcU f.a .any f.ty.regs, srcU f.b .any f.ty.regs, noU f.c]
  | .sel f => useG f (fun t => t.isBits || t == .b128) 0x1F false false true
      [dstU f.h.dst .reg f.ty.regs, srcU f.a .any f.ty.regs, srcU f.b .any f.ty.regs, srcU f.c .reg 1]
  | .mov f => useInt1 f (fun t => t.isBits || t == .b128) 0 f.ty.regs
  | .movk f => useK f Ty.isBits 1 (f.per == 0 || f.ty == .b64) [dstU f.h.dst .reg f.ty.regs, noU f.a, noU f.b]
  | .lea f => useG f Ty.isWide 7 false false true [dstU f.h.dst .reg 2, srcU f.a .any 2, srcU f.b .any f.ty.regs, noU f.c]
  | .leaK f => useK f (· == .i32) 7 true [dstU f.h.dst .reg 2, srcU f.a .any 2, noU f.b]
  | .vbc f => useG f Ty.isBits 0 false false true
      [dstU f.h.dst .vec f.ty.regs, srcU f.a .any f.ty.regs, srcU f.b .uniform f.ty.regs, noU f.c]
  | .rdlane f => useG f Ty.isBits 0 false false true
      [dstU f.h.dst .scal f.ty.regs, srcU f.a .any f.ty.regs, srcU f.b .uniform f.ty.regs, noU f.c]
  | .wrlane f => { useG f Ty.isBits 0 false false true
      [dstU f.h.dst .vec f.ty.regs, srcU f.a .uniform f.ty.regs, srcU f.b .uniform f.ty.regs, noU f.c] with vguardOk := false }
  | .shfl f => useG f Ty.isBits 0x1F false false (decide (f.per.toNat / 4 ≤ 4))
      [dstU f.h.dst .reg f.ty.regs, srcU f.a .any f.ty.regs, srcU f.b .any 1, noU f.c]
  | .lsh f => useG f Ty.isBits 0 false false true
      [dstU f.h.dst .reg f.ty.regs, srcU f.a .any f.ty.regs, srcU f.b .uniform 1, srcU f.c .any f.ty.regs]
  | .vote f => useG f (· == .b32) 0xFFF false false (f.per.toNat % 4 != 0 || f.per.toNat / 128 == 0)
      [dstU f.h.dst .reg 1, srcU f.a .any 1, noU f.b, noU f.c]
  | .lred f => useG f (oneOf [.i32, .n32, .b32]) 0x3F false false
      (redFieldsOk f && (!isScalSpec f.h.dst || f.per.toNat / 8 == 0)) [dstU f.h.dst .reg 1, srcU f.a .any 1, noU f.b, noU f.c]
  | .lscan f => useG f (oneOf [.i32, .n32, .b32]) 0x7F false false (redFieldsOk f)
      [dstU f.h.dst .vec 1, srcU f.a .any 1, noU f.b, noU f.c]
  | .addmin f => useInt3 f (oneOf [.i16, .n16, .i32, .n32]) 1
  | .addmax f => useInt3 f (oneOf [.i16, .n16, .i32, .n32]) 1
  | .dp4 f => useG f (oneOf [.i4, .n4, .i8, .n8]) 1 false false true
      [dstU f.h.dst .reg 1, srcU f.a .any 1, srcU f.b .any 1, srcU f.c .any 1]
  | .fadd f => useF f isF32 0 true false true [fltU f.a 24, fltU f.b 24, noU f.c]
  | .faddK f => useK f isF32 0 true [dstU f.h.dst .reg 1, fltU f.a 24, noU f.b]
  | .fsub f => useF f isF32 0 true false true [fltU f.a 24, fltU f.b 24, noU f.c]
  | .fmul f => useF f isF32 0 true false true [fltU f.a 24, fltU f.b 24, noU f.c]
  | .fmulK f => useK f isF32 0 true [dstU f.h.dst .reg 1, fltU f.a 24, noU f.b]
  | .ffma f => useF f isF32 0 true false true [fltU f.a 24, fltU f.b 24, fltU f.c 24]
  | .fmin f => useF f isF32 0 false false true [fltU f.a 24, fltU f.b 24, noU f.c]
  | .fmax f => useF f isF32 0 false false true [fltU f.a 24, fltU f.b 24, noU f.c]
  | .fcmp f => useF f (oneOf [.f32, .f16, .bf16]) 0xFF false false true [fltU f.a f.ty.prec, fltU f.b f.ty.prec, noU f.c]
  | .fclass f => useF f Ty.isFloat 0 false false true [fltU f.a f.ty.prec, noU f.b, noU f.c]
  | .frnd f => useF f isF32 0 true false true [fltU f.a 24, noU f.b, noU f.c]
  | .fscale f => useF f isF32 0 true false true [fltU f.a 24, srcU f.b .any 1, noU f.c]
  | .frcp f => useF f isF32 0 true false true [fltU f.a 24, noU f.b, noU f.c]
  | .frsq f => useF f isF32 0 false false true [fltU f.a 24, noU f.b, noU f.c]
  | .fsqrt f => useF f isF32 0 true false true [fltU f.a 24, noU f.b, noU f.c]
  | .fex2 f => useF f isF32 0 false false true [fltU f.a 24, noU f.b, noU f.c]
  | .flg2 f => useF f isF32 0 false false true [fltU f.a 24, noU f.b, noU f.c]
  | .fsin f => useF f isF32 0 false false true [fltU f.a 24, noU f.b, noU f.c]
  | .fcos f => useF f isF32 0 false false true [fltU f.a 24, noU f.b, noU f.c]
  | .ftanh f => useF f isF32 0 false false true [fltU f.a 24, noU f.b, noU f.c]
  | .fsigm f => useF f isF32 0 false false true [fltU f.a 24, noU f.b, noU f.c]
  | .hadd2 f => useF f isPk 0 true false true [fltU f.a f.ty.prec, fltU f.b f.ty.prec, noU f.c]
  | .hmul2 f => useF f isPk 0 true false true [fltU f.a f.ty.prec, fltU f.b f.ty.prec, noU f.c]
  | .hfma2 f => useF f isPk 0 true false true [fltU f.a f.ty.prec, fltU f.b f.ty.prec, fltU f.c f.ty.prec]
  | .hmax2 f => useF f isPk 0 false false true [fltU f.a f.ty.prec, fltU f.b f.ty.prec, noU f.c]
  | .dp2 f => useF f isPk 0 true false true [fltU f.a f.ty.prec, fltU f.b f.ty.prec, fltU f.c 24]
  | .cvt f =>
    let s := (Ty.ofCode (f.md.extractLsb' 0 5)).getD .b8
    useG f Ty.isCvt 0x1F true true (cvtFieldsOk f s f.ty)
      [dstU f.h.dst .reg f.ty.regs, ⟨f.a, .any, s.regs, s.prec, false⟩, noU f.b, noU f.c]
  | .pack f => useF f (oneOf [.f16, .bf16, .e4m3, .e5m2]) 1 true true (f.per == 0 || f.ty.width == 8)
      [fltU f.a 24, fltU f.b 24, noU f.c]
  | .unpack f => useF f (oneOf [.f16, .bf16, .e4m3, .e5m2]) 3 false false (f.ty.width == 8 || decide (f.per.toNat ≤ 1))
      [srcU f.a .any 1, noU f.b, noU f.c]
  | .nop f => useCtl f 0x3F (decide (f.md.toNat ≤ 32)) (noU f.a)
  | .bra f => useJ f 0 (noU f.h.dst) true
  | .brx f => useCtl f 0 true (srcU f.a .reg 2)
  | .dbra f => useJ f 0 (dstU f.h.dst .reg 1) (!isScalSpec f.h.dst)
  | .call f => useJ f 0 (noU f.h.dst) true
  | .callx f => useCtl f 0 true (srcU f.a .reg 2)
  | .ret f => useCtl f 0 true (noU f.a)
  | .rgn f => useJ f 0xFFFF (noU f.h.dst) true
  | .join f => useCtl f 0xFFFF true (noU f.a)
  | .brk f => useCtl f 0x7F (decide (1 ≤ f.md.toNat ∧ f.md.toNat ≤ 64)) (noU f.a)
  | .exit f => useCtl f 0 true (noU f.a)
  | .yield f => useCtl f 0 true (noU f.a)
  | .trap f => useCtl f 0xFFFF true (noU f.a)
  | .bkpt f => useCtl f 0xFFFF true (noU f.a)
  | .ld f => useM f [0, 1, 2, 3, 4, 5, 6] 2 false true
      [dstU f.h.dst .vec (widthRegs f.width), srcU f.a .reg 2, noU f.b, srcU f.c .regOrNone 2]
  | .st f => useM f [0, 1, 2, 3, 4] 2 true true
      [dstU f.h.dst .vec 2, srcU f.a .reg 2, srcU f.b .any (widthRegs f.width), srcU f.c .regOrNone 2]
  | .sld f => useM f [0, 1, 2, 3, 5, 6] 2 false true
      [dstU f.h.dst .scal (widthRegs f.width), srcU f.a .scal 2, noU f.b, srcU f.c .regOrNone 2]
  | .sst f => useM f [0, 1, 2, 3] 2 true true
      [dstU f.h.dst .scal 2, srcU f.a .scal 2, srcU f.b .uniform (widthRegs f.width), srcU f.c .regOrNone 2]
  | .pref f => useM f [0] 1 false true [noU f.h.dst, srcU f.a .reg 2, noU f.b, noU f.c]
  | .atomAdd f => useAtom f [2, 3, 7, 8, 9] 4 false
  | .atomMin f => useAtom f [2, 3, 7, 8] 4 false
  | .atomMax f => useAtom f [2, 3, 7, 8] 4 false
  | .atomAnd f => useAtom f [2, 3] 4 false
  | .atomOr f => useAtom f [2, 3] 4 false
  | .atomXor f => useAtom f [2, 3] 4 false
  | .atomExch f => useAtom f [2, 3] 4 false
  | .atomCas f => useAtom f [2, 3] 4 true
  | .redAdd f => useAtom f [2, 3, 7, 8, 9] 2 false
  | .redMin f => useAtom f [2, 3, 7, 8] 2 false
  | .redMax f => useAtom f [2, 3, 7, 8] 2 false
  | .redAnd f => useAtom f [2, 3] 2 false
  | .redOr f => useAtom f [2, 3] 2 false
  | .redXor f => useAtom f [2, 3] 2 false
  | .wjoin f => useM f [0] 0 false (f.off == 0) [dstU f.h.dst .reg 2, srcU f.a .reg 2, srcU f.b .reg 2, noU f.c]
  | .wjoinr f => useM f [0] 0 false (f.off == 0) [dstU f.h.dst .scal 2, srcU f.a .vec 2, noU f.b, noU f.c]
  | .wtest f => useM f [0] 0 false (decide (f.off.toNat < 32)) [dstU f.h.dst .reg 1, srcU f.a .reg 2, noU f.b, noU f.c]
  | .wwait f => useM f [0] 0 false (f.off == 0) [dstU f.h.dst .reg 2, srcU f.a .reg 2, noU f.b, noU f.c]
  | .wcanc f => useM f [0] 0 false (f.off == 0) [dstU f.h.dst .reg 1, srcU f.a .reg 2, noU f.b, noU f.c]
  | .wscop f => useM f [0] 0 true (f.off == 0) [dstU f.h.dst .reg 2, srcU f.a .reg 2, noU f.b, noU f.c]
  | .rdcr f => useS f (crWidth f.imm).isSome (f.sub == 0) true [dstU f.h.dst .reg (crRegs f.imm), noU f.a, noU f.b]
  | .wrcr f => useS f (crWidth f.imm).isSome (f.sub == 0) true [noU f.h.dst, srcU f.a .reg (crRegs f.imm), noU f.b]
  | .rdflt f => useS f (decide (f.imm.toNat ≤ 1)) (f.sub == 0) true [dstU f.h.dst .vec 4, noU f.a, noU f.b]
  | .rte f => useS f (f.imm == 0) (f.sub == 0) true [noU f.h.dst, srcU f.a .regOrNone 2, noU f.b]
  | .sys f => useS f true (f.sub == 0) true [dstU f.h.dst .scal 2, srcU f.a .scalOrNone 2, noU f.b]
  | .halt f => useS f true (f.sub == 0) true [dstU f.h.dst .scal 1, noU f.a, noU f.b]
  | .tlbi f =>
    let k := f.sub.toNat
    useS f (f.imm == 0) (decide (k ≤ 4)) true
      [noU f.h.dst, if k = 0 ∨ k = 2 then srcU f.a .scal 2 else noU f.a, if k ≤ 3 then srcU f.b .scal 1 else noU f.b]
  | .ldio f => useS f true (decide (f.sub.toNat ≤ 1)) true
      [dstU f.h.dst .scal (if f.sub = 1 then 2 else 1), srcU f.a .scal 2, noU f.b]
  | .stio f => useS f true (decide (f.sub.toNat ≤ 1)) true
      [noU f.h.dst, srcU f.a .scal 2, srcU f.b .scal (if f.sub = 1 then 2 else 1)]
  | .mbxw f => useS f (decide (f.imm.toNat ≤ 63)) (f.sub == 0) true [dstU f.h.dst .scal 1, srcU f.a .scal 2, noU f.b]
  | .engx f => useS f (decide (f.imm.toNat ≤ 23)) (f.sub == 0) true [dstU f.h.dst .scal 2, srcU f.a .scal 2, noU f.b]
  | .strm f =>
    { useE f [0, 1, 2, 5, 6] true true false 7 [noU f.h.dst, srcU f.a .scal 2, srcU f.b .scal 2, srcU f.c .scalOrNone 2] with
      fieldsOk := (useE f [0, 1, 2, 5, 6] true true false 7 []).fieldsOk && decide (f.dims.toNat ≤ 3) }
  | .strmx f => useE f [0] false false false 7 [noU f.h.dst, noU f.a, noU f.b, noU f.c]
  | .oqst f => useE f [0] false false false 3 [dstU f.h.dst .reg 1, noU f.a, noU f.b, noU f.c]
  | .lds f => useE f [0, 1, 2, 3, 4, 5, 6] true false false 0
      [dstU f.h.dst .vec (widthRegs f.width), srcU f.a .reg 1, noU f.b, srcU f.c .regOrNone 2]
  | .sts f => useE f [0, 1, 2, 3, 4] true false false 7
      [dstU f.h.dst .vec 2, srcU f.a .reg 1, srcU f.b .any (widthRegs f.width), srcU f.c .regOrNone 2]
  | .pres f => useE f [0] true false false 0 [dstU f.h.dst .reg 1, srcU f.a .reg 1, noU f.b, noU f.c]
  | .fmask f => useE f [0] false false false 0 [dstU f.h.dst .reg 1, srcU f.a .scal 1, noU f.b, noU f.c]
  | .atomsAdd f => useAtoms f [2, 3, 7, 8, 9] false
  | .atomsMin f => useAtoms f [2, 3, 7, 8] false
  | .atomsMax f => useAtoms f [2, 3, 7, 8] false
  | .atomsAnd f => useAtoms f [2, 3] false
  | .atomsOr f => useAtoms f [2, 3] false
  | .atomsXor f => useAtoms f [2, 3] false
  | .atomsExch f => useAtoms f [2, 3] false
  | .atomsCas f => useAtoms f [2, 3] true
  | .cpy f => useCpy f
  | .cpyo f => useCpy f
  | .cpyg f => useCpy f
  | .gang f => useX f {} true [noU f.h.dst, srcU f.c .scal 1]
  | .oclm f => useX f { slota := false, xmask := 0x3F } (f.try_ || f.xflg.toNat % 32 == 0)
      [if f.try_ then dstU f.h.dst .reg 1 else noU f.h.dst, noU f.c]
  | .orel f => useX f { slota := false } true [noU f.h.dst, noU f.c]
  | .old f => useX f { slota := false, xmask := 0x7F } true [noU f.h.dst, srcU f.c .scal 2]
  | .mma f => useX f { slota := false, slotb := false, acc := false, etype := false, gsz := false,
                       xmask := if f.gsz = 0 then 0 else 0x3F00 }
      (isMmaTy f.etype && (f.gsz == 0 || isNarrowTy f.etype)) [noU f.h.dst, noU f.c]
  | .mzero f => useX f { acc := false, xmask := 1 } true [noU f.h.dst, noU f.c]
  | .scacc f => useX f { acc := false, etype := false, gsz := false, xmask := 0x3FFF }
      (isNarrowTy f.etype && f.gsz != 0) [noU f.h.dst, noU f.c]
  | .mdrain f => useX f { acc := false, roo := false, xmask := if f.reg then 0x207F else 0x1FFF }
      (tyIs f.outt (oneOf [.f32, .f16, .bf16, .i32]))
      [if f.reg then dstU f.h.dst .vec 2 else dstU f.h.dst .scalOrNone 2, srcU f.c .scalOrNone 2]
  | .mrd f => useX f { acc := false, xmask := 0x7F } true [dstU f.h.dst .vec 2, noU f.c]
  | .bini f => useS f (decide (f.imm.toNat ≤ 63)) (f.sub == 0) false [noU f.h.dst, srcU f.a .scal 1, noU f.b]
  | .barr f => useS f (decide (f.imm.toNat ≤ 63)) (f.sub == 0) false [dstU f.h.dst .regOrNone 1, noU f.a, noU f.b]
  | .bwait f => useS f (decide (f.imm.toNat ≤ 63)) (f.sub == 0) false [dstU f.h.dst .regOrNone 1, srcU f.a .reg 1, noU f.b]
  | .barw f => useS f (decide (f.imm.toNat ≤ 63)) (f.sub == 0) false [noU f.h.dst, srcU f.a .reg 2, noU f.b]
  | .binv f => useS f (decide (f.imm.toNat ≤ 63)) (decide (f.sub.toNat ≤ 1)) false [noU f.h.dst, noU f.a, noU f.b]
  | .bqry f => useS f (decide (f.imm.toNat ≤ 63)) (decide (f.sub.toNat ≤ 3)) false [dstU f.h.dst .reg 1, noU f.a, noU f.b]
  | .fetchLine _ _ => useNone
  | .issueCycle _ => useNone
  | .pathQuantumExpired _ => useNone
  | .groupSwapOut _ => useNone
  | .activePlaceFill _ => useNone
  | .trapHandlerEntry _ => useNone
  | .blockEnd _ => useNone
  | .loadReply _ _ => useNone
  | .homeCommit _ => useNone
  | .atomicPerform _ => useNone
  | .witnessSatisfied _ => useNone
  | .groupRetire _ => useNone
  | .l1Fill _ _ _ => useNone
  | .counterPublish _ _ => useNone
  | .counterRepublish _ _ => useNone
  | .ringMessageReceive _ _ _ => useNone
  | .renewalRequest _ _ => useNone
  | .renewalDrained _ _ => useNone
  | .generationMessage _ => useNone
  | .streamEntryProduce _ _ => useNone
  | .streamSpill _ _ => useNone
  | .preemptGroup _ => useNone
  | .copyElementWrite _ => useNone
  | .copyJobComplete _ => useNone
  | .copyJobStop _ => useNone
  | .engineJobStart _ => useNone
  | .gangRendezvousComplete _ _ => useNone
  | .gangmisFailure _ _ => useNone
  | .matrixOpStart _ _ => useNone
  | .matrixOpComplete _ _ => useNone
  | .barrierWitnessArrival _ _ => useNone
  | .orphanArrival _ _ => useNone
  | .homeWatchAccept _ _ => useNone
  | .scrubRead _ _ => useNone
  | .sramUncorrectable _ _ => useNone
  | .clusterNetworkError _ _ => useNone
  | .blockPlace _ => useNone
  | .launchTurnBegin _ => useNone
  | .capacityHold _ _ => useNone
  | .refreshDue _ _ => useNone
  | .refpbRepay _ _ => useNone
  | .refreshComplete _ _ => useNone
  | .rowPrecharge _ _ => useNone
  | .activationThreshold _ _ _ => useNone
  | .throttleEnd _ _ _ => useNone
  | .trackerWindowEnd _ _ => useNone
  | .alertBackOff _ _ => useNone
  | .hbmScrubRead _ _ => useNone
  | .scrubEscalate _ _ => useNone
  | .hbmUncorrectable _ _ => useNone
  | .macMismatch _ _ => useNone
  | .rootLost _ _ => useNone
  | .launch _ _ => useNone
  | .graph _ _ => useNone
  | .signal _ _ => useNone
  | .wait _ _ => useNone
  | .copy _ _ => useNone
  | .launchComplete _ => useNone
  | .graphNodeComplete _ => useNone
  | .entrySelect _ => useNone
  | .queueRefill _ _ => useNone
  | .refillTimer _ _ => useNone
  | .doorbell _ _ => useNone
  | .waitSlotPoll _ _ => useNone
  | .spilledWaitPoll _ _ => useNone
  | .holdtExpired _ _ => useNone
  | .entryTimeout _ _ _ => useNone
  | .noticePost _ => useNone
  | .sysNop _ => useNone
  | .meter _ => useNone
  | .notify _ => useNone
  | .tlbinv _ => useNone
  | .sysReply _ => useNone
  | .stage2InvalidatePage _ _ => useNone
  | .stage2InvalidateVf _ _ => useNone
  | .queueStart _ _ => useNone
  | .queueStop _ _ => useNone
  | .mailboxInbound _ _ _ => useNone
  | .haltTimerExpired _ => useNone
  | .mbxin _ _ => useNone
  | .mbxout _ => useNone
  | .inpop _ _ => useNone
  | .registerWrite _ _ _ => useNone
  | .powerGood _ _ => useNone
  | .table _ => useNone
  | .create _ => useNone
  | .destroy _ => useNone
  | .vfon _ => useNone
  | .vfoff _ => useNone
  | .lend _ => useNone
  | .recall _ => useNone
  | .recallJobDeadline _ => useNone
  | .merge _ => useNone
  | .split _ => useNone
  | .resize _ => useNone
  | .exportSlice _ => useNone
  | .importSlice _ => useNone
  | .core _ => useNone
  | .flags _ => useNone
  | .region _ => useNone
  | .reload _ => useNone
  | .quiesceStep _ => useNone
  | .gourdExchange _ _ => useNone
  | .haltCores _ => useNone
  | .timeSliceEnd _ => useNone
  | .boostLimit => useNone
  | .meterCopy => useNone
  | .getVersion _ => useNone
  | .getCapabilities _ => useNone
  | .negotiateAlgorithms _ => useNone
  | .getDigests _ => useNone
  | .getCertificate _ _ => useNone
  | .challenge _ _ => useNone
  | .getMeasurements _ _ => useNone
  | .keyExchange _ => useNone
  | .finish _ => useNone
  | .heartbeat _ => useNone
  | .keyUpdate _ => useNone
  | .endSession _ => useNone
  | .evidence _ _ _ _ => useNone
  | .install _ _ _ _ _ => useNone
  | .keyProg _ _ _ => useNone
  | .kSetGo _ _ => useNone
  | .kSetStop _ _ => useNone
  | .lockInterfaceRequest _ _ => useNone
  | .getDeviceInterfaceReport _ _ => useNone
  | .startInterfaceRequest _ _ => useNone
  | .stopInterfaceRequest _ _ => useNone
  | .tdispAbort => useNone
  | .frozenRegisterWrite _ _ => useNone
  | .wrongStreamTlp _ _ _ => useNone
  | .hostMmio _ _ _ _ _ => useNone
  | .nymlinkRead _ _ => useNone
  | .nymlinkWrite _ _ => useNone
  | .rd _ => useNone
  | .rdx _ => useNone
  | .wr _ => useNone
  | .atm _ => useNone
  | .probe _ => useNone
  | .rsp _ _ => useNone
  | .rcl _ _ => useNone
  | .fail _ _ => useNone
  | .badmsg _ _ => useNone
  | .criticalDuplicate _ _ => useNone
  | .lineEvict _ _ => useNone
  | .ncExpire _ => useNone
  | .remoteTimeout _ => useNone
  | .linkTrained _ _ => useNone
  | .crcFailure _ _ => useNone
  | .replayPassed _ => useNone
  | .retrain _ _ => useNone
  | .laneRetire _ _ => useNone
  | .healthDecay _ => useNone
  | .portDisable _ => useNone
  | .tokenRefill _ => useNone
  | .fabricStatusWrite => useNone
  | .registerLineFetch _ _ => useNone
  | .gourdWriteOut _ => useNone
  | .powerLoss => useNone
  | .l2Uncorrectable _ _ => useNone
  | .doeDiscovery _ => useNone
  | .outboundRingTake _ _ => useNone
  | .unsupportedTdispRequest _ _ => useNone

/-- Does the operand name registers, and which is the lowest? -/
def OpUse.vbase (o : OpUse) : Option Nat := (match Operand.ofSpec o.spec with | .vreg n => some n | _ => none)
def OpUse.sbase (o : OpUse) : Option Nat := (match Operand.ofSpec o.spec with | .sreg n => some n | _ => none)

/-- The integer of magnitude `n` fits `p` significand bits (R64). -/
def exactBits (p n : Nat) : Bool :=
  decide (n < 2 ^ p) || (n % 2 == 0 && decide (n / 2 < 2 ^ p)) || (n % 4 == 0 && decide (n / 4 < 2 ^ p)) ||
  (n % 8 == 0 && decide (n / 8 < 2 ^ p)) || (n % 16 == 0 && decide (n / 16 < 2 ^ p)) || (n % 32 == 0 && decide (n / 32 < 2 ^ p))

/-- R73 reason 5 for one operand (R61, R62, R65). -/
def OpUse.classOk (o : OpUse) : Bool := o.cls.accepts o.spec
/-- R73 reason 6 for one operand (R22). -/
def OpUse.budgetOk (vbud sbud : Nat) (o : OpUse) : Bool :=
  match Operand.ofSpec o.spec with
  | .vreg n => decide (n + o.regs ≤ vbud) || o.regs == 0
  | .sreg n => decide (n + o.regs ≤ sbud) || o.regs == 0
  | _ => true
/-- R73 reason 7 for one operand (R23): 64-bit operands on an even base, 128-bit on a multiple of four. -/
def OpUse.alignOk (o : OpUse) : Bool :=
  match Operand.ofSpec o.spec with
  | .vreg n => o.regs == 0 || n % o.regs == 0
  | .sreg n => o.regs == 0 || n % o.regs == 0
  | _ => true
/-- R73 reason 8 for one operand (R64). -/
def OpUse.immOk (o : OpUse) : Bool :=
  match Operand.ofSpec o.spec with
  | .imm v => o.prec == 0 || exactBits o.prec v.toInt.natAbs
  | _ => true

/-- GREG's range (R52), and a vector guard where the entry forbids one (R73 reason 3). -/
def Use.guardOk (u : Use) : Bool :=
  let g := u.h.greg.toNat
  (decide (g < 384) || g == 511) && (u.vguardOk || decide (256 ≤ g))

/-- The first check of R73 that the word alone fails. -/
def staticReason (i : Instr) : Option Nat :=
  let u := use i
  if !u.guardOk then some 3
  else if !u.fieldsOk then some 4
  else if !u.ops.all OpUse.classOk then some 5
  else if !u.ops.all OpUse.alignOk then some 7
  else if !u.ops.all OpUse.immOk then some 8
  else none

end Sys2Proof.Machine
end

