-- ==== Sys2Proof/Machine/Flags.lean ====
section
/-! DEFINITION. Number formats, rounding and exception flags (chapter 03): decoding a float to an exact value, rounding an
exact value to a type, and the flags that go with it. -/

namespace Sys2Proof.Machine

/-! ### Integers (R86, R88) -/

/-- The value of the low bits of a register under an integer type. -/
def Ty.int (t : Ty) (x : W128) : Int :=
  let u := x.toNat % 2 ^ t.width
  if t.signed && decide (2 ^ (t.width - 1) ≤ u) then (u : Int) - 2 ^ t.width else u

/-- The least value of an integer type. -/
def Ty.minI (t : Ty) : Int := if t.signed then -2 ^ (t.width - 1) else 0
/-- The greatest value of an integer type. -/
def Ty.maxI (t : Ty) : Int := if t.signed then 2 ^ (t.width - 1) - 1 else 2 ^ t.width - 1

/-- The register or pair that holds an element of the type with the value modulo 2^w (R88, wrap of R117): signed narrow
types are sign-extended to 32 bits, the others zero-extended. -/
def Ty.enc (t : Ty) (v : Int) : W128 :=
  let u := (v % 2 ^ t.width).toNat
  if t.signed && decide (t.width < 32) && decide (2 ^ (t.width - 1) ≤ u) then BitVec.ofNat 128 (2 ^ 32 - (2 ^ t.width - u))
  else BitVec.ofNat 128 u

/-- Clamp to the type's range. -/
def Ty.clampI (t : Ty) (v : Int) : Int := max t.minI (min t.maxI v)

/-! ### Flags (R98), in the bit order of FPSTAT (R37) -/

abbrev Flags := BitVec 5
def fIV : Flags := 1
def fDZ : Flags := 2
def fOF : Flags := 4
def fUF : Flags := 8
def fIX : Flags := 16
/-- A flag when a condition holds. -/
def flagIf (c : Bool) (f : Flags) : Flags := if c then f else 0

/-! ### Floating-point values -/

/-- A decoded float: a NaN (signalling or not), an infinity, or a finite value (−1)^neg × m × 2^e, ±0 with m = 0. -/
inductive FVal where
  | nan (sig : Bool)
  | inf (neg : Bool)
  | fin (neg : Bool) (m : Nat) (e : Int)
  deriving DecidableEq, Repr

/-- Exponent bits of a scalar float type (R89). -/
def Ty.ebits : Ty → Nat
  | .e4m3 => 4
  | .e5m2 | .f16 | .f16x2 => 5
  | _ => 8

/-- Fraction bits. -/
def Ty.fbits (t : Ty) : Nat := t.prec - 1

/-- Exponent bias (R89). -/
def Ty.bias (t : Ty) : Int := 2 ^ (t.ebits - 1) - 1

/-- Exponent of the unit of the subnormals. -/
def Ty.qmin (t : Ty) : Int := 1 - t.bias - (t.fbits : Int)

/-- Width of one element. -/
def Ty.fw (t : Ty) : Nat := 1 + t.ebits + t.fbits

/-- The canonical NaN (R96). -/
def Ty.cnan : Ty → Nat
  | .e4m3 => 0x7F
  | .e5m2 => 0x7E
  | .f16 | .f16x2 => 0x7E00
  | .bf16 | .bf16x2 => 0x7FC0
  | _ => 0x7FC00000

/-- Decode the low bits of a register as a float of the type (R89–R91). -/
def Ty.dec (t : Ty) (x : Nat) : FVal :=
  let f := x % 2 ^ t.fbits
  let e := x / 2 ^ t.fbits % 2 ^ t.ebits
  let neg := decide (x / 2 ^ (t.fbits + t.ebits) % 2 = 1)
  if t == .e4m3 then
    if e = 15 ∧ f = 7 then .nan false
    else if e = 0 then .fin neg f t.qmin else .fin neg (2 ^ t.fbits + f) (t.qmin + (e : Int) - 1)
  else if e = 2 ^ t.ebits - 1 then
    if f = 0 then .inf neg else .nan (decide (f < 2 ^ (t.fbits - 1)))
  else if e = 0 then .fin neg f t.qmin
  else .fin neg (2 ^ t.fbits + f) (t.qmin + (e : Int) - 1)

/-- The sign bit placed. -/
def Ty.signBit (t : Ty) (neg : Bool) : Nat := if neg then 2 ^ (t.fbits + t.ebits) else 0

/-- The largest finite magnitude's bits (R89). -/
def Ty.maxBits (t : Ty) : Nat :=
  if t == .e4m3 then 0x7E else (2 ^ t.ebits - 1) * 2 ^ t.fbits - 1

/-- Infinity, where the type has one; .e4m3 saturates. -/
def Ty.infBits (t : Ty) (neg : Bool) : Nat :=
  if t == .e4m3 then t.maxBits + t.signBit neg else (2 ^ t.ebits - 1) * 2 ^ t.fbits + t.signBit neg

/-- The largest finite value as mantissa and exponent. -/
def Ty.maxFin (t : Ty) : Nat × Int :=
  match t.dec t.maxBits with
  | .fin _ m e => (m, e)
  | _ => (0, 0)

/-- The rounding modes of R93. -/
inductive Rm where
  | rne | rtz | rup | rdn
  deriving DecidableEq, Repr

/-- RND's code (R60). -/
def Rm.ofCode (c : BitVec 2) : Rm :=
  match c.toNat with
  | 0 => .rne | 1 => .rtz | 2 => .rup | _ => .rdn

/-- Does the mode round a value between `q` and `q + 1` units up in magnitude? `half` compares the discarded part with one
half: 0 below, 1 equal, 2 above. -/
def Rm.up (r : Rm) (neg : Bool) (q : Nat) (half : Nat) : Bool :=
  match r with
  | .rne => decide (half = 2) || (decide (half = 1) && decide (q % 2 = 1))
  | .rtz => false
  | .rup => !neg
  | .rdn => neg

/-- Round m × 2^e, plus a positive part below one unit of e when `st`, to a multiple of 2^q: the multiple, and whether it is
inexact. -/
def roundTo (r : Rm) (neg : Bool) (m : Nat) (e : Int) (st : Bool) (q : Int) : Nat × Bool :=
  if q ≤ e then
    let k := m * 2 ^ (e - q).toNat
    if st then ((if r.up neg k 0 then k + 1 else k), true) else (k, false)
  else
    let d := (q - e).toNat
    let k := m / 2 ^ d
    let rest := m % 2 ^ d
    if rest = 0 ∧ st = false then (k, false)
    else
      let half := if rest < 2 ^ (d - 1) then 0 else if rest = 2 ^ (d - 1) ∧ st = false then 1 else 2
      ((if r.up neg k half then k + 1 else k), true)

/-- Position of the leading one: bits of m. -/
def bitLen (m : Nat) : Nat := if m = 0 then 0 else m.log2 + 1

/-- Compare m₁ × 2^e₁ with m₂ × 2^e₂: is the first greater? -/
def magGt (m₁ : Nat) (e₁ : Int) (m₂ : Nat) (e₂ : Int) : Bool :=
  if e₁ ≤ e₂ then decide (m₂ * 2 ^ (e₂ - e₁).toNat < m₁) else decide (m₂ < m₁ * 2 ^ (e₁ - e₂).toNat)

/-- What rounding delivers: the bits, whether the value overflowed (R94, R101), and UF and IX (R98). -/
structure Rounded where
  bits : Nat
  big : Bool
  uf   : Bool
  ix   : Bool
  deriving DecidableEq, Repr

/-- Round a non-zero exact magnitude once to the type (R93–R98); `st` marks a sticky part below the unit of `e`, which must
lie below the type's precision. Overflow is reported and left to the caller. -/
def Ty.round (t : Ty) (r : Rm) (neg : Bool) (m : Nat) (e : Int) (st : Bool) : Rounded :=
  let qu := (bitLen m : Int) + e - (t.prec : Int)
  let u := roundTo r neg m e st qu
  let mx := t.maxFin
  if magGt u.1 qu mx.1 mx.2 then { bits := t.infBits neg, big := true, uf := false, ix := true }
  else
    let tiny := magGt (2 ^ (t.prec - 1)) t.qmin u.1 qu
    let q := max qu t.qmin
    let d := roundTo r neg m e st q
    -- a mantissa of 2^prec stands one binade up
    let k := if d.1 = 2 ^ t.prec then 2 ^ t.fbits else d.1
    let q' := if d.1 = 2 ^ t.prec then q + 1 else q
    let bits := if k < 2 ^ t.fbits then k else (q' - t.qmin).toNat * 2 ^ t.fbits + k
    { bits := bits + t.signBit neg, big := false, uf := tiny && d.2, ix := d.2 }

/-- The result of an overflow that is no down-conversion (R94). -/
def Ty.overBits (t : Ty) (r : Rm) (neg : Bool) : Nat :=
  let toInf := match r with
    | .rne => true | .rtz => false | .rup => !neg | .rdn => neg
  if toInf then t.infBits neg else t.maxBits + t.signBit neg

/-- An arithmetic result: bits and flags. -/
abbrev FRes := Nat × Flags

/-- Round an arithmetic result (R93, R94, R98). -/
def Ty.arith (t : Ty) (r : Rm) (neg : Bool) (m : Nat) (e : Int) (st : Bool) : FRes :=
  if m = 0 ∧ st = false then (t.signBit neg, 0)
  else
    let x := t.round r neg m e st
    if x.big then (t.overBits r neg, fOF ||| fIX) else (x.bits, flagIf x.uf fUF ||| flagIf x.ix fIX)

/-- The signed integer mantissa of a finite value at exponent `e`, no greater than its own. -/
def signedAt (neg : Bool) (m : Nat) (e₀ e : Int) : Int :=
  let k : Int := (m : Int) * 2 ^ (e₀ - e).toNat
  if neg then -k else k

/-- A term of an exact sum. -/
structure Term where
  neg : Bool
  m   : Nat
  e   : Int
  deriving DecidableEq, Repr

/-- The exact sum of terms, at the least exponent: (signed mantissa, exponent). -/
def sumTerms (ts : List Term) : Int × Int :=
  let e := (ts.map Term.e).foldl min (match ts with | [] => 0 | t :: _ => t.e)
  ((ts.map (fun t => signedAt t.neg t.m t.e e)).foldl (· + ·) 0, e)

/-- The exact sum of terms rounded once, with the zero sign of R95: opposite signs give +0, −0 under .rdn. -/
def Ty.sum (t : Ty) (r : Rm) (ts : List Term) : FRes :=
  let s := sumTerms ts
  if s.1 = 0 then
    if ts.all (·.neg) then (t.signBit true, 0)
    else if ts.all (fun x => !x.neg) then (0, 0)
    else (t.signBit (r == .rdn), 0)
  else t.arith r (decide (s.1 < 0)) s.1.natAbs s.2 false

/-- An operand of a sum of products: a NaN, an infinity, or an exact term. -/
inductive SVal where
  | nan
  | inf (neg : Bool)
  | fin (t : Term)
  deriving DecidableEq, Repr

/-- A value as a term of a sum. -/
def FVal.sval : FVal → SVal
  | .nan _ => .nan
  | .inf n => .inf n
  | .fin n m e => .fin ⟨n, m, e⟩

/-- Is it a signalling NaN? -/
def FVal.isSig : FVal → Bool
  | .nan s => s
  | _ => false

/-- Is it a NaN? -/
def FVal.isNan : FVal → Bool
  | .nan _ => true
  | _ => false

/-- The exact product (R158): 0 × ∞ is invalid (the Bool), a NaN factor gives NaN. -/
def FVal.mul (a b : FVal) : SVal × Bool :=
  match a, b with
  | .nan _, _ => (.nan, false)
  | _, .nan _ => (.nan, false)
  | .inf x, .inf y => (.inf (x != y), false)
  | .inf x, .fin y m _ => if m = 0 then (.nan, true) else (.inf (x != y), false)
  | .fin x m _, .inf y => if m = 0 then (.nan, true) else (.inf (x != y), false)
  | .fin x m e, .fin y m' e' => (.fin ⟨x != y, m * m', e + e'⟩, false)

/-- The finite terms of a sum. -/
def SVal.terms : List SVal → List Term
  | [] => []
  | .fin t :: rest => t :: SVal.terms rest
  | _ :: rest => SVal.terms rest

/-- A sum of terms rounded once (R95, R113, R158): `iv` marks an operation already found invalid. -/
def Ty.sumS (t : Ty) (r : Rm) (iv : Bool) (xs : List SVal) : FRes :=
  let clash := xs.contains (.inf true) && xs.contains (.inf false)
  if iv || clash then (t.cnan, fIV)
  else if xs.contains .nan then (t.cnan, 0)
  else if xs.contains (.inf true) then (t.infBits true, 0)
  else if xs.contains (.inf false) then (t.infBits false, 0)
  else t.sum r (SVal.terms xs)

/-- The opposite value (for fsub). -/
def FVal.negate : FVal → FVal
  | .nan s => .nan s
  | .inf n => .inf (!n)
  | .fin n m e => .fin (!n) m e

/-- a + b (R158). -/
def Ty.fadd (t : Ty) (r : Rm) (a b : FVal) : FRes := t.sumS r (a.isSig || b.isSig) [a.sval, b.sval]
/-- a × b (R158); a zero product takes the exclusive OR of the signs (R95). -/
def Ty.fmul (t : Ty) (r : Rm) (a b : FVal) : FRes :=
  let p := a.mul b
  t.sumS r (a.isSig || b.isSig || p.2) [p.1]
/-- a × b + c (R158). -/
def Ty.ffma (t : Ty) (r : Rm) (a b c : FVal) : FRes :=
  let p := a.mul b
  t.sumS r (a.isSig || b.isSig || c.isSig || p.2) [p.1, c.sval]

/-- a0 × b0 + a1 × b1 + c into .f32 (R168). -/
def dp2f (r : Rm) (a0 b0 a1 b1 c : FVal) : FRes :=
  let p := a0.mul b0
  let q := a1.mul b1
  Ty.f32.sumS r (a0.isSig || b0.isSig || a1.isSig || b1.isSig || c.isSig || p.2 || q.2) [p.1, q.1, c.sval]

/-- The bits of a value that is exact in the type, keeping its sign; NaN gives the canonical NaN. -/
def Ty.exactBits (t : Ty) (v : FVal) : Nat :=
  match v with
  | .nan _ => t.cnan
  | .inf n => t.infBits n
  | .fin n m e => (t.arith .rne n m e false).1

/-- An order key of a non-NaN value: −0 below +0 (R161) when `z`. Compares as real values (R162) otherwise. -/
def FVal.lt (a b : FVal) (z : Bool) : Bool :=
  match a, b with
  | .nan _, _ => false
  | _, .nan _ => false
  | .inf x, .inf y => x && !y
  | .inf x, .fin _ _ _ => x
  | .fin _ _ _, .inf y => !y
  | .fin x m e, .fin y m' e' =>
    let q := min e e'
    let i := signedAt x m e q
    let j := signedAt y m' e' q
    decide (i < j) || (z && decide (i = 0) && decide (j = 0) && x && !y)

/-- fmin and fmax (R161) on bit patterns. -/
def Ty.fminmax (t : Ty) (mx : Bool) (a b : Nat) : FRes :=
  let x := t.dec a
  let y := t.dec b
  let fl := flagIf (x.isSig || y.isSig) fIV
  let pick := if x.isNan && y.isNan then t.cnan
    else if x.isNan then b % 2 ^ t.fw
    else if y.isNan then a % 2 ^ t.fw
    else if (if mx then FVal.lt x y true else FVal.lt y x true) then b % 2 ^ t.fw else a % 2 ^ t.fw
  (pick, fl)

/-- The conditions of R162. -/
def fcond (c : Nat) (x y : FVal) : Bool :=
  let un := x.isNan || y.isNan
  let lt := FVal.lt x y false
  let gt := FVal.lt y x false
  match c with
  | 0 => !un && !lt && !gt
  | 1 => un || lt || gt
  | 2 => lt
  | 3 => !un && !gt
  | 4 => gt
  | 5 => !un && !lt
  | 6 => un
  | _ => !un

/-- The class bit of R163. -/
def Ty.fclass (t : Ty) (x : Nat) : Nat :=
  match t.dec x with
  | .nan true => 0
  | .nan false => 1
  | .inf true => 2
  | .inf false => 9
  | .fin n m _ =>
    let normal := decide (2 ^ t.fbits ≤ m)
    if m = 0 then (if n then 5 else 6)
    else if normal then (if n then 3 else 8)
    else (if n then 4 else 7)

/-- a × 2^n (R159). The exponent is clamped where the result is already decided. -/
def fscale (r : Rm) (a : FVal) (n : Int) : FRes :=
  match a with
  | .nan s => (Ty.f32.cnan, flagIf s fIV)
  | .inf g => (Ty.f32.infBits g, 0)
  | .fin g m e => if m = 0 then (Ty.f32.signBit g, 0) else Ty.f32.arith r g m (e + max (-1000) (min 1000 n)) false

/-- Round to an integral value (R160). -/
def frnd (r : Rm) (a : FVal) : FRes :=
  match a with
  | .nan s => (Ty.f32.cnan, flagIf s fIV)
  | .inf g => (Ty.f32.infBits g, 0)
  | .fin g m e =>
    if 0 ≤ e then ((Ty.f32.arith .rne g m e false).1, 0)
    else ((Ty.f32.arith .rne g (roundTo r g m e false 0).1 0 false).1, 0)

/-- Integer square root by bits: the greatest x with x² ≤ n, among the numbers `r` extends by `k` bits. -/
def isqrtAux (n : Nat) : Nat → Nat → Nat
  | 0, r => r
  | k + 1, r => isqrtAux n k (if (r + 2 ^ k) * (r + 2 ^ k) ≤ n then r + 2 ^ k else r)

/-- Integer square root. -/
def isqrt (n : Nat) : Nat := isqrtAux n (bitLen n / 2 + 1) 0

/-- 1/a, correctly rounded (R164). -/
def frcp (r : Rm) (a : FVal) : FRes :=
  match a with
  | .nan s => (Ty.f32.cnan, flagIf s fIV)
  | .inf g => (Ty.f32.signBit g, 0)
  | .fin g m e =>
    if m = 0 then (Ty.f32.infBits g, fDZ)
    else
      let q := 2 ^ 64 / m
      Ty.f32.arith r g q (-64 - e) (decide (2 ^ 64 % m ≠ 0))

/-- √a, correctly rounded (R164). -/
def fsqrt (r : Rm) (a : FVal) : FRes :=
  match a with
  | .nan s => (Ty.f32.cnan, flagIf s fIV)
  | .inf g => if g then (Ty.f32.cnan, fIV) else (Ty.f32.infBits false, 0)
  | .fin g m e =>
    if m = 0 then (Ty.f32.signBit g, 0)
    else if g then (Ty.f32.cnan, fIV)
    else
      let odd := e % 2 != 0
      let m' := (if odd then 2 * m else m) * 2 ^ 60
      let e' := (if odd then e - 1 else e) - 60
      let q := isqrt m'
      Ty.f32.arith r false q (e' / 2) (decide (q * q ≠ m'))

/-! ### Conversion (R101–R104, R171) -/

/-- A conversion's outcome: the destination register value and flags, or a CVTOVF park. -/
inductive Cv where
  | ok (v : W128) (fl : Flags)
  | trap
  deriving DecidableEq, Repr

/-- The overflow policy of a down-conversion to a float (R102): 0 .sat, 1 .inf, 2 .nan, 3 .trap. -/
def Ty.policy (d : Ty) (ovf : BitVec 2) (neg : Bool) : Cv :=
  match ovf.toNat with
  | 0 => .ok (BitVec.ofNat 128 (d.maxBits + d.signBit neg)) (fOF ||| fIX)
  | 1 => .ok (BitVec.ofNat 128 (d.infBits neg)) (fOF ||| fIX)
  | 2 => .ok (BitVec.ofNat 128 d.cnan) (fOF ||| fIX)
  | _ => .trap

/-- A finite exact value converted to a float type. -/
def Ty.cvtFin (d : Ty) (r : Rm) (ovf : BitVec 2) (neg : Bool) (m : Nat) (e : Int) : Cv :=
  if m = 0 then .ok (BitVec.ofNat 128 (d.signBit neg)) 0
  else
    let x := d.round r neg m e false
    if x.big then d.policy ovf neg
    else .ok (BitVec.ofNat 128 x.bits) (flagIf x.uf fUF ||| flagIf x.ix fIX)

/-- A float value converted to a float type (R101–R103). -/
def Ty.cvtFF (d : Ty) (r : Rm) (ovf : BitVec 2) (v : FVal) : Cv :=
  match v with
  | .nan s => .ok (BitVec.ofNat 128 d.cnan) (flagIf s fIV)
  | .inf g => if d == .e4m3 then d.policy ovf g else .ok (BitVec.ofNat 128 (d.infBits g)) 0
  | .fin g m e => d.cvtFin r ovf g m e

/-- Beyond an integer type's range, or NaN: .sat gives `v` with the flags, .trap parks. -/
def satOr (ovf : BitVec 2) (v : W128) (fl : Flags) : Cv := if ovf = 3 then .trap else .ok v fl

/-- A float value converted to an integer type (R104). -/
def Ty.cvtFI (d : Ty) (r : Rm) (ovf : BitVec 2) (v : FVal) : Cv :=
  match v with
  | .nan _ => satOr ovf 0 fIV
  | .inf g => satOr ovf (d.enc (if g then d.minI else d.maxI)) fIV
  | .fin g m e =>
    let k := roundTo r g m e false 0
    let i : Int := if g then -(k.1 : Int) else k.1
    if i < d.minI ∨ d.maxI < i then satOr ovf (d.enc (d.clampI i)) fIV
    else .ok (d.enc i) (flagIf k.2 fIX)

/-- An integer converted to an integer type (R104, R171). -/
def Ty.cvtII (d : Ty) (ovf : BitVec 2) (i : Int) : Cv :=
  if i < d.minI ∨ d.maxI < i then satOr ovf (d.enc (d.clampI i)) 0 else .ok (d.enc i) 0

/-- cvt (R171): convert the register value `x` of type `s` to `d`. -/
def cvtTo (s d : Ty) (r : Rm) (ovf : BitVec 2) (x : W128) : Cv :=
  if s.isFloat then
    if d.isFloat then d.cvtFF r ovf (s.dec x.toNat) else d.cvtFI r ovf (s.dec x.toNat)
  else
    let i := s.int x
    if d.isFloat then d.cvtFin r ovf (decide (i < 0)) i.natAbs 0 else d.cvtII ovf i

/-- An immediate of a float type (R64): the integer converted, in both halves of a packed type. -/
def Ty.fimm (t : Ty) (v : BitVec 8) : Nat :=
  let k := (t.arith .rne (decide (v.toInt < 0)) v.toInt.natAbs 0 false).1
  if t == .f16x2 || t == .bf16x2 then k + 2 ^ 16 * k else k

end Sys2Proof.Machine
end

