-- ==== Sys2Proof/Machine/Ops.lean ====
section
/-! DEFINITION. The named operations every meaning is written from: registers and operands, the checks of R73 and R74 before an
instruction takes effect, taking a fault and returning from a handler, instruction fetch, transfers of control, and the
shared form of an instruction that computes a register result in each thread. -/

namespace Sys2Proof.Machine

/-! ### Groups, lanes and registers -/

/-- Apply `f` to the lanes by number. -/
def mapLanes (f : Nat → Lane → Lane) : Nat → List Lane → List Lane
  | _, [] => []
  | i, l :: ls => f i l :: mapLanes f (i + 1) ls

/-- Lane i of the group. -/
def Group.lane (gr : Group) (i : Nat) : Lane := gr.lanes.getD i {}

/-- Change the lanes of a list. -/
def Group.upd (gr : Group) (ps : List Nat) (f : Nat → Lane → Lane) : Group :=
  { gr with lanes := mapLanes (fun i l => if ps.contains i then f i l else l) 0 gr.lanes }

/-- Replace a group of the state. -/
def State.putGroup (s : State) (g : Nat) (gr : Group) : State := { s with groups := Store.put s.groups g gr }

/-- Change a group of the state, where there is one. -/
def State.updGroup (s : State) (g : Nat) (f : Group → Group) : State := { s with groups := Store.upd s.groups g f }

/-- The group named g. -/
def State.group (s : State) (g : Nat) : Option Group := Store.find s.groups g
/-- A core. -/
def State.core (s : State) (c : Nat) : Core := Store.get {} s.cores c
/-- Change a core. -/
def State.updCore (s : State) (c : Nat) (f : Core → Core) : State := { s with cores := Store.set {} s.cores c (f (s.core c)) }

/-- Vector register (R20): zero at group start (R24). -/
def Lane.rd (l : Lane) (n : Nat) : W32 := Store.get 0 l.v n
/-- Scalar register. -/
def Group.rd (gr : Group) (n : Nat) : W32 := Store.get 0 gr.s n

/-- Registers from `b` as one value, the lowest least significant (R23). -/
def joinRegs (rd : Nat → W32) (b : Nat) : Nat → W128
  | 0 => 0
  | n + 1 => (rd b).zeroExtend 128 ||| (joinRegs rd (b + 1) n <<< 32)

/-- Write one vector register; a result still to come for it no longer stands (R217). -/
def Lane.setReg (l : Lane) (n : Nat) (x : W32) : Lane := { l with v := Store.set 0 l.v n x, pend := Store.del l.pend n }

/-- Write `n` registers from `b`, least significant word first. -/
def Lane.setRegs (l : Lane) (b : Nat) : Nat → W128 → Lane
  | 0, _ => l
  | n + 1, x => Lane.setRegs (l.setReg b (x.extractLsb' 0 32)) (b + 1) n (x >>> 32)

/-- Write one scalar register. -/
def Group.setReg (gr : Group) (n : Nat) (x : W32) : Group := { gr with s := Store.set 0 gr.s n x, spend := Store.del gr.spend n }

/-- Write `n` scalar registers from `b`. -/
def Group.setRegs (gr : Group) (b : Nat) : Nat → W128 → Group
  | 0, _ => gr
  | n + 1, x => Group.setRegs (gr.setReg b (x.extractLsb' 0 32)) (b + 1) n (x >>> 32)

/-- The low `n` registers' worth of a value. -/
def lowRegs (n : Nat) (x : W128) : W128 := x &&& BitVec.ofNat 128 (2 ^ (32 * n) - 1)

/-- What a destination specifier's registers hold for lane i. -/
def Group.dstVal (gr : Group) (i : Nat) (x : BitVec 10) (n : Nat) : W128 :=
  match Operand.ofSpec x with
  | .vreg b => joinRegs (gr.lane i).rd b n
  | .sreg b => joinRegs gr.rd b n
  | _ => 0

/-- Latch k as thread `r` reads lane i's part of it at `n` registers (R31, R68): held directly, or read in lane i from the destination
registers of the reader's producer once cleared; without a producer it is zero. -/
def Group.latchAt (gr : Group) (r i k n : Nat) : W128 :=
  match gr.latch[k]? with
  | some la => lowRegs n (la.vals.getD i 0)
  | none =>
    match (gr.lane r).prods[k]? with
    | none => 0
    | some p => lowRegs n (gr.dstVal i p.dst p.regs)

/-- Latch k for lane i. -/
def Group.latchVal (gr : Group) (i k n : Nat) : W128 := gr.latchAt i i k n

/-- The value of a source specifier at `n` registers, as thread `r` reads it in lane i (R31–R33, R61, R64, R138): an immediate is
sign-extended. A queue entry holds 32 bits per lane; a wider read of one takes zeros above them (log 105). -/
def Group.srcAt (gr : Group) (r i : Nat) (x : BitVec 10) (n : Nat) : W128 :=
  match Operand.ofSpec x with
  | .vreg b => joinRegs (gr.lane i).rd b n
  | .sreg b => joinRegs gr.rd b n
  | .latch k => gr.latchAt r i k n
  | .queue k =>
    match (gr.oq.getD k {}).entries with
    | [] => 0
    | e :: _ => (e.vals.getD i 0).zeroExtend 128
  | .zero => 0
  | .laneid => BitVec.ofNat 128 i
  | .ones => BitVec.ofNat 128 (2 ^ (32 * n) - 1)
  | .imm v => lowRegs n (v.signExtend 128)
  | .illegal => 0

/-- The value of a source specifier for lane i. -/
def Group.src (gr : Group) (i : Nat) (x : BitVec 10) (n : Nat) : W128 := gr.srcAt i i x n

/-- One 32-bit source. -/
def Group.src32 (gr : Group) (i : Nat) (x : BitVec 10) : W32 := (gr.src i x 1).setWidth 32
/-- A 64-bit pair. -/
def Group.src64 (gr : Group) (i : Nat) (x : BitVec 10) : W64 := (gr.src i x 2).setWidth 64

/-- A source of a float type (R64): an immediate is converted. -/
def Group.fsrc (gr : Group) (t : Ty) (i : Nat) (x : BitVec 10) : Nat :=
  match Operand.ofSpec x with
  | .imm v => t.fimm v
  | _ => (gr.src i x 1).toNat

/-- The data of an atomic or a store: of the .f32 width an immediate is converted (R64, R216). -/
def Group.dataSrc (gr : Group) (width : BitVec 4) (i : Nat) (x : BitVec 10) (n : Nat) : W128 :=
  if width = 9 then BitVec.ofNat 128 (gr.fsrc .f32 i x) else gr.src i x n

/-- Write a destination (R25): a vector destination in each lane of `ps`, a scalar one once, from the first. -/
def Group.writeDst (gr : Group) (x : BitVec 10) (n : Nat) (ps : List Nat) (val : Nat → W128) : Group :=
  match Operand.ofSpec x with
  | .vreg b => gr.upd ps (fun i l => l.setRegs b n (val i))
  | .sreg b =>
    match ps with
    | [] => gr
    | i :: _ => gr.setRegs b n (val i)
  | _ => gr

/-! ### Program counters -/

/-- Next(a) of R183. -/
def nextPc (a : W64) : W64 := if a.extractLsb' 0 3 = 4 then (a &&& ~~~63) + 64 else a + 1

/-- A thread continues at `pc`: it has issued its instruction. -/
def Lane.goTo (l : Lane) (pc : W64) : Lane := { l with pc := pc, issued := l.issued + 1, exempt := false, wait := .none }

/-- The threads of the issuing path, in lane order (R174). -/
def Issue.path (iss : Issue) (gr : Group) : List Nat :=
  (List.range 32).filter (fun i => iss.lanes.getLsbD i && (gr.lane i).run == .running)

/-- Between the two instructions of a pair: the threads whose second one has not issued (R69). -/
def Group.between (gr : Group) : BitVec 32 :=
  (List.range 32).foldl (fun m i => if gr.mid.getLsbD i && (gr.lane i).run == .running then m ||| (1 <<< i) else m) 0

/-- Each thread of the list that still runs continues at Next(PC) (R183). -/
def Group.advance (gr : Group) (iss : Issue) (ps : List Nat) : Group :=
  gr.upd ps (fun _ l => if l.run = .running then l.goTo (nextPc iss.pc) else l)

/-- The path waits at its instruction (R299). -/
def Group.stay (gr : Group) (ps : List Nat) (w : WaitFor) : Group := gr.upd ps (fun _ l => { l with wait := w })

/-! ### Taking a fault (R260–R264, R267) -/

/-- What a fault records beside the lane. -/
structure FaultInfo where
  code   : Byte
  extra  : W32
  pc     : W64
  resume : W64
  addr   : Option W64 := none
  imprecise : Bool := false
  skid   : Byte := 0
  deriving DecidableEq, Repr

/-- A precise fault at `pc` (R267). -/
def preciseFault (code : Byte) (extra : W32) (pc : W64) : FaultInfo := { code := code, extra := extra, pc := pc, resume := pc }

/-- The record of a fault (R260). -/
def FaultInfo.record (f : FaultInfo) (i : Nat) (inHandler : Bool) : FaultRec :=
  { code := f.code, lane := BitVec.ofNat 8 i,
    flags := (if f.imprecise then 1 else 0) ||| (if inHandler then 2 else 0) ||| (if f.addr.isSome then 4 else 0),
    skid := f.skid, extra := f.extra, pc := f.pc, addr := f.addr.getD 0, resume := f.resume }

/-- Taking a fault (R260): the thread parks and writes its record; a barrier instruction in which it waits has issued and is still to complete
(R267). Inside the handler the fault is a double fault (R263);
that, or a zero TRAPVEC, ends the block (R264), which `fatal` marks. -/
def Lane.park (l : Lane) (i : Nat) (trapvec : W64) (f : FaultInfo) : Lane :=
  { l with
    run := .parked, wait := .none, bar := none, barLate := l.bar.toList ++ l.barLate,
    fatal := l.fatal || l.inHandler || trapvec == 0, flt := f.record i l.inHandler }

/-- The threads of a list take a fault (R261). -/
def Group.park (gr : Group) (ps : List Nat) (f : FaultInfo) : Group := gr.upd ps (fun i l => l.park i gr.trapvec f)

/-- Does a thread that has not exited hold region id x (R193)? -/
def Group.holds (gr : Group) (x : W16) : Bool :=
  gr.lanes.any (fun l => l.run != .exited && l.stack.any (fun e => match e with | .region y _ => y == x | .call _ => false))

/-- Release of the waiting threads whose region has closed (R193): for R178 they count as served in the turn in which they come to run. -/
def Group.release (gr : Group) : Group :=
  { gr with lanes := gr.lanes.map (fun l =>
      if l.run = .waiting ∧ gr.holds l.awaiting = false
      then { l with run := .running, pc := nextPc l.pc, wait := .none, served := gr.turnNo } else l) }

/-- Is the thread out of the way of a handler entry (R262)? -/
def Lane.settled (l : Lane) : Bool :=
  l.run == .parked || l.inHandler || l.run == .exited || l.run == .waiting || l.bar.isSome || l.barLate != []

/-- Lanes that would enter the handler. -/
def Group.enterers (gr : Group) : List Nat :=
  (List.range 32).filter (fun i => (gr.lane i).run == .parked && !(gr.lane i).inHandler && !(gr.lane i).fatal)

/-- May the parked threads enter their handler now (R262)? -/
def Group.mayEnter (gr : Group) : Bool := gr.lanes.all Lane.settled && gr.enterers != []

/-! ### The checks before an instruction takes effect (R73, R74) -/

/-- 0x250–0x25F (R275). -/
def isPriv (i : Instr) : Bool :=
  match i with
  | .halt _ => true
  | .tlbi _ => true
  | .ldio _ => true
  | .stio _ => true
  | .mbxw _ => true
  | .engx _ => true
  | _ => false

/-- Opcodes that no pair may hold (R70). -/
def noPairOp (op : BitVec 10) : Bool :=
  let o := op.toNat
  o != 0x100 && ((decide (0x100 ≤ o) && decide (o ≤ 0x13F)) || (decide (0x1C0 ≤ o) && decide (o ≤ 0x1DF)) ||
    (decide (0x240 ≤ o) && decide (o ≤ 0x25F)))

/-- Result-producing (R66). -/
def producesResult (i : Instr) : Bool :=
  let o := (opcode i).toNat
  decide (1 ≤ o) && decide (o ≤ 0xFF) && (use i).h.dst != noneSpec

/-- Does the instruction with this opcode begin a pair that R70 forbids? -/
def Issue.badPair (iss : Issue) (op : BitVec 10) : Bool := iss.first && (noPairOp op || noPairOp iss.other)

/-- R73 reason 9: WBS (R67) and the pair (R70). A pair is tested at its first instruction: the second of a forbidden pair, entered by rte (R50),
executes (log 148). -/
def pairOk (iss : Issue) (i : Instr) : Bool :=
  ((use i).h.wbs == 0 || (producesResult i && iss.first)) && !iss.badPair (opcode i)

/-- The issue whose Next(PC) is where the threads go on that an instruction leaves unaffected: past both instructions of a forbidden pair, of
which neither executes (R70). -/
def Issue.past (iss : Issue) (op : BitVec 10) : Issue := if iss.badPair op then { iss with pc := nextPc iss.pc } else iss

/-- Is GREG within budget (R22, R73 reason 3)? -/
def Use.guardBudget (u : Use) (gr : Group) : Bool :=
  let g := u.h.greg.toNat
  if g < 256 then decide (g < 8 * gr.vgran) else if g < 384 then decide (g - 256 < 8 * gr.sgran) else g == 511

/-- The first check of R73 that fails, from reason 2 on; a guard's failure is kept apart (R74). -/
def failedCheck (iss : Issue) (gr : Group) (i : Instr) : Option Nat :=
  let u := use i
  if isPriv i && !gr.priv then some 2
  else if !u.guardOk || !u.guardBudget gr then some 3
  else if !u.fieldsOk then some 4
  else if !u.ops.all OpUse.classOk then some 5
  else if !u.ops.all (OpUse.budgetOk (8 * gr.vgran) (8 * gr.sgran)) then some 6
  else if !u.ops.all OpUse.alignOk then some 7
  else if !u.ops.all OpUse.immOk then some 8
  else if !pairOk iss i then some 9
  else none

/-- The fault of a failed check: PRIV for reason 2, ILLOP otherwise (R73, R266). -/
def checkFault (r : Nat) (pc : W64) : FaultInfo := preciseFault (if r = 2 then 0x60 else 0x01) (BitVec.ofNat 32 r) pc

/-- Does the guard pass in lane i (R28)? -/
def Group.guard (gr : Group) (h : Hdr) (i : Nat) : Bool :=
  let g := h.greg.toNat
  if g = 511 then true
  else
    let r := if g < 256 then (gr.lane i).rd g else gr.rd (g - 256)
    (r.getLsbD h.gbit.toNat) != (h.gneg == 1)

/-- The passing threads: for an instruction that executes once for the path, a vector guard is the lowest thread's (R25). -/
def Group.passing (gr : Group) (h : Hdr) (once : Bool) (path : List Nat) : List Nat :=
  if once then
    match path with
    | [] => []
    | i :: _ => if gr.guard h i then path else []
  else path.filter (gr.guard h)

/-- Is register `b + k`, k < n, of the lane still to be written by an access in flight, or its line absent (R217, R292)? -/
def Group.vwait (gr : Group) (i b n : Nat) : Option WaitFor :=
  if (List.range n).any (fun k => (Store.find (gr.lane i).pend (b + k)).isSome) then some .reply
  else if (List.range n).any (fun k => gr.absent.contains (24 + b + k)) then some .line
  else none

/-- As `vwait`, for scalar registers. -/
def Group.swait (gr : Group) (b n : Nat) : Option WaitFor :=
  if (List.range n).any (fun k => (Store.find gr.spend (b + k)).isSome) then some .reply
  else if (List.range n).any (fun k => gr.absent.contains ((b + k) / 32)) then some .line
  else none

/-- What a register specifier waits for in lane i. -/
def Group.specWait (gr : Group) (i : Nat) (x : BitVec 10) (n : Nat) : Option WaitFor :=
  match Operand.ofSpec x with
  | .vreg b => gr.vwait i b n
  | .sreg b => gr.swait b n
  | _ => none

/-- What thread `r` waits for when it reads a specifier in lane i: its registers, a cleared latch's destination, or an empty queue (R32, R68,
R299). -/
def Group.waitAt (gr : Group) (r i : Nat) (x : BitVec 10) (n : Nat) : Option WaitFor :=
  match Operand.ofSpec x with
  | .latch k =>
    if k < gr.latch.length then none
    else
      match (gr.lane r).prods[k]? with
      | some p => if p.wbs then none else gr.specWait i p.dst p.regs
      | none => none
  | .queue k =>
    let q := gr.oq.getD k {}
    if q.st = .idle then none else if q.entries = [] then some .stream else none
  | _ => gr.specWait i x n

/-- Instructions whose destination keeps bits it held before: the destination is also read (R30). -/
def keepsDst (i : Instr) : Bool :=
  match i with
  | .cmp _ => true
  | .fcmp _ => true
  | .wtest _ => true
  | .movk _ => true
  | .pack _ => true
  | .vote _ => true
  | .dbra _ => true
  | .oclm _ => true
  | _ => false

/-- The first wait among the operands of the threads (R217, R299). -/
def firstWait : List (Option WaitFor) → Option WaitFor
  | [] => none
  | some w :: _ => some w
  | none :: rest => firstWait rest

/-- The guard register's wait. -/
def Group.guardWait (gr : Group) (h : Hdr) (ps : List Nat) : Option WaitFor :=
  let g := h.greg.toNat
  if g < 256 then firstWait (ps.map (fun i => gr.vwait i g 1)) else if g < 384 then gr.swait (g - 256) 1 else none

/-- Lane number of a uniform operand (R140). -/
def laneOf (f : FmtG) (gr : Group) (l : Nat) : Nat := (gr.src32 l f.b).toNat % 32

/-- Lanes per segment (R118). -/
def segWidth (c : Nat) : Nat := 32 / 2 ^ c

/-- Source lane of shfl (R142). -/
def shflLane (mode w i n : Nat) : Nat :=
  let base := i / w * w
  match mode with
  | 0 => base + n % w
  | 1 => if i < base + n then i else i - n
  | 2 => if base + w ≤ i + n then i else i + n
  | _ => i ^^^ (n % w)

/-- The lane that thread l reads with shfl. -/
def shflFrom (f : FmtG) (gr : Group) (l : Nat) : Nat :=
  shflLane (f.per.toNat % 4) (segWidth (f.per.toNat / 4 % 8)) l (gr.src32 l f.b).toNat

/-- The lane that thread l reads with lsh, if it is one (R143). -/
def lshFrom (f : FmtG) (gr : Group) (l : Nat) : Option Nat :=
  let j : Int := (l : Int) - (gr.src32 l f.b).toInt
  if 0 ≤ j ∧ j ≤ 31 then some j.toNat else none

/-- What thread l waits for in the sources of an instruction that reads source a in lane `j` (R138). -/
def Group.crossWait (gr : Group) (f : FmtG) (nb l j : Nat) : Option WaitFor :=
  firstWait [gr.waitAt l l f.b nb, gr.waitAt l j f.a f.ty.regs]

/-- The first line of the convergence stacks in a context image, after the vector registers (R199, R291). -/
def Group.stackLine (gr : Group) : Nat := 24 + 8 * gr.vgran

/-- A thread that reads its convergence stack waits for an absent line of it (R199, R292): entry e lies at 512·e + 16·lane. -/
def Group.stackWait (gr : Group) (l : Nat) : Option WaitFor :=
  if (List.range (gr.lane l).stack.length).any (fun e => gr.absent.contains (gr.stackLine + 4 * e + l / 8)) then some .line else none

/-- What thread l waits for in its sources. -/
def Group.laneWait (gr : Group) (i : Instr) (l : Nat) : Option WaitFor :=
  match i with
  | .vbc f => gr.crossWait f f.ty.regs l (laneOf f gr l)
  | .rdlane f => gr.crossWait f f.ty.regs l (laneOf f gr l)
  | .shfl f => gr.crossWait f 1 l (shflFrom f gr l)
  | .lsh f =>
    (match lshFrom f gr l with
     | some j => gr.crossWait f 1 l j
     | none => firstWait [gr.waitAt l l f.b 1, gr.waitAt l l f.c f.ty.regs])
  | .ret _ => gr.stackWait l
  | .join _ => gr.stackWait l
  | .brk _ => gr.stackWait l
  | _ =>
    firstWait (((use i).ops.filter (fun o => (!o.isDst || keepsDst i) && o.regs != 0)).map (fun o => gr.waitAt l l o.spec o.regs))

/-- The queues named as sources (R32), each once. -/
def queuesOf (i : Instr) : List Nat :=
  (List.range 4).filter (fun k => (use i).ops.any (fun o => !o.isDst && Operand.ofSpec o.spec == .queue k))

/-- Pop the head entry of queue k (R32, R310); the queue is refilled from the spill ring (R311). -/
def OpQueue.pop (q : OpQueue) : OpQueue :=
  { q with
    entries := q.entries.tail ++ q.spilled.take 1, spilled := q.spilled.drop 1, popped := q.popped + 1,
    st := if q.popped + 1 = q.total then .idle else q.st }

/-- The entries of a group's four queues that its spill ring holds (R311). -/
def ringHeld (oq : List OpQueue) : Nat := ((oq.take 4).map (fun q => q.spilled.length)).sum

/-- A paused walk goes on (R310). -/
def OpQueue.unpause (q : OpQueue) : OpQueue := if q.st = .paused then { q with st := .walking } else q

/-- The queues of a group after a change: where the ring, which was full when a walk paused, has been drained, the paused walks go on (R310). -/
def drainRing (old new : List OpQueue) : List OpQueue := if ringHeld new < ringHeld old then new.map OpQueue.unpause else new

/-- Entries that the spill ring of a quota in 4 KiB units holds (R311). -/
def ringCap (quota : Nat) : Nat := 32 * quota

/-- The group leaves the active set: a queue's unpopped entries go to the head of the ring where they fit in its free places, or the walk is rewound
to the first of them (R311). -/
def OpQueue.leave (room : Nat) (q : OpQueue) : OpQueue :=
  if q.entries = [] then q
  else if q.entries.length ≤ room then { q with entries := [], spilled := q.entries ++ q.spilled }
  else { q with entries := [], spilled := [], next := q.popped, got := [], asked := none, st := .walking }

/-- Each queue leaves in turn, with the places of the ring that are free by then. -/
def leaveRing : Nat → List OpQueue → List OpQueue
  | _, [] => []
  | room, q :: qs => let x := q.leave room; x :: leaveRing (room + q.spilled.length - x.spilled.length) qs

/-- The group's queues leave the active set: the four share a ring of `cap` entries (R83, R311). -/
def leaveQueues (cap : Nat) (oq : List OpQueue) : List OpQueue := drainRing oq (leaveRing (cap - ringHeld oq) oq)

/-- The group is back: the queue is refilled from the ring. -/
def OpQueue.back (q : OpQueue) : OpQueue :=
  if q.entries = [] then { q with entries := q.spilled.take 64, spilled := q.spilled.drop 64 } else q

/-- Pop the queues an instruction names. -/
def Group.popQueues (gr : Group) (ks : List Nat) : Group :=
  { gr with oq := drainRing gr.oq ((List.range 4).map (fun k => if ks.contains k then (gr.oq.getD k {}).pop else gr.oq.getD k {})) }

/-- The fault that the head entries carry for a lane (R312). -/
def Group.queueFault (gr : Group) (ks : List Nat) (i : Nat) (pc : W64) : Option FaultInfo :=
  match ks with
  | [] => none
  | k :: rest =>
    match (gr.oq.getD k {}).entries with
    | [] => gr.queueFault rest i pc
    | e :: _ =>
      match Store.find e.faults i with
      | some (c, x, a) => some { preciseFault c x pc with addr := some a }
      | none => gr.queueFault rest i pc

/-- The latch a source reads that is lost in lane i (R68). -/
def Group.lostLatch (gr : Group) (i : Instr) (l : Nat) : Option Nat :=
  (List.range 4).find? (fun k =>
    (use i).ops.any (fun o => !o.isDst && Operand.ofSpec o.spec == .latch k) && decide (gr.latch.length ≤ k) &&
    (match (gr.lane l).prods[k]? with | some p => p.wbs | none => false))

/-- What the checks decide for an issue. -/
inductive Prep where
  /-- The path waits; nothing has issued. -/
  | stay (w : WaitFor)
  /-- The instruction takes no effect: `gr` holds the threads that parked, and the others issue it again (R100, R127). -/
  | again (gr : Group)
  /-- The instruction issues: `gr` holds the threads that parked and the queues popped, `ps` the threads in which it takes effect. -/
  | go (gr : Group) (ps : List Nat)

/-- The faults of single threads at their sources: a lost latch, a faulted queue entry. A thread that meets both records the lost latch; where the
lowest thread alone is read, the faulted entry (log 147). -/
def Group.srcFault (gr : Group) (i : Instr) (ks : List Nat) (pc : W64) (l : Nat) : Option FaultInfo :=
  match gr.lostLatch i l with
  | some k => some (preciseFault 0x04 (BitVec.ofNat 32 k) pc)
  | none => gr.queueFault ks l pc

/-- Park each thread that has a fault. -/
def Group.parkEach (gr : Group) (ps : List Nat) (f : Nat → Option FaultInfo) : Group :=
  gr.upd ps (fun i l => match f i with | some x => l.park i gr.trapvec x | none => l)

/-- Instructions that, executing once for the path, read every passing thread (R144, R146). -/
def gathers (i : Instr) : Bool :=
  match i with
  | .vote _ => true
  | .lred _ => true
  | _ => false

/-- The threads of the passing ones that take part (R137): those of vote and lred have each their own guard, also where the lowest thread's decided
for the path (R25, R144, R146). -/
def Group.takers (gr : Group) (i : Instr) (h : Hdr) (ps : List Nat) : List Nat := if gathers i then ps.filter (gr.guard h) else ps

/-- Is it the lowest thread alone that an instruction reads (R25)? -/
def fromLowest (i : Instr) (once : Bool) : Bool := once && !gathers i

/-- The threads whose sources are read: the passing ones, or the lowest whose queue entries carry no fault (R25, R312). -/
def Group.readers (gr : Group) (i : Instr) (once : Bool) (ps : List Nat) : List Nat :=
  if fromLowest i once then (ps.filter (fun l => (gr.queueFault (queuesOf i) l 0).isNone)).take 1 else ps

/-- What the threads that keep bits of their vector destination wait for in it, where the instruction executes once and writes it in each (R30,
R217, R351). -/
def Group.keptWait (gr : Group) (i : Instr) (once : Bool) (ps : List Nat) : Option WaitFor :=
  if once && keepsDst i then firstWait (ps.map (fun l => gr.specWait l (use i).h.dst 1)) else none

/-- A queue that is named as a source and is neither idle nor holds an entry makes the path wait, whether or not a thread reads it (R32). -/
def Group.queuesWait (gr : Group) (ks : List Nat) : Option WaitFor :=
  if ks.any (fun k => (gr.oq.getD k {}).st != .idle && (gr.oq.getD k {}).entries == []) then some .stream else none

/-- The source waits of the threads read. -/
def Group.srcWait (gr : Group) (i : Instr) (once : Bool) (ps : List Nat) : Option WaitFor :=
  firstWait ((gr.readers i once ps).map (gr.laneWait i) ++ [gr.keptWait i once ps, gr.queuesWait (queuesOf i)])

/-- The faults at the sources of an instruction that reads the lowest thread alone (R68, R312, log 11): a thread with a faulted queue entry
parks as the entry is popped; while the lowest of the others lost a latch it parks, and the rest issue the instruction again. -/
def Group.srcOnce (gr : Group) (i : Instr) (ks : List Nat) (pc : W64) (ps : List Nat) : Prep :=
  match ps.filter (fun l => (gr.queueFault ks l pc).isNone) with
  | [] => .go ((gr.popQueues ks).parkEach ps (fun l => gr.queueFault ks l pc)) []
  | p :: rest =>
    match gr.lostLatch i p with
    | some k => .again (gr.park [p] (preciseFault 0x04 (BitVec.ofNat 32 k) pc))
    | none => .go ((gr.popQueues ks).parkEach ps (fun l => gr.queueFault ks l pc)) (p :: rest)

/-- The faults at the sources of an instruction that reads each passing thread (R68, R312): each thread with one parks, and the queues are
popped unless every thread lost a latch. -/
def Group.srcEach (gr : Group) (i : Instr) (ks : List Nat) (pc : W64) (ps : List Nat) : Prep :=
  let ok := ps.filter (fun l => (gr.srcFault i ks pc l).isNone)
  if ok = [] ∧ ps.all (fun l => (gr.queueFault ks l pc).isNone) then .again (gr.parkEach ps (gr.srcFault i ks pc))
  else .go ((gr.popQueues ks).parkEach ps (gr.srcFault i ks pc)) ok

/-- A path in which the guard passes in no thread: `wjoinr` under a vector guard joins no contribution, and its scalar destination takes the null
witness (R230); any other instruction does nothing. -/
def Group.unpassed (gr : Group) (iss : Issue) (i : Instr) : Prep :=
  match i with
  | .wjoinr f =>
    if 256 ≤ f.h.greg.toNat ∨ (failedCheck iss gr i).isSome then .go gr []
    else
      match gr.specWait 0 f.h.dst 2 with
      | some w => .stay w
      | none => .go (gr.writeDst f.h.dst 2 [0] (fun _ => 0)) []
  | _ => .go gr []

/-- The checks of R73 and R74, the waits of R299 and the source faults, in that order. -/
def prep (iss : Issue) (gr : Group) (i : Instr) (once : Bool) : Prep :=
  let path := iss.path gr
  let u := use i
  if !u.guardOk || !u.guardBudget gr then
    .go (gr.park path (checkFault ((failedCheck iss gr i).getD 3) iss.pc)) []
  else
    match gr.guardWait u.h (if fromLowest i once then path.take 1 else path) with
    | some w => .stay w
    | none =>
      match gr.passing u.h once path with
      | [] => gr.unpassed iss i
      | p :: rest =>
        let ps := p :: rest
        match failedCheck iss gr i with
        | some r => .go (gr.park ps (checkFault r iss.pc)) []
        | none =>
          let rs := gr.takers i u.h ps
          match gr.srcWait i once rs with
          | some w => .stay w
          | none =>
            let ks := queuesOf i
            match ks.find? (fun k => (gr.oq.getD k {}).st == .idle) with
            | some k => .go (gr.park rs (preciseFault 0x51 (BitVec.ofNat 32 k) iss.pc)) []
            | none => if fromLowest i once then gr.srcOnce i ks iss.pc rs else gr.srcEach i ks iss.pc rs

/-- Every instruction's meaning: the checks, then the body on the passing threads. `body` receives the issue, the group before
the issue (its operands are read there), the path, and the passing threads; the state it receives holds the group after the
checks. A body is not run when no thread passes: the path continues, past both instructions of a forbidden pair (R70). -/
def issueWith (i : Instr) (once : Bool) (s : State)
    (body : Issue → Group → List Nat → List Nat → State → State) : Host.Outcome State Fault Refusal :=
  match s.cur with
  | none => .fault .noPath
  | some iss =>
    match s.group iss.g with
    | none => .fault .noPath
    | some gr =>
      let path := iss.path gr
      match prep iss gr i once with
      | .stay w => .next (s.putGroup iss.g (gr.stay path w))
      | .again gr' => .next (s.putGroup iss.g gr')
      | .go gr' [] => .next (s.putGroup iss.g (gr'.advance (iss.past (opcode i)) path))
      | .go gr' (p :: ps) => .next (body iss gr path (p :: ps) (s.putGroup iss.g gr'))

/-! ### Instructions that compute a register result (chapters 04, 05) -/

/-- What such an instruction gives in one thread: a value and flags, or a precise fault. -/
inductive Res where
  | val (v : W128) (fl : Flags)
  | park (code : Byte) (extra : W32)
  deriving DecidableEq, Repr

/-- The fault of a result, at the pc. -/
def Res.fault? (r : Res) (pc : W64) : Option FaultInfo :=
  match r with
  | .val _ _ => none
  | .park c x => some (preciseFault c x pc)
/-- The value of a result. -/
def Res.value : Res → W128
  | .val v _ => v
  | .park _ _ => 0
/-- The flags of a result (R99). -/
def Res.flags : Res → Flags
  | .val _ f => f
  | .park _ _ => 0

/-- An integer result. -/
def Res.int (v : W128) : Res := .val v 0

/-- A float result under the trap enables (R98, R100): EXTRA holds every exception that arose. -/
def Res.float (gr : Group) (x : FRes) : Res :=
  if x.2 &&& gr.fpctl ≠ 0 then .park 0x07 (x.2.zeroExtend 32) else .val (BitVec.ofNat 128 x.1) x.2

/-- A conversion's result (R100, R102): CVTOVF before FPE. -/
def Res.conv (gr : Group) (c : Cv) : Res :=
  match c with
  | .trap => .park 0x08 0
  | .ok v fl => if fl &&& gr.fpctl ≠ 0 then .park 0x07 (fl.zeroExtend 32) else .val v fl

/-- Enter the result into the latches (R31, R66): `val` for the threads that took effect, the destination's value in the others (for
`wrlane` too, whose entry holds its value in the lane it writes: log 107). A thread that parked at the instruction has no producer in it
(R100). -/
def Group.pushLatch (gr : Group) (path ok : List Nat) (dst : BitVec 10) (n : Nat) (wbs : Bool) (val : Nat → W128) : Group :=
  let e : Latch := { vals := (List.range 32).map (fun i => if ok.contains i then lowRegs n (val i) else gr.dstVal i dst n) }
  ({ gr with latch := (e :: gr.latch).take 4 } : Group).upd path (fun _ l =>
    if l.run = .running then { l with prods := (Producer.mk dst n wbs :: l.prods).take 4 } else l)

/-- The group after a register-result instruction has taken effect in `ps` (R25, R66, R67, R99): `f` gives each thread's result
from the group before the issue. When it takes effect in no thread, those in which an exception arose park, no queue is popped, and the
others issue the instruction again (R100, R127); so they do while the lowest thread of one that executes once has a fault (log 11). -/
def Group.produce (gr' : Group) (gr : Group) (iss : Issue) (path ps : List Nat) (h : Hdr) (n : Nat)
    (f : Group → List Nat → Nat → Res) : Group :=
  let once := isScalSpec h.dst
  let r : Nat → Res := if once then fun _ => f gr ps (ps.headD 0) else f gr ps
  let ok := ps.filter (fun i => ((r i).fault? iss.pc).isNone)
  if ok = [] then gr.parkEach (if once then ps.take 1 else ps) (fun i => (r i).fault? iss.pc)
  else
    let wbs := h.wbs == 1
    let g1 := gr'.parkEach ps (fun i => (r i).fault? iss.pc)
    let g2 := if wbs then g1 else g1.writeDst h.dst n ok (fun i => (r i).value)
    let g3 := { g2 with fpstat := ok.foldl (fun x i => x ||| (r i).flags) g2.fpstat }
    (g3.pushLatch path (if once then List.range 32 else ok) h.dst n wbs (fun i => (r i).value)).advance iss path

/-- A register-result instruction (chapters 04, 05): `n` registers of destination, `f` the result in a thread. -/
def produce (i : Instr) (n : Nat) (f : Group → List Nat → Nat → Res) (s : State) : Host.Outcome State Fault Refusal :=
  let h := (use i).h
  issueWith i (isScalSpec h.dst) s (fun iss gr path ps s' =>
    s'.updGroup iss.g (fun gr' => gr'.produce gr iss path ps h n f))

/-! ### Instruction fetch (R45–R51) -/

/-- The line word. -/
def lineWord (d : BitVec 512) : W32 := d.extractLsb' 480 32
/-- Slot k. -/
def lineSlot (d : BitVec 512) (k : Nat) : W96 := d.extractLsb' (96 * k) 96
/-- TGT bit of slot k. -/
def lineTgt (d : BitVec 512) (k : Nat) : Bool := (lineWord d).getLsbD (19 + k)
/-- PAIR bit of slot k: slot k + 1 issues joined to slot k; slots 0 to 3 have one. -/
def linePair (d : BitVec 512) (k : Nat) : Bool := decide (k < 4) && (lineWord d).getLsbD (15 + k)

/-- Consistency (R47). -/
def lineConsistent (d : BitVec 512) : Bool :=
  (lineWord d).extractLsb' 0 15 == 0 &&
  (List.range 3).all (fun k => !((lineWord d).getLsbD (15 + k) && (lineWord d).getLsbD (16 + k))) &&
  (List.range 4).all (fun k => !((lineWord d).getLsbD (15 + k) && (lineWord d).getLsbD (20 + k)))

/-- Number of ones. -/
def onesCount (w : Nat) (x : Nat) : Nat := (List.range w).foldl (fun n i => n + x / 2 ^ i % 2) 0

/-- Every parity bit matches its chunk (R45). -/
def lineParity (d : BitVec 512) : Bool :=
  (List.range 8).all (fun j =>
    decide ((onesCount 60 (d.extractLsb' (60 * j) 60).toNat + (if (lineWord d).getLsbD (24 + j) then 1 else 0)) % 2 = 0))

/-- What fetching a line answers. -/
inductive Fetched where
  | line (d : BitVec 512)
  /-- The fetch waits for the coherent line at a fabric address, which the package does not hold (R519). -/
  | ask (fa : Nat)
  /-- A fault of step 0, 1 or 3 of R48 with its code, EXTRA, and whether it has an address. -/
  | bad (code : Byte) (extra : W32) (exact : Bool)
  deriving DecidableEq, Repr

/-- The fault of a failed fetch for a thread that was to execute `pc` (R48). -/
def fetchFault (code : Byte) (extra : W32) (exact : Bool) (pc : W64) : FaultInfo :=
  { preciseFault code extra pc with addr := if exact then some pc else none }

/-- The VF of a group; none on the firmware core in privileged mode. -/
def State.vfOf (s : State) (gr : Group) : Option Nat :=
  if gr.priv then none else (Store.find s.blocks gr.blk).map Block.vf

/-- The VF number under which a group's accesses and jobs stand. -/
def State.jobVf (s : State) (gr : Group) : Nat := (s.vfOf gr).getD fwVf

/-- The slice number under which a group's counters stand; 16 is the package counter of firmware (R530). -/
def State.sliceOf (s : State) (gr : Group) : Nat :=
  if gr.priv then 16 else match Store.find s.blocks gr.blk with | some b => b.slice | none => 0

/-- The 64 bytes of a line at its home: for a coherent page as the package holds them (R519). -/
def State.lineAtHome (s : State) (gr : Group) (t : Tr) : Fetched :=
  if t.coh then
    match s.tableLine (s.sliceOf gr) (s.jobVf gr) t.pa with
    | some l => .line (BitVec.ofNat 512 (leNat (l.slice_ t.pa 64)))
    | none => .ask t.pa
  else .line (BitVec.ofNat 512 (s.natFor (s.jobVf gr) t.pa 64))

/-- The address of a die's firmware code region. -/
def codeBase (d : Nat) : W64 := BitVec.ofNat 64 (256 * Config.codeBase d)

/-- The line at an address of the firmware code region of a group's die (R448, R479). -/
def State.codeLine (s : State) (gr : Group) (la : W64) : Option (BitVec 512) :=
  let code := (Store.get {} s.dies (gr.core / 49)).code
  if !gr.priv ∨ code = [] then none
  else
    let o := (la - codeBase (gr.core / 49)).toNat
    if o + 64 ≤ code.length then some (BitVec.ofNat 512 (leNat ((code.drop o).take 64))) else none

/-- Read the raw line that holds `pc`: a line the instruction path holds, one of the firmware code region, or step 0 of R48 and a read at the home (R51). -/
def State.rawLine (s : State) (gr : Group) (pc : W64) : State × Fetched :=
  let la := pc &&& ~~~63
  match (gr.ilines.find? (fun l => l.addr == la)).map ILine.data |>.orElse (fun _ => s.codeLine gr la) with
  | some d => (s, .line d)
  | none =>
    let r := s.translate gr.core (s.vfOf gr) la
    match r.2 with
    | .error x => (r.1, match x.ask with | some fa => .ask fa | none => .bad 0x10 x.extra true)
    | .ok t => if t.r then (r.1, r.1.lineAtHome gr t) else (r.1, .bad 0x11 0 true)

/-! ### Lines that a unit of the device asks the fabric for (R519) -/

/-- The key of a request: an issue number and a lane. -/
def reqKey (seq lane : Nat) : Nat := seq * 32 + lane

/-- The home of a line of a coherent page: the directory that the VF's route names (R201, R511). -/
def State.dirHome (s : State) (vf fa : Nat) : Nat := 0x200 + ((s.route vf fa).map Route.ndir).getD 0

/-- A request of a unit of the device for a coherent line. -/
def unitReq (s : State) (g vf : Nat) (kind : ReqKind) (va : W64) (fa : Nat) (bs : List Byte) (wit : W64) : Req :=
  { g := g, lane := 0, seq := s.nextSeq, kind := kind, sp := none, vf := vf, slice := (s.vf vf).slice, va := va, pa := fa,
    home := s.dirHome vf fa, coh := true, rchk := false, width := 3, bytes := max 1 bs.length,
    data := BitVec.ofNat 128 (leNat bs), wit := wit, wits := [wit], scope := 5, hint := 0, dst := noneSpec, pc := 0, issued := 0, fab := .unsent }

/-- Put a unit's request in flight. -/
def State.pushUnit (s : State) (r : Req) : State := { s with reqs := Store.put s.reqs (reqKey s.nextSeq 0) r, nextSeq := s.nextSeq + 1 }

/-- Has the unit a request in flight? -/
def State.unitBusy (s : State) (g : Nat) : Bool := s.reqs.any (fun e => e.2.g == g)

/-- Requests of a group for a line that it fetches, or that an instruction reads as it issues, carry this group number. -/
def grpG (g : Nat) : Nat := 2 ^ 44 + g

/-- Ask for a coherent line for a thread of a group, one at a time. -/
def State.askLine (s : State) (g : Nat) (gr : Group) (lane fa : Nat) : State :=
  if s.unitBusy (grpG g) then s else
    s.pushUnit { unitReq s (grpG g) (s.jobVf gr) .load 0 fa [] 0 with slice := s.sliceOf gr, lane := lane, pc := (gr.lane lane).pc }

/-- Hold a line in the group's instruction path, newest first, at most four. -/
def Group.hold (gr : Group) (pc : W64) (d : BitVec 512) : Group :=
  let la := pc &&& ~~~63
  { gr with ilines := ({ addr := la, data := d } :: gr.ilines.filter (fun l => l.addr != la)).take 4 }

/-- A fetch without a transfer: steps 0, 1 and 3 of R48. -/
def State.fetch (s : State) (gr : Group) (pc : W64) : State × Fetched :=
  let r := s.rawLine gr pc
  match r.2 with
  | .bad c x e => (r.1, .bad c x e)
  | .ask fa => (r.1, .ask fa)
  | .line d =>
    if !lineConsistent d then (r.1, .bad 0x02 0 false)
    else if !lineParity d then (r.1, .bad 0x02 1 false)
    else (r.1, .line d)

/-- What a transfer of control to an address meets (R48): all checks pass, step 2 fails, the target line faults, or it is a coherent line that
must come first. -/
inductive Entered where
  | ok (d : BitVec 512)
  | badTarget
  | ask (fa : Nat)
  | bad (code : Byte) (extra : W32) (exact : Bool)
  deriving DecidableEq, Repr

/-- Step 2 of R48; `rte` may also enter the second instruction of a pair (R50). -/
def targetOk (d : BitVec 512) (a : W64) (rte : Bool) : Bool :=
  let k := (a.extractLsb' 0 3).toNat
  a.extractLsb' 3 3 == 0 && decide (k ≤ 4) && (lineTgt d k || (rte && decide (0 < k) && linePair d (k - 1)))

/-- Fetch the target line of a transfer with the checks of R48 in order. -/
def State.enter (s : State) (gr : Group) (a : W64) (rte : Bool) : State × Entered :=
  let r := s.rawLine gr a
  match r.2 with
  | .bad c x e => (r.1, .bad c x e)
  | .ask fa => (r.1, .ask fa)
  | .line d =>
    if !lineConsistent d then (r.1, .bad 0x02 0 false)
    else if !targetOk d a rte then (r.1, .badTarget)
    else if !lineParity d then (r.1, .bad 0x02 1 false)
    else (r.1, .ok d)

/-- Entry to the trap handler (R262, R269): the parked threads are in their handler and run at TRAPVEC; a transfer that fails
a check there is a double fault. Their registers, stacks and records are left unchanged. -/
def State.enterHandler (s : State) (g : Nat) (gr : Group) : State :=
  let ps := gr.enterers
  let r := s.enter gr gr.trapvec false
  let inH : Nat → Lane → Lane := fun _ l =>
    { l with run := .running, inHandler := true, pc := gr.trapvec, wait := .none, exempt := false, served := gr.turnNo }
  let gr' := { gr.upd ps inH with latch := [], path := 0, mid := 0 }
  match r.2 with
  | .ok d => r.1.putGroup g (gr'.hold gr.trapvec d)
  | .badTarget => r.1.putGroup g (gr'.park ps (preciseFault 0x03 0 gr.trapvec))
  | .bad c x e => r.1.putGroup g (gr'.park ps (fetchFault c x e gr.trapvec))
  | .ask fa => r.1.askLine g gr (ps.headD 0) fa

/-- The threads wait at their instruction while the line at which they arrive is on its way (R519). -/
def State.awaitLine (s : State) (g : Nat) (gr : Group) (ps : List Nat) (fa : Nat) : State := (s.putGroup g (gr.stay ps .reply)).askLine g gr (ps.headD 0) fa

/-- Return from a handler in one thread (R279): every step of R48 is checked; the mark is cleared only when all pass. -/
def State.returnFrom (s : State) (g i : Nat) (pc target : W64) : State :=
  match s.group g with
  | none => s
  | some gr =>
    if (gr.lane i).inHandler then
      let r := s.enter gr target true
      match r.2 with
      | .ok d => r.1.putGroup g ((gr.hold target d).upd [i] (fun _ l => { l.goTo target with inHandler := false, exempt := true }))
      | .badTarget => r.1.putGroup g (gr.park [i] (preciseFault 0x03 0 pc))
      | .bad c x e => r.1.putGroup g ((gr.upd [i] (fun _ l => l.goTo target)).park [i] (fetchFault c x e target))
      | .ask fa => r.1.awaitLine g gr [i] fa
    else s.putGroup g (gr.park [i] (preciseFault 0x01 12 pc))

/-- A transfer of one thread to `target` (R48, R49): on a fault at the target the transfer has taken effect; `f` is what else the
transfer does to the thread (push or pop an entry, write a counter), and `bad` what a failed step 2 leaves, the park apart. -/
def State.transfer (s : State) (g i : Nat) (pc target : W64) (f : Lane → Lane) : State :=
  match s.group g with
  | none => s
  | some gr =>
    let r := s.enter gr target false
    match r.2 with
    | .ok d => r.1.putGroup g ((gr.hold target d).upd [i] (fun _ l => (f l).goTo target))
    | .badTarget => r.1.putGroup g (gr.park [i] (preciseFault 0x03 0 pc))
    | .bad c x e => r.1.putGroup g ((gr.upd [i] (fun _ l => (f l).goTo target)).park [i] (fetchFault c x e target))
    | .ask fa => r.1.awaitLine g gr [i] fa

/-- The J-format target (R55). -/
def jTarget (f : FmtJ) (pc : W64) : W64 := (pc &&& ~~~(63 : W64)) + (f.off.signExtend 64 <<< 6) + f.tslot.zeroExtend 64

/-- Every lane of a list, in lane order. -/
def State.eachLane (s : State) (ps : List Nat) (f : Nat → State → State) : State := ps.foldl (fun s i => f i s) s

/-! ### Blocks that end, groups that retire -/

/-- Has the block been stopped by R264? -/
def State.blockEnding (s : State) (b : Nat) : Bool :=
  s.groups.any (fun e => e.2.blk == b && e.2.lanes.any Lane.fatal)

/-- Has every thread of the group exited? -/
def Group.allExited (gr : Group) : Bool := gr.lanes.all (fun l => l.run == .exited)

/-- A group whose last thread has exited retires: it holds no active place (R298). -/
def State.retiring (s : State) (g : Nat) : State :=
  match s.group g with
  | none => s
  | some gr =>
    if gr.allExited && gr.st == .active then
      (s.putGroup g { gr with st := .retiring }).updCore gr.core (fun c => { c with active := c.active.filter (· != g) })
    else s

/-- Is a slice of the cluster being quiesced for a command that moves or exports its blocks (R464)? -/
def State.quiescing (s : State) (cl : Nat) : Bool :=
  match s.cmd with
  | some c => decide (0x27 ≤ c.op.toNat ∧ c.op.toNat ≤ 0x2A) && c.step == 3 &&
      ((s.slice c.sa).clusters.getLsbD cl || (c.op == 0x27 && (s.slice c.sb).clusters.getLsbD cl))
  | none => false

/-- Is the core halted, so that its queued operations and its streamer jobs rest (R460)? A recall lets them run (R463), and so does a quiesce:
they complete before their blocks move or are exported (R361, R464). -/
def State.coreStopped (s : State) (core : Nat) : Bool :=
  let cl := core / 49 * 12 + core % 49 / 4
  (s.core core).halted && !s.recalls.any (fun r => r.step == 2 && decide (r.cluster = cl)) && !s.quiescing cl

/-- Is another VF's time slice running on the VF's protected slice (R458)? A slice with one enabled VF runs it without exchanges. -/
def State.vfAway (s : State) (sl vf : Nat) : Bool :=
  (s.slice sl).prot && decide ((s.vf vf).local_ ≠ (s.slice sl).turnVf) &&
  decide (1 < (s.vfs.filter (fun e => e.2.enabled && e.2.slice == sl)).length)

/-- An event that the state does not enable. -/
def notEnabled (e : String) : Host.Outcome State Fault Refusal := .refused (.notEnabled e)

end Sys2Proof.Machine
end

