-- ==== Sys2Proof/Machine/Log.lean ====
section
/-! DEFINITION. The event masks of a die's firmware groups (R281), the error log (R429), and reads of HBM4E, whose failed checks it holds (R494, R496). -/

namespace Sys2Proof.Machine

/-- The firmware core of a die (R448). -/
def fwCore (d : Nat) : Nat := d * 49 + 48
/-- A die. -/
def State.die (s : State) (d : Nat) : Die := Store.get {} s.dies d
/-- Change a die. -/
def State.updDie (s : State) (d : Nat) (f : Die → Die) : State := { s with dies := Store.set {} s.dies d (f (s.die d)) }
/-- A command processor, by die × 4 + CP. -/
def State.cp (s : State) (c : Nat) : Cp := Store.get {} s.cps c
/-- Change a command processor. -/
def State.updCp (s : State) (c : Nat) (f : Cp → Cp) : State := { s with cps := Store.set {} s.cps c (f (s.cp c)) }
/-- Change a slice. -/
def State.updSlice (s : State) (i : Nat) (f : Slice → Slice) : State := { s with slices := Store.set {} s.slices i (f (s.slice i)) }
/-- Change a VF. -/
def State.updVf (s : State) (i : Nat) (f : Vf → Vf) : State := { s with vfs := Store.set {} s.vfs i (f (s.vf i)) }

/-! ### Firmware events (R281) -/

/-- A `halt` in which the group waits returns as soon as the group's event mask is not zero: it writes the mask and clears the bits it wrote. -/
def Group.haltReturn (gr : Group) : Group :=
  match gr.haltq with
  | none => gr
  | some h => if gr.events = 0 then gr else { gr.writeDst h.dst 1 [0] (fun _ => gr.events.zeroExtend 128) with haltq := none, events := 0 }

/-- An event of a die sets bits in the event mask of each of its firmware groups (log 156). -/
def State.setEvents (s : State) (d : Nat) (m : BitVec 5) : State :=
  { s with groups := s.groups.map (fun e =>
      (e.1, if e.2.priv && e.2.core == fwCore d then ({ e.2 with events := e.2.events ||| m } : Group).haltReturn else e.2)) }

/-! ### The error log (R429) -/

/-- Microseconds since die reset. -/
def State.micros (s : State) : Nat := s.time / 1600

/-- Write an entry to a die's error log: dropped when HEAD − TAIL is 64; a written one sets event bit 4. -/
def State.logErr (s : State) (d : Nat) (type : Byte) (unit vf addr : Nat) (data : W64) : State :=
  let x := s.die d
  if x.head - x.tail = 64 then s.updDie d (fun x => { x with dropped := x.dropped + 1 })
  else
    let e : LogEntry := { type := type, unit := unit, vf := vf, addr := addr, time := s.micros, data := data }
    (s.updDie d (fun x => { x with log := Store.put x.log (x.head.toNat % 64) e, head := x.head + 1 })).setEvents d 16

/-- The die of a channel, and its number on the die. -/
def chDie (ch : Nat) : Nat := ch / 96
def chUnit (ch : Nat) : Nat := ch % 96

/-- A corrected error: every multiple of 256 is logged (R429). -/
def State.corrected (s : State) (ch a : Nat) : State :=
  let n := (s.chan ch).ce + 1
  let s1 := s.updChan ch (fun c => { c with ce := n })
  if n.toNat % 256 = 0 then s1.logErr (chDie ch) 0x10 (chUnit ch) 0x1FF a 0 else s1

/-! ### Reads of HBM4E (R494, R496) -/

/-- A check of the tree fails at a level (R496): it is logged; a line's own four sectors are poisoned, and of a node every line that it covers, until their region
is initialised again. -/
def State.macFailed (s : State) (line level : Nat) : State :=
  match s.regionOfLine line with
  | none => s
  | some (_, sl, r, n) =>
    let pa := if level = 0 then 128 * line else nodeAt sl r level n
    let c := ((s.channelOf pa).map Prod.fst).getD 0
    let span := min 16384 (nodeSpan level)
    let s1 : State := if level = 0 then s.setPoison (128 * line) 128 true else { s with badNodes := (line - n % span, span) :: s.badNodes }
    s1.logErr (chDie c) 0x15 (chUnit c) r.vf pa (BitVec.ofNat 64 level)

/-- The node of a tree that stands at a device address: its level, and a line that it covers (R495). -/
def State.treeNode (s : State) (pa : Nat) : Option (Nat × Nat) :=
  s.regions.findSome? (fun e =>
    let sl := s.slice (e.1 / 2 ^ 32)
    let lo := sl.apbase + e.2.tree * 2 ^ 21 + 0x22280 * e.2.slot
    let o := (pa - lo) / 128
    let line (level k : Nat) : Nat × Nat := (level, (sl.apbase + e.1 % 2 ^ 32 * 2 ^ 21) / 128 + k * nodeSpan level)
    if e.2.kind ≠ 1 ∨ pa < lo ∨ lo + 0x22280 ≤ pa then none
    else if o < 0x400 then some (line 1 o) else if o < 0x440 then some (line 2 (o - 0x400)) else if o < 0x444 then some (line 3 (o - 0x440)) else some (line 4 0))

/-- A read of a device address from HBM4E is checked (R494); what covers a line that has failed already is not logged again. -/
def State.macCheck (s : State) (pa : Nat) : State :=
  match s.macFails (pa / 128) with
  | none => s
  | some l => if s.nodeBad pa 1 then s else s.macFailed (pa / 128) l

/-- A read of a sector at its home: from HBM4E it is checked (R410, R494). -/
def State.homeRead (s : State) (vf pa : Nat) (hint : BitVec 3) : State := if hostBase ≤ pa then s else (s.sectorRead vf pa hint).macCheck pa

/-- The device reads the sectors of a range (R410). -/
def State.readSectors (s : State) (vf pa n : Nat) (hint : BitVec 3) : State :=
  (List.range ((pa + n - 1) / 32 - pa / 32 + 1)).foldl (fun t i => t.homeRead vf ((pa / 32 + i) * 32) hint) s

end Sys2Proof.Machine
end

