-- ==== Sys2Proof/Machine/BarOps.lean ====
section
/-! DEFINITION. What barrier slots do when their counts change (R362–R365, R372, R373, R392), and the exit of threads (R196). -/

namespace Sys2Proof.Machine

/-- Groups of the block (R386). -/
def State.block (s : State) (b : Nat) : Option Block := Store.find s.blocks b

/-- Is the block co-operative: more than 1024 groups (R386)? -/
def State.coop (s : State) (b : Nat) : Bool :=
  match s.block b with
  | some x => decide (1024 < x.ngroups)
  | none => false

/-- The cluster of a core, die × 12 + cluster; 12 stands for core 48, which has none. -/
def clusterOf (core : Nat) : Nat := core / 49 * 13 + core % 49 / 4

/-- Where a group's slot number leads (R392). -/
def State.barKey (s : State) (gr : Group) (slot : Nat) : Nat :=
  if s.coop gr.blk ∧ 48 ≤ slot then 16384 + clusterOf gr.core * 16 + (slot - 48) else gr.core * 64 + slot

/-- The key at which a slot stands while its block is on its cores; the slots of a block whose image has left them keep it under a renamed
key (R375, R461, log 72). -/
def slotHome (key : Nat) : Nat := key % 262144

/-- Does the group participate in the slot held at `key` (R362, R363, R392)? -/
def BarSlot.covers (b : BarSlot) (key : Nat) (gr : Group) : Bool :=
  let k := slotHome key
  b.blk == gr.blk && decide (b.first ≤ gr.groupid) && decide (gr.groupid < b.first + b.ng) &&
  (if k < 16384 then gr.core == k / 64 else clusterOf gr.core == (k - 16384) / 16)

/-- Threads of the group that have not exited. -/
def Group.liveCount (gr : Group) : Nat := (gr.lanes.filter (fun l => l.run != .exited)).length

/-- LIVE as the states of the groups give it (R362). -/
def State.barLive (s : State) (b : BarSlot) (key : Nat) : Nat :=
  s.groups.foldl (fun n e => if b.covers key e.2 then n + e.2.liveCount else n) 0

/-- The status word (R372). -/
def barStatus (notheld broken : Bool) (phase : W16) : W32 :=
  phase.zeroExtend 32 ||| (if broken then 0x10000 else 0) ||| (if notheld then 0x20000 else 0)

/-- The status word of a barrier instruction reaches a vector destination. -/
def Lane.setBar (l : Lane) (b : BarWait) (w : W32) : Lane :=
  match Operand.ofSpec b.dst with
  | .vreg n => l.setReg n w
  | _ => l

/-- A thread leaves its barrier with a status word (R369, R370). -/
def Lane.leaveBar (l : Lane) (b : BarWait) (w : W32) : Lane :=
  { l.setBar b w with pc := nextPc l.pc, wait := .none, bar := none }

/-- The waits of a thread at barriers: the one it stands at, and those in which it parked. -/
def Lane.barWaits (l : Lane) : List BarWait := l.bar.toList ++ l.barLate

/-- The waits in which the thread parked and that `sel` gives a status complete (R267). -/
def Lane.leaveLate (l : Lane) (sel : BarWait → Option W32) : Lane :=
  { l.barLate.foldl (fun x b => match sel b with | some w => x.setBar b w | none => x) l with
    barLate := l.barLate.filter (fun b => (sel b).isNone) }

/-- Release the waiting threads of a group that `sel` gives a status; each waiting path's scalar destination is written (R369, R370). -/
def Group.leaveBars (gr : Group) (sel : BarWait → Option W32) : Group :=
  let gr' := gr.lanes.foldl (fun g l => l.barWaits.foldl (fun g b =>
    match sel b, Operand.ofSpec b.dst with | some w, .sreg n => g.setReg n w | _, _ => g) g) gr
  { gr' with lanes := gr'.lanes.map (fun l => match l.bar with
    | some b => (match sel b with | some w => (l.leaveLate sel).leaveBar b w | none => l.leaveLate sel)
    | none => l.leaveLate sel) }

/-- Release every thread of the slot's block that waits at the slot `key`, on its cores or pre-empted (R375), and that `sel` gives a status. -/
def State.leaveBars (s : State) (blk key : Nat) (sel : BarWait → Option W32) : State :=
  { s with groups := s.groups.map (fun e =>
      (e.1, if e.2.blk = blk then e.2.leaveBars (fun b => if s.barKey e.2 b.slot = slotHome key then sel b else none) else e.2)) }

/-- Has phase T completed when PHASE is p (R370)? -/
def phaseDone (p t : W16) : Bool := let d := (p - t).toNat; decide (1 ≤ d) && decide (d ≤ 32767)

/-- Test completion once (R364). -/
def State.testBar (s : State) (key : Nat) : State :=
  match Store.find s.bars key with
  | none => s
  | some b =>
    if b.live ≤ b.arrived ∧ b.eng ≤ b.engarr then
      let p := b.phase + 1
      ({ s with bars := Store.put s.bars key { b with phase := p, arrived := 0, engarr := b.engarr - b.eng } }).leaveBars b.blk key
        (fun w => match w.token with
          | none => some (barStatus false false b.phase)
          | some t => if phaseDone p t then some (barStatus false false t) else none)
    else s

/-- An event that changes a slot's counts, and the test after it. -/
def State.barEvent (s : State) (key : Nat) (f : BarSlot → BarSlot) : State :=
  ({ s with bars := Store.upd s.bars key f }).testBar key

/-- A witness arrival counts towards the open phase: ENGARR holds 8 bits (R362, log 111). -/
def BarSlot.witArrived (b : BarSlot) : BarSlot := { b with engarr := (b.engarr + 1) % 256 }

/-- `n` threads of a group exit: LIVE falls in every slot that counts them (R196, R364). -/
def State.barExit (s : State) (gr : Group) (n : Nat) : State :=
  ((s.bars.filter (fun e => e.2.covers e.1 gr)).map Prod.fst).foldl
    (fun s key => s.barEvent key (fun b => { b with live := b.live - n })) s

/-- Pending witness arrivals become orphans of the core (R371, R373). -/
def State.addOrphans (s : State) (core : Nat) (ws : List (Nat × W64)) : State :=
  s.updCore core (fun c => { c with orphans := c.orphans ++ ws })

/-- Free a slot: its waiters leave with BROKEN, its pending arrivals are dropped (R373). -/
def State.freeBar (s : State) (key core : Nat) : State :=
  match Store.find s.bars key with
  | none => s
  | some b =>
    ((({ s with bars := Store.del s.bars key }).leaveBars b.blk key (fun _ => some (barStatus false true b.phase)))).addOrphans core b.pend

/-- Threads exit (R196): they hold no region, their block's barriers count them no more, and the group retires with its last. -/
def State.exitLanes (s : State) (g : Nat) (ps : List Nat) : State :=
  match s.group g with
  | none => s
  | some gr =>
    let n := (ps.filter (fun i => (gr.lane i).run != .exited)).length
    let gr' := (gr.upd ps (fun _ l => { l with run := .exited, inHandler := false, wait := .none, bar := none, barLate := [] })).release
    ((s.putGroup g gr').barExit gr n).retiring g

end Sys2Proof.Machine
end

