-- ==== Sys2Proof/Machine/Wit.lean ====
section
/-! DEFINITION. Witnesses (R209–R214), frontiers (R210), stamps and counters (R235–R237). -/

namespace Sys2Proof.Machine

/-! ### The fields of a witness (R209) -/

def wKind (w : W64) : BitVec 2 := w.extractLsb' 62 2
def wScope (w : W64) : BitVec 3 := w.extractLsb' 59 3
def wGen (w : W64) : BitVec 4 := w.extractLsb' 55 4
def wHome (w : W64) : Nat := (w.extractLsb' 45 10).toNat
def wStamp (w : W64) : Nat := (w.extractLsb' 0 45).toNat
def wEngine (w : W64) : Nat := (w.extractLsb' 48 7).toNat
def wSlot (w : W64) : Nat := (w.extractLsb' 32 16).toNat
def wSeq (w : W64) : W32 := w.extractLsb' 0 32

/-- An exact witness (kind 1) or a joined one (kind 2). -/
def mkWit (kind : BitVec 2) (scope : BitVec 3) (gen : BitVec 4) (home stamp : Nat) : W64 :=
  kind ++ scope ++ gen ++ BitVec.ofNat 10 home ++ BitVec.ofNat 45 stamp

/-- A future (R209). -/
def mkFuture (scope : BitVec 3) (gen : BitVec 4) (engine slot : Nat) (seq : W32) : W64 :=
  (3 : BitVec 2) ++ scope ++ gen ++ BitVec.ofNat 7 engine ++ BitVec.ofNat 16 slot ++ seq

/-! ### Homes and scopes (R201, R210) -/

/-- The scratchpad home of a core. -/
def spHome (core : Nat) : Nat := 0xC0 + core
/-- Is the id one of R201's homes? -/
def isHome (h : Nat) : Bool := decide (h < 0x184) || (decide (0x200 ≤ h) && decide (h ≤ 0x300))
/-- Scratchpad home of a core 48, the firmware cores. -/
def isFwHome (h : Nat) : Bool := decide (0xC0 ≤ h) && decide (h < 0x184) && (h - 0xC0) % 49 == 48

/-- Directory homes that a slice uses: the nodes its VFs' routes name. -/
def State.dirsOf (s : State) (sl : Nat) : List Nat :=
  ((s.fab.routes.filter (fun r => (s.vf r.vf).slice == sl)).map (fun r => 0x200 + r.ndir)).dedup

/-- L2 banks of a die; scratchpad homes of a die. -/
def banksOf (d : Nat) : List Nat := (List.range 48).map (fun b => d * 48 + b)
def spHomesOf (d : Nat) : List Nat := (List.range 49).map (fun c => spHome (d * 49 + c))
/-- The four cores of a core's cluster; core 48 stands alone. -/
def clusterCores (core : Nat) : List Nat :=
  if core % 49 = 48 then [core] else (List.range 4).map (fun b => core / 49 * 49 + core % 49 / 4 * 4 + b)

/-- The homes of a scope's set for a group on the core (R210). -/
def State.scopeHomes (s : State) (sl core : Nat) (sc : BitVec 3) : List Nat :=
  let d := core / 49
  let pk := (List.range 4).flatMap (fun d => spHomesOf d ++ banksOf d)
  match sc.toNat with
  | 0 => spHome core :: banksOf d
  | 1 => spHome core :: banksOf d
  | 2 => spHome core :: banksOf d
  | 3 => (clusterCores core).map spHome ++ banksOf d
  | 4 => spHomesOf d ++ banksOf d
  | 5 => pk
  | 6 => pk ++ s.dirsOf sl
  | _ => pk ++ s.dirsOf sl ++ [hostHome]

/-- The current generation (R41, R530). -/
def State.genOf (s : State) (sl : Nat) : BitVec 4 := if sl = 16 then s.pkgGen else (s.slice sl).gen

/-- A home's own counter. -/
def State.counter (s : State) (sl home : Nat) : Nat :=
  if 0x200 ≤ home ∧ home < 0x300 then Store.get 0 s.fab.heard (home - 0x200) - Store.get 0 s.fab.base sl else Store.get 0 s.ctr (sl * 1024 + home)
/-- The counter a receiver has heard. -/
def State.heardAt (s : State) (rcv sl home : Nat) : Nat := Store.get 0 s.heard (rcv * 32768 + sl * 1024 + home)

/-- WGEN at a core (R41, R415): the next generation once the core has heard the generation message of the renewal. -/
def State.genAt (s : State) (core sl : Nat) : BitVec 4 := if s.genHeard.contains (core * 32 + sl) then s.genOf sl + 1 else s.genOf sl

/-- The frontier of a scope at a core (R210). -/
def State.frontier (s : State) (sl core : Nat) (sc : BitVec 3) : Nat :=
  match (s.scopeHomes sl core sc).map (s.heardAt core sl) with
  | [] => 0
  | x :: xs => xs.foldl min x

/-- The highest counter of a slice that a receiver has heard. -/
def State.highest (s : State) (rcv sl : Nat) : Nat :=
  s.heard.foldl (fun m e => if e.1 / 32768 = rcv ∧ e.1 % 32768 / 1024 = sl then max m e.2 else m) 0

/-- Cover(h) of R210: the narrowest scope whose set holds h. -/
def State.cover (s : State) (sl core h : Nat) : BitVec 3 :=
  if (s.scopeHomes sl core 0).contains h then 0
  else if (s.scopeHomes sl core 3).contains h then 3
  else if (s.scopeHomes sl core 4).contains h then 4
  else if (s.scopeHomes sl core 5).contains h then 5
  else if (s.scopeHomes sl core 6).contains h then 6
  else 7

/-! ### Satisfied (R211) -/

/-- What judging a witness answers: `false` is `no`. -/
inductive Sat where
  | yes
  | no
  | future
  | stale
  deriving DecidableEq, Repr

/-- d of R211. -/
def genAge (g : BitVec 4) (w : W64) : Nat := (g - wGen w).toNat

/-- Satisfied for a witness that is no future (R211); `ask` asks the home for an exact witness. -/
def State.satPlain (s : State) (sl core : Nat) (ask : Bool) (w : W64) : Sat :=
  let d := genAge (s.genAt core sl) w
  if wKind w = 0 then .yes
  else if 8 ≤ d then .stale
  else if 1 ≤ d then .yes
  else if wKind w = 1 then
    if !isHome (wHome w) then .future
    else if isFwHome (wHome w) && wHome w != spHome core then .future
    else if wStamp w ≤ s.heardAt core sl (wHome w) then .yes
    else if !ask then .no
    else if wStamp w ≤ s.counter sl (wHome w) then .yes
    else .future
  else
    if wHome w ≠ 0x3FF then .future
    else if wStamp w ≤ s.frontier sl core (wScope w) then .yes
    else if s.highest core sl + 2 ^ 24 < wStamp w then .future
    else .no

/-- Does ENGINE, SLOT name a job slot (R328)? -/
def isSlot (engine slot : Nat) : Bool :=
  if engine < 96 then decide (slot < 4096) else decide (engine < 100) && decide (slot / 1024 < 49) && decide (slot % 1024 < 256)

/-- The slot of a future. -/
def slotKey (engine slot : Nat) : Nat := engine * 65536 + slot

/-- Where a future stands: rejected, its job not complete, or the stand-in (R211). -/
inductive Fut where
  | bad
  | open_
  | standIn (w : W64)
  deriving DecidableEq, Repr

/-- The slice of a VF; 16 stands for the package counter of firmware (R530). -/
def State.vfSlice (s : State) (v : Nat) : Nat := if v = fwVf then 16 else (s.vf v).slice

/-- Judge a future by its slot (R211), for a group of the VF. -/
def State.future (s : State) (vf : Option Nat) (w : W64) : Fut :=
  if !isSlot (wEngine w) (wSlot w) then .bad
  else
    match Store.find s.slots (slotKey (wEngine w) (wSlot w)) with
    | none => .bad
    | some j =>
      if some j.vf ≠ vf then .bad
      else
        let e := (j.seq - wSeq w).toNat
        if 2 ^ 31 ≤ e then .bad
        else if 1 ≤ e then .standIn (Store.get 0 j.retire (s.vfSlice j.vf))
        else match j.comp with
          | some c => .standIn c
          | none => .open_

/-- Satisfied(w) at a group (R211). -/
def State.sat (s : State) (gr : Group) (ask : Bool) (w : W64) : Sat :=
  let sl := s.sliceOf gr
  if wKind w = 3 then
    if 8 ≤ genAge (s.genAt gr.core sl) w then .stale
    else match s.future (some (s.jobVf gr)) w with
      | .bad => .future
      | .open_ => .no
      | .standIn c => s.satPlain sl gr.core ask c
  else s.satPlain sl gr.core ask w

/-- The stand-in of a future, the witness itself otherwise. -/
def State.standIn (s : State) (gr : Group) (w : W64) : W64 :=
  if wKind w = 3 then (match s.future (some (s.jobVf gr)) w with | .standIn c => c | _ => 0) else w

/-- The code of a rejected witness (R214): WFUTURE or WSTALE. -/
def Sat.fault? : Sat → Option Byte
  | .future => some 0x15
  | .stale => some 0x16
  | _ => none

/-! ### Join (R213) -/

/-- What Join answers. -/
inductive Joined where
  | wait
  | fault (code : Byte)
  | ok (w : W64)
  deriving DecidableEq, Repr

/-- One operand of Join made plain: a future replaced, an earlier generation made null. -/
def State.joinArg (s : State) (gr : Group) (w : W64) : Joined :=
  let st := if wKind w = 3 then s.sat gr true w else .yes
  match st with
  | .no => .wait
  | .future => .fault 0x15
  | .stale => .fault 0x16
  | .yes =>
    let x := s.standIn gr w
    let d := genAge (s.genAt gr.core (s.sliceOf gr)) x
    if wKind x = 0 then .ok 0
    else if 8 ≤ d then .fault 0x16
    else if 1 ≤ d then .ok 0
    else .ok x

/-- Join of two plain witnesses of the current generation, or null (R213). -/
def State.join2 (s : State) (sl core : Nat) (a b : W64) : W64 :=
  if wKind a = 0 then b
  else if wKind b = 0 then a
  else
    let mx (x y : BitVec 3) : BitVec 3 := if x.toNat < y.toNat then y else x
    let ca := if wKind a = 1 then s.cover sl core (wHome a) else 0
    let cb := if wKind b = 1 then s.cover sl core (wHome b) else 0
    let sc := mx (mx (wScope a) (wScope b)) (mx ca cb)
    let st := max (wStamp a) (wStamp b)
    if wKind a = 1 ∧ wKind b = 1 ∧ wHome a = wHome b then mkWit 1 sc (s.genAt core sl) (wHome a) st
    else mkWit 2 sc (s.genAt core sl) 0x3FF st

/-- Join(a, b) at a group (R213). -/
def State.join (s : State) (gr : Group) (a b : W64) : Joined :=
  match s.joinArg gr a, s.joinArg gr b with
  | .fault c, _ => .fault c
  | _, .fault c => .fault c
  | .wait, _ => .wait
  | _, .wait => .wait
  | .ok x, .ok y => .ok (s.join2 (s.sliceOf gr) gr.core x y)

/-- The null witness that OBS holds at group start and after a renewal: KIND 0, GEN current (R40). -/
def nullObs (gen : BitVec 4) : W64 := gen.zeroExtend 64 <<< 55

/-- A presented witness joined into OBS as its access proceeds (R40, R214). -/
def State.observe (s : State) (gr : Group) (w : W64) : Group :=
  match s.joinArg gr w, s.joinArg gr gr.obs with
  | .ok x, .ok y => if x = 0 then gr else { gr with obs := s.join2 (s.sliceOf gr) gr.core x y }
  | _, _ => gr

/-- The Join of the witnesses of a group's writes (R250). -/
def State.noteWrite (s : State) (gr : Group) (w : W64) : Group :=
  match s.joinArg gr w, s.joinArg gr gr.writes with
  | .ok x, .ok y => { gr with writes := s.join2 (s.sliceOf gr) gr.core x y }
  | _, _ => { gr with writes := w }

/-! ### Stamps (R236) -/

/-- Receiver number of a home. -/
def homeRcv (home : Nat) : Nat := 256 + home

/-- P of R236: the stamp of the presented witness, or its stand-in, in the current generation. -/
def State.presentedStamp (s : State) (sl : Nat) (w : W64) : Nat :=
  if wKind w = 0 ∨ wKind w = 3 then 0
  else if genAge (s.genOf sl) w = 0 then wStamp w else 0

/-- A commit at a home takes the next stamp (R236). -/
def State.stamp (s : State) (sl home p : Nat) : State × Nat :=
  let n := max (s.counter sl home) (max (s.highest (homeRcv home) sl) p) + 1
  ({ s with ctr := Store.set 0 s.ctr (sl * 1024 + home) n }, n)

/-- Covers(W, h, s) of R240 for a write of the current generation. -/
def State.covers (s : State) (sl core : Nat) (w : W64) (home stamp : Nat) : Bool :=
  if genAge (s.genOf sl) w ≠ 0 then false
  else if wKind w = 1 then wHome w == home && decide (stamp ≤ wStamp w)
  else if wKind w = 2 then decide (stamp ≤ wStamp w) && (s.scopeHomes sl core (wScope w)).contains home
  else false

end Sys2Proof.Machine
end

