-- ==== Sys2Proof/Machine/Access.lean ====
section
/-! DEFINITION. Accesses to global memory and scratchpad: issuing one (R200, R214–R218), and performing a pending one
(R205–R208, R219–R227, R235–R245, R317, R323, R324), with poison (R426, R335), the race detector (R255–R259) and watches (R377, R378). -/

namespace Sys2Proof.Machine

/-! ### Delivering results (R217) -/

/-- Wake the threads that wait for a reply. -/
def Group.wake (gr : Group) (w : WaitFor) : Group :=
  { gr with lanes := gr.lanes.map (fun l => if l.wait = w then { l with wait := .none } else l) }

/-- The accesses that still bring a register's value once `key` is no longer awaited: of those that named it the latest first, an earlier one
than a result that has arrived no longer stands (R217). -/
def pendAfter (p : Store (List Nat)) (n : Nat) (ks : List Nat) : Store (List Nat) := Store.set [] p n ks

/-- Write the registers from `b` whose value the access `key` still brings: accesses that issued later bring theirs yet (R217). -/
def Lane.deliver (l : Lane) (key b : Nat) : Nat → W128 → Lane
  | 0, _ => l
  | n + 1, x =>
    let ks := Store.get [] l.pend b
    let l' : Lane := if ks.contains key
      then { l with v := Store.set 0 l.v b (x.extractLsb' 0 32), pend := pendAfter l.pend b (ks.takeWhile (· != key)) } else l
    Lane.deliver l' key (b + 1) n (x >>> 32)

/-- As `Lane.deliver`, for scalar registers. -/
def Group.deliverS (gr : Group) (key b : Nat) : Nat → W128 → Group
  | 0, _ => gr
  | n + 1, x =>
    let ks := Store.get [] gr.spend b
    let g' : Group := if ks.contains key
      then { gr with s := Store.set 0 gr.s b (x.extractLsb' 0 32), spend := pendAfter gr.spend b (ks.takeWhile (· != key)) } else gr
    Group.deliverS g' key (b + 1) n (x >>> 32)

/-- The scoreboard without an access. -/
def dropPend (p : Store (List Nat)) (key : Nat) : Store (List Nat) :=
  (p.map (fun e => (e.1, e.2.filter (· != key)))).filter (fun e => e.2 != [])

/-- Release the scoreboard entries of an access that writes nothing: a result of an earlier one for the register is still to come. -/
def Group.unpend (gr : Group) (key : Nat) : Group :=
  { gr with spend := dropPend gr.spend key, lanes := gr.lanes.map (fun l => { l with pend := dropPend l.pend key }) }

/-- Deliver a result to a destination of `n` registers. -/
def Group.deliver (gr : Group) (key lane : Nat) (dst : BitVec 10) (n : Nat) (x : W128) : Group :=
  let g' := match Operand.ofSpec dst with
    | .vreg b => gr.upd [lane] (fun _ l => l.deliver key b n x)
    | .sreg b => gr.deliverS key b n x
    | _ => gr
  (g'.unpend key).wake .reply

/-- An access brings the values of `n` registers from `b`. -/
def addPend (p : Store (List Nat)) (key b n : Nat) : Store (List Nat) :=
  (List.range n).foldl (fun p k => Store.put p (b + k) (key :: Store.get [] p (b + k))) p

/-- Mark `n` registers of a destination as still to come (R217). -/
def Group.pending (gr : Group) (key lane : Nat) (dst : BitVec 10) (n : Nat) : Group :=
  match Operand.ofSpec dst with
  | .vreg b => gr.upd [lane] (fun _ l => { l with pend := addPend l.pend key b n })
  | .sreg b => { gr with spend := addPend gr.spend key b n }
  | _ => gr

/-- An imprecise fault of a thread (R267): RESUME is its first instruction not yet issued, SKID what it has issued since. -/
def Lane.late (l : Lane) (code : Byte) (extra : W32) (pc : W64) (addr : Option W64) (issued : Nat) : FaultInfo :=
  let held := l.bar.isSome || (match l.wait with | .gang | .drain _ => true | _ => false)
  let res := if l.run = .waiting ∨ held then nextPc l.pc else l.pc
  { code := code, extra := extra, pc := pc, resume := res, addr := addr, imprecise := true, skid := BitVec.ofNat 8 (min 255 (l.issued - issued)) }

/-- A thread that has not exited parks with an imprecise fault. -/
def Lane.imprecise (l : Lane) (i : Nat) (tv : W64) (code : Byte) (extra : W32) (pc : W64) (addr : Option W64) (issued : Nat) : Lane :=
  if l.run = .exited then l else l.park i tv (l.late code extra pc addr issued)

/-! ### Scratchpad shares (R314, R387) -/

/-- Share i of a block. -/
def State.share (s : State) (b i : Nat) : Option Share :=
  match s.block b with
  | some x => x.shares[i]?
  | none => none

/-- Change a share. -/
def State.updShare (s : State) (b i : Nat) (f : Share → Share) : State :=
  { s with blocks := Store.upd s.blocks b (fun x => { x with shares := x.shares.modify i f }) }

/-- The index of the block's share on a core. -/
def Block.shareOn (x : Block) (core : Nat) : Option Nat := x.shares.findIdx? (fun sh => sh.core == core)

/-- Bytes of a share. -/
def Share.bytes (sh : Share) (a : Nat) : Nat → List Byte
  | 0 => []
  | n + 1 => Store.get 0 sh.mem a :: sh.bytes (a + 1) n

/-- Write bytes: they clear the poison of exactly the bytes written (R335). -/
def Share.write (sh : Share) (a : Nat) : List Byte → Share
  | [] => sh
  | b :: bs => Share.write { sh with mem := Store.set 0 sh.mem a b, poison := Store.del sh.poison a } (a + 1) bs

/-- Line state (R317). -/
def Share.line (sh : Share) (k : Nat) : SpLine := Store.get {} sh.lines k
/-- A write commits in the lines it touches: W becomes 1 (R318). -/
def Share.wrote (sh : Share) (a n : Nat) : Share :=
  { sh with lines := (List.range (n / 128 + 2)).foldl (fun ls i =>
      let k := a / 128 + i
      if 128 * k < a + n then Store.set {} ls k { sh.line k with w := true } else ls) sh.lines }

/-! ### Commits at a home (R235, R236, R410) -/

/-- Deliver a home-watch notice to a group: its lowest running or waiting thread parks with WATCH (R378); with no such thread, or while the group
is pre-empted, the notice waits, and nothing of the group issues meanwhile: SKID is 0 (log 113). -/
def Group.watchNotice (gr : Group) (n cls : Nat) (line : W64) : Group :=
  match (List.range 32).find? (fun i => (gr.lane i).run == .running || (gr.lane i).run == .waiting) with
  | some i =>
    if gr.st == .preempted then { gr with notices := gr.notices ++ [(n, cls, line)] }
    else gr.upd [i] (fun i l => l.imprecise i gr.trapvec 0x18 (BitVec.ofNat 32 (n + 16 * cls + 0x30000)) l.pc (some line) l.issued)
  | none => { gr with notices := gr.notices ++ [(n, cls, line)] }

/-- The virtual address of the line that a WATCHn value names: bits 63:57 equal bit 56 (R200, R376). -/
def watchLine (v : W64) : W64 := (v.extractLsb' 7 50).signExtend 64 <<< 7

/-- A write committed at an L2 bank disarms the home watches on its line (R378). -/
def Group.hitWatches (gr : Group) (line cls : Nat) : Group :=
  (gr.hwatch.filter (fun e => decide (e.1 < 4) && e.2 == line)).foldl (fun g e =>
    let w := g.watch.getD e.1 0
    let va := watchLine w
    ({ g with hwatch := Store.del g.hwatch e.1, watch := g.watch.set e.1 (w &&& 0x37FFFFFFFFFFFFFF) }).watchNotice e.1 cls va) gr

/-- The access codes of R13. -/
inductive AccCode where
  | rw
  | ro
  | fw
  | hm
  deriving DecidableEq, Repr

/-- The access code of a byte of the tables at SLTBASE (R454, R469, R489, R493, R503, R511, R516, R517) and of the command processors' tables
(R432); any other byte is plain memory. -/
def State.tableCode (s : State) (a : Nat) : AccCode :=
  let o := a - s.sltbase
  let cp := s.cps.any (fun e =>
    (decide (e.2.qtbase.toNat ≤ a) && decide (a < e.2.qtbase.toNat + 32 * e.2.nq)) ||
    (decide (0 < e.2.nq) && decide (e.2.vtbase.toNat ≤ a) && decide (a < e.2.vtbase.toNat + 16 * 24)))
  if cp then .hm
  else if a < s.sltbase then .rw
  else if o < 0x400 then .ro
  else if o < 0x6400 then (let b := o % 64; if b = 0x1E ∨ (0x20 ≤ b ∧ b < 0x30) then .ro else .hm)
  else if o < 0xC400 then (if o % 64 < 56 then .fw else .ro)
  else if o < 0x12400 then .fw
  else if o < 0x14400 then .rw
  else if o < 0x15000 then .ro
  else if o < 0x16000 then .hm
  else if o < 0x17000 then .ro
  else if o < 0x20000 then .rw
  else if o < 0x80000 then .hm
  else if o < 0x8C000 then (if 2 ≤ o % 8 ∧ o % 8 < 6 then .ro else .hm)
  else if 0x1000000 ≤ o ∧ o < 0x1000000 + 16 * 0x240000 then .hm
  else .rw

/-- What a write by `who` puts at an address: a byte that the code withholds from the writer keeps its value (R13). -/
def State.granted (s : State) (who : AccCode) (a : Nat) (bs : List Byte) : List Byte :=
  (List.range bs.length).map (fun i =>
    let c := s.tableCode (a + i)
    if c = .rw ∨ c = who then bs.getD i 0 else s.byte (a + i))

/-- The bytes of a write at a home: of a firmware group (class 0, VF 511) or the host (class 3) they are written as they lie in memory, where the
tables' access codes let it; anyone else holds the key of the page (R13, R492). -/
def State.putBytes (s : State) (vf pa : Nat) (bs : List Byte) (cls : Nat) : State :=
  if cls = 3 then s.writeBy none pa (s.granted .hm pa bs)
  else if cls = 0 ∧ vf = fwVf then s.writeBy none pa (s.granted .fw pa bs)
  else s.writeBytes pa bs

/-- The layout generation advances, and the interface status page shows it (R480, R503). -/
def State.bumpLayout (s : State) : State :=
  let g := s.sec.layoutgen + 1
  let a := s.sltbase + 0x14400
  let s1 : State := { s with sec := { s.sec with layoutgen := g } }
  if s.backed a && !s.partPoison a 8 then (((s1.stamp 16 (s1.homeOf a) 0).1).writeBytes a (leBytes 8 g.toNat)).l2Write fwVf a 8 0 else s1

/-- Commit `n` bytes, which `put` writes, at the home of a physical address under a slice's counter (R236); `cls` is the writer class of R378.
The stamp is answered. -/
def State.commitBy (s : State) (put : State → State) (sl vf pa n p : Nat) (hint : BitVec 3) (cls : Nat) : State × Nat :=
  let home := s.homeOf pa
  let r := (if pa % 32 = 0 ∧ n % 32 = 0 then s else s.macCheck pa).stamp sl home p
  let t := r.1.tstates pa n
  let w := put r.1
  let s1 := (if w.tstates pa n = t then w else w.bumpLayout).l2Write vf pa n hint
  let s2 := if home < 0xC0 then { s1 with groups := s1.groups.map (fun e => (e.1, e.2.hitWatches (pa / 128) cls)) } else s1
  (s2, r.2)

/-- Commit bytes as a writer of a class puts them (R13, R236, R492). -/
def State.commitGlobal (s : State) (sl vf pa : Nat) (bs : List Byte) (p : Nat) (hint : BitVec 3) (cls : Nat) : State × Nat :=
  s.commitBy (fun t => t.putBytes vf pa bs cls) sl vf pa bs.length p hint cls

/-- Commit bytes in a scratchpad share (R318, R323). -/
def State.commitShare (s : State) (sl b i a : Nat) (bs : List Byte) (p : Nat) : State × Nat :=
  match s.share b i with
  | none => (s, 0)
  | some sh =>
    let r := s.stamp sl (spHome sh.core) p
    (r.1.updShare b i (fun sh => (sh.write a bs).wrote a bs.length), r.2)

/-! ### L1 (R202–R204) -/

/-- The L1 line of a core. -/
def State.l1Find (s : State) (core vf : Nat) (coh : Bool) (line : Nat) : Option L1Line :=
  s.l1.find? (fun l => l.core == core && l.vf == vf && l.coh == coh && l.line == line)

/-- A store invalidates the written sector in the storing core's L1 (R204). -/
def State.l1Drop (s : State) (core pa : Nat) (coh : Bool) : State :=
  { s with l1 := s.l1.map (fun l =>
      if l.core = core ∧ l.line = pa / 128 ∧ l.coh = coh then { l with valid := l.valid &&& ~~~((1 : BitVec 4) <<< (pa / 32 % 4)) } else l) }

/-- Does an L1 line cover a presented witness (R202)? -/
def L1Line.covers (l : L1Line) (w : W64) : Bool :=
  if wKind w = 0 then true
  else if wKind w = 1 then wHome w == l.home && decide (wStamp w ≤ l.ctr)
  else if wKind w = 2 then decide ((wScope w).toNat ≤ 5) && decide (wStamp w ≤ l.fr)
  else false

/-- The 128 bytes of the line that holds an address, at its home. -/
def State.lineBytes (s : State) (sl vf pa : Nat) (coh : Bool) : List Byte :=
  if coh then ((s.fabLine sl vf pa).map FabLine.data).getD [] else s.bytes (pa / 128 * 128) 128

/-- Has a group of the core a write of the sector in flight? A fill would be older than that write (R204, R243). -/
def State.writeAhead (s : State) (core sec : Nat) (coh : Bool) : Bool :=
  s.reqs.any (fun e => e.2.kind != .load && e.2.sp.isNone && e.2.coh == coh && e.2.pa / 32 == sec &&
    (match s.group e.2.g with | some gr => gr.core == core | none => false))

/-- Keep the `n` newest L1 lines of a core. -/
def l1Trim (core : Nat) : Nat → List L1Line → List L1Line
  | _, [] => []
  | n, l :: ls => if l.core = core then (if n = 0 then l1Trim core 0 ls else l :: l1Trim core (n - 1) ls) else l :: l1Trim core n ls

/-- Lines of a core's L1: 512 KiB of 128 bytes (R1). -/
def l1Lines : Nat := 4096

/-- Fill sectors of a line, as its home holds them, into a core's L1 with the counter and the .pk frontier heard (R202, R238): not those that are
poisoned or that the core is about to write. The line filled longest ago gives its place (log 112). -/
def State.l1Put (s : State) (core vf sl pa : Nat) (coh : Bool) (home : Nat) (want : BitVec 4) : State :=
  let k := pa / 128
  let valid : BitVec 4 := (List.range 4).foldl (fun v i =>
    if want.getLsbD i && !(!coh && s.poisoned (128 * k + 32 * i) 32) && !s.writeAhead core (4 * k + i) coh then v ||| (1 <<< i) else v) 0
  let new : L1Line := { core := core, vf := vf, line := k, coh := coh, slice := sl, data := s.lineBytes sl vf pa coh, valid := valid, home := home,
                        ctr := s.heardAt core sl home, fr := s.frontier sl core 5 }
  { s with l1 := l1Trim core l1Lines (new :: s.l1.filter (fun l => !(l.core == core && l.vf == vf && l.coh == coh && l.line == k))) }

/-! ### The race detector (R255–R259) -/

/-- Requests for shadow words, and for a VF's race log, carry this group number with the number of the VF. -/
def shadowG (vf : Nat) : Nat := 2 ^ 45 + vf

/-- Does the detector check the access: a race-check page in a slice that logs or traps? -/
def State.racing (s : State) (sl : Nat) (rchk : Bool) : Bool := rchk && sl != 16 && (s.slice sl).race != 0

/-- Is the slice's stamp space being renewed, so that stores and atomics stall (R239)? -/
def State.stalled (s : State) (sl : Nat) : Bool := if sl = 16 then s.pkgRenewing else (s.slice sl).renewing

/-- What the device writes at a physical address while its slice's commits stall commits when they resume: it waits in flight, eight bytes at a
time (R239, R415). -/
def State.writeLater (s : State) (g sl vf pa : Nat) (bs : List Byte) : State :=
  (List.range ((bs.length + 7) / 8)).foldl (fun t k =>
    let a := pa + 8 * k
    t.pushUnit { unitReq t g vf .store 0 a ((bs.drop (8 * k)).take 8) 0 with slice := sl, coh := false, home := t.homeOf a }) s

/-- A VF row in device or host memory (R454). -/
def State.vfRowAt (s : State) (vf : Nat) : Nat := s.sltbase + 0x400 + 64 * vf

/-- Change a VF's RLOGHEAD, RDROP or SHMISS, which its row shows (R454). -/
def State.countRace (s : State) (vf : Nat) (f : Vf → Vf) : State :=
  let v := f (s.vf vf)
  let s1 : State := { s with vfs := Store.set {} s.vfs vf v }
  let a := s.vfRowAt vf + 0x20
  let bs := leBytes 8 v.rloghead.toNat ++ leBytes 4 v.rdrop.toNat ++ leBytes 4 v.shmiss.toNat
  if !s.backed a then s1
  else if s.stalled v.slice then s1.writeLater (shadowG vf) v.slice vf a bs
  else if s.partPoison a 16 then s1
  else (s1.commitBy (fun t => t.writeBytes a bs) v.slice fwVf a 16 0 0 1).1

/-- Append a race record to the VF's log (R258). -/
def State.raceLog (s : State) (vf : Nat) (rec : List Byte) : State :=
  let v := s.vf vf
  if v.rloghead.toNat < v.rlogn then
    let a := v.rlog + 32 * v.rloghead.toNat
    (if s.stalled v.slice then s.writeLater (shadowG vf) v.slice vf a rec else (s.commitGlobal v.slice vf a rec 0 0 1).1).countRace vf
      (fun x => { x with rloghead := v.rloghead + 1 })
  else s.countRace vf (fun x => { x with rdrop := v.rdrop + 1 })

/-- The 32 bytes of a fault record (R260). -/
def FaultRec.bytes (f : FaultRec) : List Byte :=
  [f.code, f.lane, f.flags, f.skid] ++ leBytes 4 f.extra.toNat ++ leBytes 8 f.pc.toNat ++ leBytes 8 f.addr.toNat ++ leBytes 8 f.resume.toNat

/-- The virtual address of the shadow word of a sector (R255). -/
def State.shadowVa (s : State) (vf : Nat) (va : W64) : W64 := (s.vf vf).shbase + ((va >>> 5) <<< 3)

/-- The coherent line that holds a sector's shadow word, or an entry of its translation, when the package does not hold it: the access waits for
it (R255, R519). -/
def State.shadowAsk (s : State) (vf sl core : Nat) (va : W64) (rchk : Bool) : Option Nat :=
  if !s.racing sl rchk then none
  else
    match (s.translate core (some vf) (s.shadowVa vf va)).2 with
    | .error x => x.ask
    | .ok t => if t.coh && (s.unitLine (shadowG vf) sl vf t.pa).isNone then some t.pa else none

/-- The copy of a coherent line takes bytes at once. -/
def State.copyPut (s : State) (sl vf fa : Nat) (bs : List Byte) : State :=
  { s with fab := { s.fab with lines := s.fab.lines.map (fun l =>
      if l.slice = sl ∧ l.vf = vf ∧ l.fa = fa / 128 * 128 then { l with data := setBytes l.data (fa % 128) bs } else l) } }

/-- Write a shadow word: ordinary memory of the VF (R255). On a coherent page the package's copy takes it with the commit of the access (R257), and
the write goes on to the directory (R519). -/
def State.shadowPut (s : State) (vf sl : Nat) (sva : W64) (t : Tr) (v : W64) : State :=
  if t.coh then
    (s.copyPut sl vf t.pa (leBytes 8 v.toNat)).pushUnit { unitReq s (shadowG vf) vf .store sva t.pa (leBytes 8 v.toNat) 0 with slice := sl }
  else (s.commitGlobal sl vf t.pa (leBytes 8 v.toNat) 0 0 1).1

/-- The shadow word's check (R257): `obs` and `tag` of the accessor; the new shadow word when the access wrote with `stamp`. WGEN is the
generation of slice `sl`, or of `gens`, that of the package, for an access through Nymlink (R530). Answers EXTRA when there is a conflict. -/
def State.raceCheck (s : State) (vf sl core : Nat) (obs : W64) (tag : BitVec 12) (va : W64) (home : Nat) (atomic : Bool)
    (wrote : Option (BitVec 3 × Nat)) (gens : Nat := sl) : State × Option W32 :=
  let sva := s.shadowVa vf va
  let q := s.translate core (some vf) sva
  match q.2 with
  | .error _ => (q.1.countRace vf (fun x => { x with shmiss := x.shmiss + 1 }), none)
  | .ok t =>
    let s := q.1
    let sw := if t.coh then BitVec.ofNat 64 (leNat (((s.unitLine (shadowG vf) sl vf t.pa).map (fun l => l.slice_ t.pa 8)).getD [])) else BitVec.ofNat 64 (s.nat t.pa 8)
    let g := s.genOf gens
    let st := (sw.extractLsb' 0 45).toNat
    let conflict := st != 0 && sw.extractLsb' 45 12 != tag && !atomic && sw.extractLsb' 60 4 == g &&
      !(s.covers sl core obs home st)
    let s := s.dropAside (shadowG vf)
    let s1 := match wrote with
      | some (sc, n) => s.shadowPut vf sl sva t (g ++ sc ++ tag ++ BitVec.ofNat 45 n : BitVec 64)
      | none => s
    let x : W32 := (sw.extractLsb' 45 12).zeroExtend 32 ||| (if wrote.isSome then 0x1000 else 0) |||
      (if sw.extractLsb' 45 12 == 0xFFF then 0x2000 else 0)
    (s1, if conflict then some x else none)

/-- An access that a group's thread has performed is checked: a conflict is logged, and under trap the thread parks (R257, R258). -/
def State.raceLane (s : State) (vf sl : Nat) (g lane : Nat) (va pc : W64) (issued home : Nat) (rchk atomic : Bool)
    (wrote : Option (BitVec 3 × Nat)) : State :=
  if !s.racing sl rchk then s
  else
    match s.group g with
    | none => s
    | some gr =>
      let c := s.raceCheck vf sl gr.core gr.obs gr.tag va home atomic wrote
      match c.2 with
      | none => c.1
      | some x =>
        let l := gr.lane lane
        let s1 := c.1.raceLog vf ((l.late 0x14 x pc (some va) issued).record lane l.inHandler).bytes
        if (s.slice sl).race = 2 then s1.updGroup g (fun g1 => g1.upd [lane] (fun i l => l.imprecise i g1.trapvec 0x14 x pc (some va) issued)) else s1

/-- An access of an engine, of a command processor or through Nymlink for a VF is checked, with writer tag 0xFFF and the witness it presents in
place of an OBS; a conflict is logged, with no thread to park (R257, R258, log 114). -/
def State.raceUnit (s : State) (vf sl core : Nat) (obs va : W64) (home : Nat) (rchk : Bool) (wrote : Option (BitVec 3 × Nat)) (gens : Nat := sl) : State :=
  if !s.racing sl rchk then s
  else
    let c := s.raceCheck vf sl core obs 0xFFF va home false wrote gens
    match c.2 with
    | none => c.1
    | some x => c.1.raceLog vf (({ preciseFault 0x14 x 0 with addr := some va, imprecise := true }).record 0 false).bytes

/-- Requests that a command processor has in flight carry this group number (R519). -/
def cpG (c q : Nat) : Nat := 2 ^ 43 + c * 512 + q

/-- The core at which a request is judged: its group's, or core 48 of its command processor's die. -/
def State.reqCore (s : State) (r : Req) : Option Nat :=
  if 2 ^ 43 ≤ r.g ∧ r.g < 2 ^ 44 then some ((r.g - 2 ^ 43) / 512 / 4 * 49 + 48) else (s.group r.g).map Group.core

/-- An access of a thread, or of a command processor, is checked; an atomic never conflicts (R257). -/
def State.raceThread (s : State) (r : Req) (atomic : Bool) (wrote : Option (BitVec 3 × Nat)) : State :=
  if 2 ^ 43 ≤ r.g then
    let core := (s.reqCore r).getD 0
    if !s.racing r.slice r.rchk then s
    else if atomic then (s.raceCheck r.vf r.slice core r.wit 0xFFF r.va r.home true wrote).1
    else s.raceUnit r.vf r.slice core r.wit r.va r.home r.rchk wrote
  else s.raceLane r.vf r.slice r.g r.lane r.va r.pc r.issued r.home r.rchk atomic wrote

/-! ### Issuing an access (R200, R214–R218) -/

/-- The checks of one thread: its request, or its fault; a null request for a thread that is switched off is kept apart. -/
inductive Issued where
  | fault (f : FaultInfo)
  | off
  | req (r : Req)

/-- The presented witness of a thread (R214); none presents the null witness. -/
def Group.presented (gr : Group) (i : Nat) (c : BitVec 10) : W64 := if c = noneSpec then 0 else gr.src64 i c

/-- An LSU watch that catches the access (R377): its index. -/
def Group.lsuWatch (gr : Group) (i : Nat) (va : W64) (bytes : Nat) (write : Bool) : Option Nat :=
  if (gr.lane i).exempt then none
  else (List.range 4).find? (fun n =>
    let w := gr.watch.getD n 0
    let size := 32 * 2 ^ (w.extractLsb' 0 5).toNat
    let base := (w.extractLsb' 5 52).toNat * 32 / size * size
    let a := va.toNat % 2 ^ 57
    w.extractLsb' 62 2 == 1 && (if write then w.getLsbD 61 else w.getLsbD 60) &&
      decide (a < base + size) && decide (base < a + bytes))

/-- What an access is, before its address is known. -/
structure AccSpec where
  kind  : ReqKind
  bytes : Nat
  width : BitVec 4
  scope : BitVec 3
  hint  : BitVec 3
  dst   : BitVec 10
  regs  : Nat

/-- Does the kind write? -/
def ReqKind.writes : ReqKind → Bool
  | .load => false
  | _ => true
/-- Is it an atomic or a reduction? -/
def ReqKind.atomic : ReqKind → Bool
  | .atom _ _ => true
  | _ => false

/-- The checks of R218 for one thread of a global access at `va`, after its witness; a passing one becomes a request. -/
def State.globalReq (s : State) (iss : Issue) (gr : Group) (a : AccSpec) (seq i : Nat) (va : W64) (data : W128) (w : W64)
    (wits : List W64) : State × Issued :=
  if va.toNat % a.bytes ≠ 0 then (s, .fault { preciseFault 0x12 (BitVec.ofNat 32 a.bytes) iss.pc with addr := some va })
  else
    let t := s.translate gr.core (s.vfOf gr) va
    match t.2 with
    | .error x => (t.1, .fault { preciseFault 0x10 x.extra iss.pc with addr := some va })
    | .ok tr =>
      let home := if tr.coh then s.dirHome (s.jobVf gr) tr.pa else s.homeOf tr.pa
      let rd := !a.kind.writes || a.kind.atomic
      if home == hostHome && !gr.priv && s.tstate (s.jobVf gr) == 3 then
        (t.1, .fault { preciseFault 0x11 (if a.kind.atomic then 2 else if a.kind.writes then 1 else 0) iss.pc with addr := some va })
      else if a.kind.atomic && home == hostHome then (t.1, .fault { preciseFault 0x11 2 iss.pc with addr := some va })
      else if rd && !tr.r then (t.1, .fault { preciseFault 0x11 0 iss.pc with addr := some va })
      else if a.kind.writes && !tr.w then (t.1, .fault { preciseFault 0x11 1 iss.pc with addr := some va })
      else
        match gr.lsuWatch i va a.bytes a.kind.writes with
        | some n =>
          (t.1, .fault { preciseFault 0x18 (BitVec.ofNat 32 (n + (if a.kind.writes then 4 else 0) + 0x20000)) iss.pc with addr := some va })
        | none =>
          (t.1, .req { g := iss.g, lane := i, seq := seq, kind := a.kind, sp := none, vf := s.jobVf gr, slice := s.sliceOf gr, va := va,
                       pa := tr.pa, home := home, coh := tr.coh, rchk := tr.rchk, width := a.width, bytes := a.bytes, data := data,
                       wit := s.standIn gr w, wits := wits, scope := a.scope, hint := a.hint, dst := a.dst, pc := iss.pc,
                       issued := (gr.lane i).issued + 1, fab := .unsent })

/-- Where a scratchpad address of a block leads on a core: share and offset; none when out of range (R314, R315, R389). -/
def State.spLoc (s : State) (blk core : Nat) (a : W32) (bytes : Nat) : Option (Nat × Nat × Nat) :=
  match s.block blk with
  | none => none
  | some b =>
    let x := a.getLsbD 26
    let off := (a.extractLsb' 0 24).toNat
    if a.extractLsb' 27 5 ≠ 0 ∨ b.scratch < off + bytes ∨ (x ∧ b.ngroups ≤ 1024) then none
    else
      let c := if x then core / 49 * 49 + core % 49 / 4 * 4 + (a.extractLsb' 24 2).toNat else core
      match b.shareOn c with
      | some i => some (blk, i, off)
      | none => none

/-- The scratchpad address of a thread. -/
def State.spAddr (s : State) (gr : Group) (a : W32) (bytes : Nat) : Option (Nat × Nat × Nat) := s.spLoc gr.blk gr.core a bytes

/-- The checks of R324 for one thread of a scratchpad access, up to the line state. -/
def State.shareReq (s : State) (iss : Issue) (gr : Group) (a : AccSpec) (seq i : Nat) (ad : W32) (data : W128) (w : W64)
    (wits : List W64) : State × Issued :=
  if ad.toNat % a.bytes ≠ 0 then (s, .fault (preciseFault 0x12 (BitVec.ofNat 32 a.bytes) iss.pc))
  else
    match s.spAddr gr ad a.bytes with
    | none => (s, .off)
    | some (b, k, off) =>
      match s.share b k with
      | none => (s, .off)
      | some sh =>
        let ln := sh.line (off / 128)
        if ln.pend = 0 ∧ ln.w = false ∧ (!a.kind.writes || a.kind.atomic) then (s, .off)
        else (s, .req { g := iss.g, lane := i, seq := seq, kind := a.kind, sp := some (b, k), vf := s.jobVf gr, slice := s.sliceOf gr,
                        va := ad.zeroExtend 64, pa := off, home := spHome sh.core, coh := false, rchk := false, width := a.width,
                        bytes := a.bytes, data := data, wit := s.standIn gr w, wits := wits, scope := a.scope, hint := a.hint,
                        dst := a.dst, pc := iss.pc, issued := (gr.lane i).issued + 1, fab := .unsent })

/-- Switch a lane off (R38, R265): it exits with its FLTMASK bit set. -/
def State.laneOff (s : State) (g i : Nat) : State :=
  (s.updGroup g (fun gr => { gr with fltmask := gr.fltmask ||| (1 <<< i) })).exitLanes g [i]

/-! ### Performing a pending access -/

/-- Do two requests touch a common byte? -/
def Req.overlaps (x y : Req) : Bool :=
  x.sp == y.sp && x.coh == y.coh && decide (x.pa < y.pa + y.bytes) && decide (y.pa < x.pa + x.bytes)

/-- Must the request wait for an earlier one: of its own thread (R205, R243, R323), or a write of a lower lane in the same instruction (R207)? -/
def State.reqBlocked (s : State) (key : Nat) (r : Req) : Bool :=
  s.reqs.any (fun e =>
    decide (e.1 < key) && e.2.g == r.g && e.2.overlaps r && (e.2.lane == r.lane || (e.2.seq == r.seq && e.2.kind.writes)))

/-- Is the scratchpad line of the request Empty (R317)? -/
def State.reqEmpty (s : State) (r : Req) : Bool :=
  match r.sp with
  | none => false
  | some (b, i) => match s.share b i with
    | some sh => decide ((sh.line (r.pa / 128)).pend ≠ 0)
    | none => false

/-- Does the request read an Uninit line (R317)? -/
def State.reqUninit (s : State) (r : Req) : Bool :=
  match r.sp with
  | none => false
  | some (b, i) => match s.share b i with
    | some sh => !(sh.line (r.pa / 128)).w && (!r.kind.writes || r.kind.atomic)
    | none => true

/-- Wake every group's threads that wait for `w`: they issue their instruction again. -/
def State.wakeAll (s : State) (w : WaitFor) : State := { s with groups := s.groups.map (fun e => (e.1, e.2.wake w)) }

/-- The lowest passing thread: of the issuer with the lowest GROUPID, its lowest lane. -/
def MOp.lead (o : MOp) : OpIssuer := o.issuers.headD { g := 0, lanes := 0, pc := 0, issued := 0 }

/-- The VF of an operation's first issuer. -/
def State.opVf (s : State) (o : MOp) : Nat := match s.group o.lead.g with | some g => s.jobVf g | none => fwVf

/-- The request is finished; a `tlbi` that waits for it looks again (R282). -/
def State.dropReq (s : State) (key : Nat) : State := { s with reqs := Store.del s.reqs key }.wakeAll .engine

/-- An access of a command processor fails: its queue notes the line (R436, R438). -/
def State.cpFails (s : State) (r : Req) : State :=
  if 2 ^ 43 ≤ r.g ∧ r.g < 2 ^ 44 then
    let c := (r.g - 2 ^ 43) / 512
    let x := Store.get {} s.cps c
    let q := Store.get {} x.queues ((r.g - 2 ^ 43) % 512)
    { s with cps := Store.set {} s.cps c { x with queues := Store.set {} x.queues ((r.g - 2 ^ 43) % 512) { q with lost := r.pa / 128 :: q.lost } } }
  else s

/-- The request's thread parks imprecisely and nothing is written (R218). -/
def State.failReq (s : State) (key : Nat) (r : Req) (code : Byte) (extra : W32) : State :=
  ((s.cpFails r).updGroup r.g (fun gr =>
    ((gr.unpend key).wake .reply).upd [r.lane] (fun i l => l.imprecise i gr.trapvec code extra r.pc (some r.va) r.issued))).dropReq key

/-- The request's lane is switched off (R265, R324). -/
def State.offReq (s : State) (key : Nat) (r : Req) : State :=
  ((s.updGroup r.g (fun gr => (gr.unpend key).wake .reply)).dropReq key).laneOff r.g r.lane

/-- Registers a result of the request takes. -/
def Req.regs (r : Req) : Nat :=
  match r.kind with
  | .load => widthRegs r.width
  | .store => 2
  | .atom _ red => if red then 2 else 4

/-- Loaded bytes extended to the destination (R219). -/
def loadValue (width : BitVec 4) (n : Nat) : W128 :=
  if width = 5 then BitVec.ofNat 128 (if n % 256 < 128 then n % 256 else 2 ^ 32 - 256 + n % 256)
  else if width = 6 then BitVec.ofNat 128 (if n % 65536 < 32768 then n % 65536 else 2 ^ 32 - 65536 + n % 65536)
  else BitVec.ofNat 128 n

/-- Deliver a load's value; an exited thread's is discarded (R17, R196). -/
def State.loadDone (s : State) (key : Nat) (r : Req) (v : W128) : State :=
  (s.updGroup r.g (fun gr =>
    if (gr.lane r.lane).run = .exited ∧ !isScalSpec r.dst then (gr.unpend key).wake .reply
    else gr.deliver key r.lane r.dst r.regs v)).dropReq key

/-- The bytes that the home gives for the request: none when it cannot be read there (a coherent line not held). -/
def State.homeBytes (s : State) (r : Req) : Option (List Byte) :=
  match r.sp with
  | some (b, i) => (s.share b i).map (fun sh => sh.bytes r.pa r.bytes)
  | none => if r.coh then (s.fabLine r.slice r.vf r.pa).map (fun l => l.slice_ r.pa r.bytes) else some (s.bytesFor r.vf r.pa r.bytes)

/-- Does the read meet poison (R335, R426)? -/
def State.readPoison (s : State) (r : Req) : Bool :=
  match r.sp with
  | some (b, i) => match s.share b i with
    | some sh => (List.range r.bytes).any (fun k => Store.get false sh.poison (r.pa + k))
    | none => false
  | none => !r.coh && s.poisoned r.pa r.bytes

/-- One thread's load is performed: it is checked, and delivers the bytes or meets poison (R219, R257, R426). -/
def State.loadLane (s : State) (key : Nat) (r : Req) (bs : List Byte) : State :=
  let s1 := if r.sp.isSome then s else s.raceThread r false none
  if s.readPoison r then s1.failReq key r 0x13 0 else s1.loadDone key r (loadValue r.width (leNat bs))

/-- The loads that share one read with a request: those of its instruction in the same sector (R207). -/
def State.sameRead (s : State) (key : Nat) (r : Req) : List (Nat × Req) :=
  s.reqs.filter (fun e => e.1 == key || (e.2.kind == .load && e.2.g == r.g && e.2.seq == r.seq && e.2.sp == r.sp && e.2.coh == r.coh &&
    e.2.pa / 32 == r.pa / 32 && e.2.fab == .unsent && !s.reqBlocked e.1 e.2))

/-- Perform a load at its home, with those that share its read; the core's L1 copy of the sector is replaced (R203, R207, R219, R243, R244). -/
def State.loadAtHome (s : State) (key : Nat) (r : Req) : State :=
  let s0 := if r.sp.isNone ∧ !r.coh then s.homeRead r.vf r.pa r.hint else s
  let s1 := match r.sp, s0.group r.g with
    | none, some gr =>
      (match s0.l1Find gr.core r.vf r.coh (r.pa / 128) with
       | some l => s0.l1Put gr.core r.vf r.slice r.pa r.coh r.home (l.valid ||| (1 <<< (r.pa / 32 % 4)))
       | none => s0)
    | _, _ => s0
  (s.sameRead key r).foldl (fun t e => t.loadLane e.1 e.2 ((s.homeBytes e.2).getD [])) s1

/-- The home of a request: of a scratchpad access, that of the core where the share now lies (R325, R389). -/
def State.reqHome (s : State) (r : Req) : Nat :=
  match r.sp with
  | some (b, i) => match s.share b i with
    | some sh => spHome sh.core
    | none => r.home
  | none => r.home

/-- The witness of a commit (R221, R325). -/
def State.commitWit (s : State) (r : Req) (stamp : Nat) : W64 := mkWit 1 r.scope (s.genOf r.slice) (s.reqHome r) stamp

/-- A write of a thread has committed: its witness is delivered and kept for the retirement witness (R221, R250). -/
def State.writeDone (s : State) (key : Nat) (r : Req) (stamp : Nat) (v : W128) : State :=
  let w := s.commitWit r stamp
  (s.updGroup r.g (fun gr => (s.noteWrite gr w).deliver key r.lane r.dst r.regs v)).dropReq key

/-- Commit a store at its home (R221, R235, R236): a write of part of a poisoned word fails (R426). -/
def State.commitStore (s : State) (key : Nat) (r : Req) : State :=
  let bs := leBytes r.bytes r.data.toNat
  let p := s.presentedStamp r.slice r.wit
  match r.sp with
  | some (b, i) =>
    let c := s.commitShare r.slice b i r.pa bs p
    c.1.writeDone key r c.2 ((c.1.commitWit r c.2).zeroExtend 128)
  | none =>
    if s.partPoison r.pa r.bytes then s.failReq key r 0x13 0
    else
      let c := s.commitGlobal r.slice r.vf r.pa bs p r.hint 0
      let s1 := c.1.raceThread r false (some (r.scope, c.2))
      s1.writeDone key r c.2 ((s1.commitWit r c.2).zeroExtend 128)

/-- New value of an atomic operation on `w`-byte values (R224): `x` is the data, for cas the comparand below and the new value above. -/
def atomNew (op : AtomOp) (width : BitVec 4) (w old x : Nat) : Nat :=
  let m := 2 ^ (8 * w)
  let sgn (v : Nat) : Int := if m / 2 ≤ v then (v : Int) - m else v
  let signed := width == 7 || width == 8
  let lt (a b : Nat) : Bool := if signed then decide (sgn a < sgn b) else decide (a < b)
  match op with
  | .add => if width = 9 then (Ty.f32.fadd .rne (Ty.f32.dec old) (Ty.f32.dec (x % m))).1 else (old + x) % m
  | .min => if lt (x % m) old then x % m else old
  | .max => if lt old (x % m) then x % m else old
  | .and => old &&& (x % m)
  | .or => old ||| (x % m)
  | .xor => old ^^^ (x % m)
  | .exch => x % m
  | .cas => if old = x % m then x / m % m else old

/-- The destination of an atomic (R225, R226): the old value with the witness above it, or the witness alone. -/
def atomDst (red : Bool) (old : Nat) (w : W64) : W128 :=
  if red then w.zeroExtend 128 else (w.zeroExtend 128 <<< 64) ||| BitVec.ofNat 128 old

/-- Perform an atomic at its home, once (R224–R226, R245). -/
def State.performAtomic (s : State) (key : Nat) (r : Req) (op : AtomOp) (red : Bool) : State :=
  let old := leNat ((s.homeBytes r).getD [])
  let p := s.presentedStamp r.slice r.wit
  let new := leBytes r.bytes (atomNew op r.width r.bytes old r.data.toNat)
  if s.readPoison r then s.failReq key r 0x13 0
  else
    match r.sp with
    | some (b, i) =>
      let c := s.commitShare r.slice b i r.pa new p
      c.1.writeDone key r c.2 (atomDst red old (c.1.commitWit r c.2))
    | none =>
      let c := s.commitGlobal r.slice r.vf r.pa new p 0 0
      let s1 := c.1.raceThread r true (some (r.scope, c.2))
      s1.writeDone key r c.2 (atomDst red old (s1.commitWit r c.2))

/-- Does the port turn an access of a VF to the host home away as it arrives: TSTATE, read then, is ERROR (R486, log 158)? -/
def State.barred (s : State) (r : Req) : Bool :=
  r.sp.isNone && !r.coh && r.home == hostHome && r.vf != fwVf && s.tstate r.vf == 3

/-- Perform a request of a scratchpad access (R318, R323, R324). -/
def State.perform (s : State) (key : Nat) (r : Req) : State :=
  if s.reqUninit r then s.offReq key r
  else if s.barred r then s.failReq key r 0x11 (if r.kind.writes then 1 else 0)
  else match r.kind with
    | .load => s.loadAtHome key r
    | .store => s.commitStore key r
    | .atom op red => s.performAtomic key r op red

/-- Is a scratchpad access performed at once: its line is Full, no earlier access of the thread stands before it, and its slice does not stall
(R205, R239, R324)? -/
def State.atOnce (s : State) (key : Nat) (r : Req) : Bool :=
  r.sp.isSome && !s.reqEmpty r && !s.reqBlocked key r && !(r.kind.writes && s.stalled r.slice)

/-- Perform a request that need not wait (R324). -/
def State.performNow (s : State) (key : Nat) : State :=
  match Store.find s.reqs key with
  | some r => if s.atOnce key r then s.perform key r else s
  | none => s

/-! ### Who asked (R446, R519) -/

/-- Who has a request with the fabric. -/
inductive Asker where
  | group (g : Nat)
  | job (jk : Nat)
  | stream (g k : Nat) (table : Bool)
  | matrix (core n : Nat)
  | cp (c q : Nat)
  /-- A line that a group fetches, or that an instruction reads as it issues. -/
  | copy (g : Nat)
  /-- The shadow words of a VF (R255). -/
  | shadow (vf : Nat)
  | pref (g : Nat)
  deriving DecidableEq, Repr

/-- Read the group number of a request. -/
def Req.asker (r : Req) : Asker :=
  if r.g < 2 ^ 40 then .group r.g
  else if r.g < 2 ^ 41 then .job (r.g - 2 ^ 40)
  else if r.g < 2 ^ 42 then .stream ((r.g - 2 ^ 41) / 8) ((r.g - 2 ^ 41) % 8 / 2) (r.g % 2 == 1)
  else if r.g < 2 ^ 43 then .matrix ((r.g - 2 ^ 42) / 2 ^ 32) ((r.g - 2 ^ 42) % 2 ^ 32)
  else if r.g < 2 ^ 44 then .cp ((r.g - 2 ^ 43) / 512) ((r.g - 2 ^ 43) % 512)
  else if r.g < 2 ^ 45 then .copy (r.g - 2 ^ 44)
  else if r.g < 2 ^ 46 then .shadow (r.g - 2 ^ 45)
  else .pref (r.g - 2 ^ 46)

/-- The die whose remote-wait table holds the request (R520). -/
def State.reqDie (s : State) (r : Req) : Nat :=
  match r.asker with
  | .group g | .stream g _ _ | .copy g | .pref g => ((s.group g).map (fun x => x.core / 49)).getD 0
  | .job jk => ((Store.find s.jobs jk).map (fun j => j.core / 49)).getD 0
  | .matrix c _ => c / 49
  | .cp c _ => c / 4
  | .shadow vf => (s.slice (s.vf vf).slice).cpn.toNat / 4

/-- Requests of a die that await a response. -/
def State.remoteWaits (s : State) (d : Nat) : Nat :=
  (s.reqs.filter (fun e => (match e.2.fab with | .sent _ _ => true | .unsent => false) && s.reqDie e.2 == d)).length

/-- Is the line of a fabric address under a no-cache mark (R523)? -/
def State.ncMark (s : State) (fa : Nat) : Bool := s.fab.nc.any (fun e => e.1 == fa / 128 * 128)

/-- The state in which the caching bank of a slice holds a line under a VF's key. -/
def State.cohSt (s : State) (sl vf fa : Nat) : Coh := ((s.fabLine sl vf fa).map FabLine.st).getD .I

/-- Is the state one in which a WR goes out (R519)? -/
def Coh.ours (c : Coh) : Bool := c == .E || c == .M || c == .O

/-- The message that a request needs now: its KIND (R519). A request of the matrix engine is an atomic. -/
def State.needs (s : State) (r : Req) : Option Nat :=
  let nc := s.ncMark r.pa
  let st := s.cohSt r.slice r.vf r.pa
  let mat := match r.asker with | .matrix _ _ => true | _ => false
  match r.kind with
  | .load => if st = .I then some 1 else none
  | .atom _ false => some 4
  | _ => if mat then some 4 else if nc || st.ours then some 3 else some 2

/-- Does a request need a message of the fabric for which its die's remote-wait table has no free entry (R519, R520, log 176)? -/
def State.noEntry (s : State) (r : Req) : Bool := r.coh && (s.needs r).isSome && decide (2048 ≤ s.remoteWaits (s.reqDie r))

/-- Does what a thread's checks give wait for such an entry? -/
def State.lacksEntry (s : State) (x : Issued) : Bool := match x with | .req r => s.noEntry r | _ => false

/-! ### Issuing the accesses of an instruction -/

/-- Take the result of one thread's checks. A check of a per-path access fails for the path: every passing thread parks (R220, R261, log 150). -/
def State.takeIssued (s : State) (iss : Issue) (a : AccSpec) (ps : List Nat) (once : Bool) (seq i : Nat) (w : W64) (x : Issued) : State :=
  match x with
  | .fault f => s.updGroup iss.g (fun gr => gr.park (if once then ps else [i]) f)
  | .off => s.laneOff iss.g i
  | .req r =>
    let s1 := { s with reqs := Store.put s.reqs (reqKey seq i) r }
    let s2 := if a.kind.writes ∧ r.sp.isNone then
        (match s1.group iss.g with | some gr => s1.l1Drop gr.core r.pa r.coh | none => s1) else s1
    s2.updGroup iss.g (fun gr => (s2.observe gr w).pending (reqKey seq i) i a.dst a.regs)

/-- The threads that issue an access: each passing thread, or for a per-path form the lowest alone (R25). -/
def issuers (once : Bool) (ps : List Nat) : List Nat := if once then [ps.headD 0] else ps

/-- The path waits while the witness that an issuing thread presents through `c` is not satisfied (R214). -/
def State.witWait (s : State) (gr : Group) (ls : List Nat) (c : BitVec 10) : Option WaitFor :=
  if ls.any (fun i => s.sat gr true (gr.presented i c) == .no) then some .witness else none

/-- The line of a stage-1 table for which the translation of an address waits (R270). -/
def State.transAsk (s : State) (gr : Group) (va : W64) : Option Nat :=
  match (s.translate gr.core (s.vfOf gr) va).2 with
  | .error x => x.ask
  | .ok _ => none

/-- Issue an access in the passing threads (R214, R217, R218): while a passing thread's witness is unsatisfied, the line `ask` of a stage-1
table is still to come, or a message that the access needs finds no entry in the remote-wait table (R520), the path waits; `once` is the per-path form. `mk` makes the request of a thread from its witness. -/
def State.access (s : State) (iss : Issue) (gr : Group) (path ps : List Nat) (once : Bool) (a : AccSpec) (c : BitVec 10)
    (ask : Nat → Option Nat) (mk : State → Nat → Nat → W64 → List W64 → State × Issued) : State :=
  let ls := issuers once ps
  let wits := ls.map (fun i => gr.presented i c)
  match s.witWait gr ls c, ls.findSome? ask with
  | some w, _ => s.putGroup iss.g (gr.stay path w)
  | none, some fa => s.awaitLine iss.g gr path fa
  | none, none =>
    if ls.any (fun i => (s.sat gr true (gr.presented i c)).fault?.isNone && s.lacksEntry (mk s s.nextSeq i (gr.presented i c) wits).2) then
      s.putGroup iss.g (gr.stay path .reply)
    else
    let seq := s.nextSeq
    let s1 := { s with nextSeq := seq + 1 }
    let s2 := s1.eachLane ls (fun i t =>
      match (t.sat gr true (gr.presented i c)).fault? with
      | some code => t.takeIssued iss a ps once seq i 0 (.fault (preciseFault code 0 iss.pc))
      | none =>
        let m := mk t seq i (gr.presented i c) wits
        m.1.takeIssued iss a ps once seq i (gr.presented i c) m.2)
    (s2.updGroup iss.g (fun g1 => g1.advance iss path)).eachLane ls (fun i t => t.performNow (reqKey seq i))

end Sys2Proof.Machine
end

