-- ==== Sys2Proof/Machine/Io.lean ====
section
/-! DEFINITION. What a die offers its firmware: mailboxes (R448, R284), notices (R444),
and the I/O register space (R449) with the core counters (R381), channel registers (R428) and command-processor registers (R441). -/

namespace Sys2Proof.Machine

/-- The 32 bytes of a log entry. -/
def LogEntry.bytes (e : LogEntry) : List Byte :=
  [e.type, 0] ++ leBytes 2 e.unit ++ leBytes 2 e.vf ++ [0, 0] ++ leBytes 8 e.addr ++ leBytes 8 e.time ++ leBytes 8 e.data.toNat

/-! ### Mailboxes (R448, R284, R444) -/

/-- A mailbox of a die. -/
def State.mbox (s : State) (d i : Nat) : Mbox := Store.get {} (s.die d).mbox i
/-- Change a mailbox. -/
def State.updMbox (s : State) (d i : Nat) (f : Mbox → Mbox) : State :=
  s.updDie d (fun x => { x with mbox := Store.set {} x.mbox i (f (Store.get {} x.mbox i)) })

/-- Is the message a command of the slice controller (R456, R497, R517)? -/
def isSliceCmd (m : W64) : Bool := decide (0x20 ≤ (m.extractLsb' 56 8).toNat) && decide ((m.extractLsb' 56 8).toNat ≤ 0x31)

/-- Take away the `k`-th entry for a die. -/
def dropNth (d : Nat) : Nat → List Nat → List Nat
  | _, [] => []
  | k, x :: xs => if x = d then (match k with | 0 => xs | k + 1 => x :: dropNth d k xs) else x :: dropNth d k xs

/-- A message has been taken from mailbox 0 of a die, behind `k` slice commands (R457). -/
def State.arrivalTaken (s : State) (d : Nat) (m : W64) (k : Nat) : State :=
  if isSliceCmd m then { s with arrivals := dropNth d k s.arrivals } else s

/-- A message arrives in an inbound ring; into an empty ring it sets event bit 0, and a notice of the slice controller, the peer of mailbox 1,
sets bit 2 (log 121). False when the ring is full. -/
def State.mboxIn (s : State) (d i : Nat) (m : W64) : State × Bool :=
  let q := (s.mbox d i).inb
  if 16 ≤ q.length then (s, false)
  else
    let s0 : State := if i = 0 ∧ isSliceCmd m = true then { s with arrivals := s.arrivals ++ [d] } else s
    let s1 := s0.updMbox d i (fun x => { x with inb := x.inb ++ [m] })
    let m : BitVec 5 := (if q = [] then 1 else 0) ||| (if i = 1 then 4 else 0)
    (if m = 0 then s1 else s1.setEvents d m, true)

/-- The ring that mailbox i of die d fills: the inbound ring of a firmware core for mailboxes 6–9, whose INPOP takes the message. -/
def outRing (d i : Nat) : Option (Nat × Nat) := if 6 ≤ i ∧ i ≤ 9 then some (i - 6, 6 + d) else none

/-- Messages in the outbound ring of mailbox i. -/
def State.outCount (s : State) (d i : Nat) : Nat :=
  match outRing d i with
  | some (d', i') => (s.mbox d' i').inb.length
  | none => (s.mbox d i).outb.length

/-- The port takes a TDISP reply (R488): it sends the bytes of the response buffer, or discards the reply to an aborted request. -/
def State.tdispReply (s : State) (m : W64) : State :=
  let n := (m.extractLsb' 0 13).toNat
  if s.sec.doeAborted then { s with sec := { s.sec with doeBusy := false, doeAborted := false } }
  else { s with sec := { s.sec with doeBusy := false, answers := s.sec.answers ++ [s.bytes (s.sltbase + 0x13400) n] } }

/-- Post a message outbound (R284): false when the mailbox is full or is not assigned. MSI-X vector d is raised when mailbox 0's ring of die d
turns non-empty (R472). -/
def State.mboxPost (s : State) (d i : Nat) (m : W64) : State × Bool :=
  if 10 < i then (s, false)
  else if d = 0 ∧ i = 0 ∧ m.extractLsb' 56 8 = 0x38 then (s.tdispReply m, true)
  else
    match outRing d i with
    | some (d', i') => s.mboxIn d' i' m
    | none =>
      if 16 ≤ (s.mbox d i).outb.length then (s, false)
      else
        let s1 : State := if i = 0 ∧ (s.mbox d i).outb = [] then { s with sec := { s.sec with msix := s.sec.msix ++ [d] } } else s
        (s1.updMbox d i (fun x => { x with outb := x.outb ++ [m] }), true)

/-- A firmware reply to a command of mailbox 0 (R444): while the ring is full it waits, and it is posted after what waited before it (log 157). -/
def State.postReply (s : State) (d : Nat) (m : W64) : State :=
  if (s.die d).notices = [] ∧ (s.mbox d 0).outb.length < 16 then (s.mboxPost d 0 m).1
  else s.updDie d (fun x => { x with notices := x.notices ++ [m] })

/-- Post a notice (R444): held, in order, while mailbox 0's outbound ring is full; event bit 1 is set. -/
def State.notice (s : State) (d : Nat) (code : Nat) (low : Nat) (cp : Nat) : State :=
  let m : W64 := BitVec.ofNat 64 (code * 2 ^ 56 + low % 512 * 2 ^ 16 + cp % 16)
  (s.postReply d m).setEvents d 2

/-! ### The I/O register space (R449) -/

/-- The registers of a core window (R381). -/
def coreReg (c : Core) (o : Nat) : Option W64 :=
  match o with
  | 0x00 => some (c.orphan.zeroExtend 64)
  | 0x08 => some (c.sramce.zeroExtend 64)
  | 0x10 => some (c.sramue.zeroExtend 64)
  | 0x18 => some (c.scrubpass.zeroExtend 64)
  | _ => none

/-- DEBT of a pseudo-channel. -/
def Channel.debts (c : Channel) (pc : Nat) : W64 :=
  (List.range 16).foldl (fun x b => x ||| (BitVec.ofNat 64 (Store.get {} c.banks (pc * 16 + b)).debt <<< (4 * b))) 0

/-- The registers of a channel window (R428). -/
def chanReg (c : Channel) (o : Nat) : Option W64 :=
  match o with
  | 0x00 => some (c.refab.zeroExtend 64)
  | 0x08 => some (c.postpone.zeroExtend 64)
  | 0x10 => some (c.rfm.zeroExtend 64)
  | 0x18 => some (c.abo.zeroExtend 64)
  | 0x20 => some (c.throttle.zeroExtend 64)
  | 0x28 => some (c.ce.zeroExtend 64)
  | 0x30 => some (c.ue.zeroExtend 64)
  | 0x38 => some (c.scrubpos.zeroExtend 64)
  | 0x40 => some (c.scrubpass.zeroExtend 64)
  | 0x50 => some (c.debts 0)
  | 0x58 => some (c.debts 1)
  | 0x60 => some (c.idleq.zeroExtend 64 ||| (c.period.zeroExtend 64 <<< 8))
  | 0x68 => some c.lastue
  | _ => none

/-- The registers of a command processor (R441). -/
def cpReg (c : Cp) (o : Nat) : Option W64 :=
  match o with
  | 0x00 => some c.qtbase
  | 0x08 => some c.vtbase
  | 0x10 => some (BitVec.ofNat 64 c.nq)
  | 0x18 => some (BitVec.ofNat 64 c.holdt)
  | 0x20 => some (BitVec.ofNat 64 c.slots.length)
  | 0x28 => some (BitVec.ofNat 64 (c.queues.filter (fun e => e.2.st == .spilled)).length)
  | _ => none

/-- The log window (R429). -/
def logReg (d : Die) (o : Nat) : Option W64 :=
  if o < 0x800 then
    if o % 4 = 0 then
      let e := Store.get { type := 0, unit := 0, vf := 0, addr := 0, time := 0, data := 0 } d.log (o / 32)
      some (BitVec.ofNat 64 (leNat ((e.bytes.drop (o % 32)).take 8)))
    else none
  else if o = 0x800 then some d.head
  else if o = 0x808 then some d.tail
  else if o = 0x810 then some d.dropped
  else none

/-- The block an I/O address lies in. -/
inductive IoWin where
  | core (c o : Nat)
  | chan (c o : Nat)
  | log (d o : Nat)
  | mbox (d i o : Nat)
  | cp (c o : Nat)
  deriving DecidableEq, Repr

/-- Decode an I/O address (R449). -/
def ioWin (a : W64) : Option IoWin :=
  let d := (a.extractLsb' 32 2).toNat
  let o := (a.extractLsb' 0 32).toNat
  if a.extractLsb' 34 30 ≠ 0 then none
  else if o < 0x31000 then some (.core (d * 49 + o / 0x1000) (o % 0x1000))
  else if 0x100000 ≤ o ∧ o < 0x106000 then some (.chan (d * 96 + (o - 0x100000) / 0x100) (o % 0x100))
  else if 0x200000 ≤ o ∧ o < 0x200818 then some (.log d (o - 0x200000))
  else if 0x300000 ≤ o ∧ o < 0x301000 then some (.mbox d ((o - 0x300000) / 0x40) (o % 0x40))
  else if 0x400000 ≤ o ∧ o < 0x404000 then some (.cp (d * 4 + (o - 0x400000) / 0x1000) (o % 0x1000))
  else none

/-- Take the oldest inbound message (INPOP of R449). -/
def State.inpop (s : State) (d i : Nat) : State × W64 :=
  match (s.mbox d i).inb with
  | [] => (s, 0)
  | m :: rest => ((if i = 0 then s.arrivalTaken d m 0 else s).updMbox d i (fun x => { x with inb := rest }), m)

/-- Read the register at an I/O address; none where there is no register (R283). -/
def State.ioRead (s : State) (a : W64) : Option (State × W64) :=
  match ioWin a with
  | none => none
  | some (.core c o) => (coreReg (s.core c) o).map (fun v => (s, v))
  | some (.chan c o) => (chanReg (s.chan c) o).map (fun v => (s, v))
  | some (.log d o) => (logReg (s.die d) o).map (fun v => (s, v))
  | some (.cp c o) => (cpReg (s.cp c) o).map (fun v => (s, v))
  | some (.mbox d i o) =>
    if o = 0 then some (s, BitVec.ofNat 64 (s.mbox d i).inb.length)
    else if o = 8 then some (s.inpop d i)
    else if o = 16 then some (s, BitVec.ofNat 64 (s.outCount d i))
    else none

/-- What a write to an I/O address meets (R283). -/
inductive IoWrite where
  | noReg
  | readOnly
  | done (s : State)

/-- The bits that a write of `bytes` bytes changes in a 64-bit register. -/
def mergeIo (old v : W64) (bytes : Nat) : W64 := if bytes = 8 then v else (old &&& 0xFFFFFFFF00000000) ||| (v &&& 0xFFFFFFFF)

/-- Write the register at an I/O address: only FW fields take a value from firmware (R13, R449). -/
def State.ioWrite (s : State) (a v : W64) (bytes : Nat) : IoWrite :=
  match ioWin a with
  | none => .noReg
  | some (.core c o) => if (coreReg (s.core c) o).isNone then .noReg else .readOnly
  | some (.chan c o) =>
    if o = 0x60 then
      .done (s.updChan c (fun x => { x with idleq := v.extractLsb' 0 4, period := if v.extractLsb' 8 8 = 0 then 1 else v.extractLsb' 8 8 }))
    else if (chanReg (s.chan c) o).isNone then .noReg else .readOnly
  | some (.log d o) =>
    if o = 0x808 then .done (s.updDie d (fun x => { x with tail := mergeIo x.tail v bytes }))
    else if (logReg (s.die d) o).isNone then .noReg else .readOnly
  | some (.cp c o) => if (cpReg (s.cp c) o).isNone then .noReg else .readOnly
  | some (.mbox _ _ o) => if o = 0 ∨ o = 8 ∨ o = 16 then .readOnly else .noReg

end Sys2Proof.Machine
end

