-- ==== Sys2Proof/Machine/System.lean ====
section
/-! DEFINITION. The system and privileged instructions (chapter 09, opcodes 0x1C0–0x1DF and 0x250–0x25F) but for `engx`, which stands
with the copies: control registers, fault records, return from a handler, services, firmware waits, invalidation, I/O and mailboxes. -/

namespace Sys2Proof.Machine

/-! ### Control registers (R34–R43, R269, R376) -/

/-- CLUSTER.ID: 0xF on the firmware core (R43). -/
def clusterId (core : Nat) : Nat := if core % 49 = 48 then 15 else core % 49 / 4

/-- The value of a control register; `fresh` stands for the SLICE and VF of a firmware group, which the manual leaves open. -/
def State.crRead (s : State) (gr : Group) (fresh : W64) (ix : W16) : W64 :=
  match ix.toNat with
  | 0x00 => gr.pathq.zeroExtend 64
  | 0x01 => gr.fpctl.zeroExtend 64
  | 0x02 => gr.fpstat.zeroExtend 64
  | 0x03 => gr.trapvec
  | 0x04 => gr.fltmask.zeroExtend 64
  | 0x05 => gr.gang.zeroExtend 64
  | 0x06 => gr.obs
  | 0x07 => (s.genAt gr.core (s.sliceOf gr)).zeroExtend 64
  | 0x08 => gr.stallc.zeroExtend 64
  | 0x09 => (s.core gr.core).cycle
  | 0x0A => BitVec.ofNat 64 (gr.core % 49)
  | 0x0B => BitVec.ofNat 64 (clusterId gr.core)
  | 0x0C => BitVec.ofNat 64 (gr.core / 49)
  | 0x0D => if gr.priv then fresh &&& 0xF else BitVec.ofNat 64 (s.sliceOf gr)
  | 0x0E => if gr.priv then fresh &&& 0x1F01FF else BitVec.ofNat 64 (s.jobVf gr + 65536 * (s.vf (s.jobVf gr)).local_)
  | 0x0F => BitVec.ofNat 64 (match s.block gr.blk with | some b => b.blockid | none => 0)
  | 0x10 => BitVec.ofNat 64 gr.groupid
  | 0x11 => (s.core gr.core).partw.zeroExtend 64
  | 0x18 => gr.watch.getD 0 0
  | 0x19 => gr.watch.getD 1 0
  | 0x1A => gr.watch.getD 2 0
  | 0x1B => gr.watch.getD 3 0
  | _ => 0

/-- Does reading the register take a free value? -/
def crFree (gr : Group) (ix : W16) : Bool := gr.priv && (ix == 0x0D || ix == 0x0E)

/-- What a write stores in WATCHn (R376): KIND 3 as 0, SIZE above 20 as 20, ARMED and bits 58:57 zero. -/
def watchValue (v : W64) : W64 :=
  let k : W64 := if v.extractLsb' 62 2 = 3 then 0 else v &&& 0xC000000000000000
  let z : W64 := if 20 < (v.extractLsb' 0 5).toNat then 20 else v &&& 0x1F
  k ||| (v &&& 0x3000000000000000) ||| (v &&& 0x01FFFFFFFFFFFFE0) ||| z

/-- Write WATCHn (R376, R378): an armed home watch is withdrawn; a new one is sent to the home of its line, when the address
translates and that home is an L2 bank. -/
def State.watchWrite (s : State) (g n : Nat) (v : W64) : State :=
  match s.group g with
  | none => s
  | some gr =>
    let w := watchValue v
    let gr1 := { gr with watch := gr.watch.set n w, hwatch := Store.del (Store.del gr.hwatch n) (4 + n) }
    if w.extractLsb' 62 2 = 2 then
      let t := s.translate gr.core (s.vfOf gr) (watchLine w)
      match t.2 with
      | .error _ => t.1.putGroup g gr1
      | .ok tr =>
        if tr.coh ∨ 0xC0 ≤ s.homeOf tr.pa then t.1.putGroup g gr1
        else t.1.putGroup g { gr1 with hwatch := Store.put gr1.hwatch (4 + n) (tr.pa / 128) }
    else s.putGroup g gr1

/-- The coherent line of a stage-1 table for which a write of WATCHn with a home watch waits (R270, R378). -/
def State.watchAsk (s : State) (gr : Group) (ix : W16) (v : W64) : Option Nat :=
  if 0x18 ≤ ix.toNat ∧ ix.toNat ≤ 0x1B ∧ (watchValue v).extractLsb' 62 2 = 2 then
    match (s.translate gr.core (s.vfOf gr) (watchLine (watchValue v))).2 with
    | .error x => x.ask
    | .ok _ => none
  else none

/-- Write a control register field by field (R277): a register with no writable field keeps its value. -/
def State.crWrite (s : State) (g : Nat) (ix : W16) (v : W64) : State :=
  match ix.toNat with
  | 0x00 => s.updGroup g (fun gr => { gr with pathq := if v.extractLsb' 0 8 = 0 then 1 else v.extractLsb' 0 8 })
  | 0x01 => s.updGroup g (fun gr => { gr with fpctl := v.extractLsb' 0 5 })
  | 0x02 => s.updGroup g (fun gr => { gr with fpstat := gr.fpstat &&& ~~~(v.extractLsb' 0 5) })
  | 0x03 => s.updGroup g (fun gr => { gr with trapvec := v })
  | 0x08 => s.updGroup g (fun gr => { gr with stallc := v.extractLsb' 0 32 })
  | 0x18 => s.watchWrite g 0 v
  | 0x19 => s.watchWrite g 1 v
  | 0x1A => s.watchWrite g 2 v
  | 0x1B => s.watchWrite g 3 v
  | _ => s

/-- rdcr (R276). -/
def execRdcr (f : FmtS) (s : State) : Host.Outcome State Fault Refusal :=
  issueWith (.rdcr f) (isScalSpec f.h.dst) s (fun iss gr path ps s' =>
    let v := s'.crRead gr ((Config.freeWord s'.free).extractLsb' 0 64) f.imm
    let s1 := if crFree gr f.imm then { s' with free := s'.free + 1 } else s'
    s1.updGroup iss.g (fun g1 => (g1.writeDst f.h.dst (crRegs f.imm) ps (fun _ => v.zeroExtend 128)).advance iss path))

/-- wrcr (R277). -/
def execWrcr (f : FmtS) (s : State) : Host.Outcome State Fault Refusal :=
  issueWith (.wrcr f) true s (fun iss gr path ps s' =>
    let v := (gr.src (ps.headD 0) f.a (crRegs f.imm)).setWidth 64
    match s'.watchAsk gr f.imm v with
    | some fa => s'.awaitLine iss.g gr path fa
    | none => (s'.crWrite iss.g f.imm v).updGroup iss.g (fun g1 => g1.advance iss path))

/-! ### Fault records and return -/

/-- Half of a fault record as a quad (R278). -/
def FaultRec.half (f : FaultRec) (hi : Bool) : W128 := BitVec.ofNat 128 (leNat ((f.bytes.drop (if hi then 16 else 0)).take 16))

/-- rdflt (R278). -/
def execRdflt (f : FmtS) (s : State) : Host.Outcome State Fault Refusal :=
  issueWith (.rdflt f) false s (fun iss gr path ps s' =>
    s'.updGroup iss.g (fun g1 => (g1.writeDst f.h.dst 4 ps (fun i => (gr.lane i).flt.half (f.imm == 1))).advance iss path))

/-- The threads of the path that are not in `ps` continue at Next(PC). -/
def State.skipOthers (s : State) (iss : Issue) (path ps : List Nat) : State :=
  s.updGroup iss.g (fun gr => gr.advance iss (path.filter (fun i => !ps.contains i)))

/-- rte (R279): to RESUME, or to the address of SRCA. -/
def execRte (f : FmtS) (s : State) : Host.Outcome State Fault Refusal :=
  issueWith (.rte f) false s (fun iss gr path ps s' =>
    (s'.skipOthers iss path ps).eachLane ps (fun i t =>
      t.returnFrom iss.g i iss.pc (if f.a = noneSpec then (gr.lane i).flt.resume else gr.src64 i f.a)))

/-! ### Services and firmware waits -/

/-- sys (R280): the request is sent and the group waits for the reply; on the firmware core nothing is sent. -/
def execSys (f : FmtS) (s : State) : Host.Outcome State Fault Refusal :=
  issueWith (.sys f) true s (fun iss gr path ps s' =>
    s'.updGroup iss.g (fun g1 =>
      if gr.priv then (g1.writeDst f.h.dst 2 ps (fun _ => 0xFFFFFFFFFFFFFFFF)).advance iss path
      else { g1.advance iss path with
        sysq := some { service := f.imm, arg := if f.a = noneSpec then 0 else gr.src64 (ps.headD 0) f.a, dst := f.h.dst, reply := none } }))

/-- halt (R281): with a bit set it returns at once. -/
def execHalt (f : FmtS) (s : State) : Host.Outcome State Fault Refusal :=
  issueWith (.halt f) true s (fun iss _ path _ s' =>
    s'.updGroup iss.g (fun g1 => ({ g1.advance iss path with haltq := some { dst := f.h.dst, us := f.imm.toNat } } : Group).haltReturn))

/-! ### tlbi (R282) -/

/-- Does an entry belong to what `tlbi` kind `k` selects: VF `vf`, address `a`? A page is that of the entry's leaf in the stage selected (R282). -/
def tlbSelects (k vf : Nat) (a : W64) (e : TlbEntry) : Bool :=
  match k with
  | 0 => e.vf == vf && e.vpage * e.size / e.s1 == a.toNat / e.s1
  | 1 => e.vf == vf
  | 2 => e.vf == vf && e.gpage * e.size / e.s2 == a.toNat / e.s2
  | 3 => e.vf == vf
  | _ => true

/-- Drop the selected entries from every TLB of the package; what a walk of the VFs has asked for and not read goes with them. -/
def State.tlbDrop (s : State) (k vf : Nat) (a : W64) : State :=
  { s with tlb := s.tlb.filter (fun e => !tlbSelects k vf a e),
           fab := { s.fab with lines := s.fab.lines.filter (fun l => decide (l.slice < 2 ^ 20) || (k != 4 && l.vf != vf)) } }

/-- The VFs and addresses of the accesses that have been translated and are still to be performed: those in flight, and the amax merges of queued
matrix operations (R359). -/
def State.translated (s : State) : List (Nat × W64) :=
  (s.reqs.filter (fun e => e.2.sp.isNone)).map (fun e => (e.2.vf, e.2.va)) ++
    s.cores.flatMap (fun c => (c.2.mq.filter (fun e => e.2.amax.isSome)).map (fun e => (s.opVf e.2, e.2.src)))

/-- Is an access translated through a selected entry still to be performed? It is held to have used every selected entry that maps its address. -/
def State.tlbBusy (s : State) (k vf : Nat) (a : W64) : Bool :=
  s.translated.any (fun e => (k == 4 || e.1 == vf) && e.1 != fwVf &&
    s.tlb.any (fun t => tlbSelects k vf a t && t.vf == e.1 && t.vpage == e.2.toNat / t.size))

/-- tlbi (R282): while an access through a selected entry is in flight the path waits. -/
def execTlbi (f : FmtS) (s : State) : Host.Outcome State Fault Refusal :=
  issueWith (.tlbi f) true s (fun iss gr path ps s' =>
    let i := ps.headD 0
    let a := if f.a = noneSpec then 0 else gr.src64 i f.a
    let vf := if f.b = noneSpec then 0 else (gr.src32 i f.b).toNat
    let k := f.sub.toNat
    if s'.tlbBusy k vf a then s'.putGroup iss.g (gr.stay path .engine)
    else (s'.tlbDrop k vf a).updGroup iss.g (fun g1 => g1.advance iss path))

/-! ### ldio, stio, mbxw (R283, R284) -/

/-- The I/O address and the width in bytes. -/
def ioAddr (f : FmtS) (gr : Group) (i : Nat) : W64 := gr.src64 i f.a + f.imm.zeroExtend 64
def ioBytes (f : FmtS) : Nat := if f.sub = 1 then 8 else 4

/-- A fault of an I/O access. -/
def ioFault (code : Byte) (extra : W32) (pc a : W64) : FaultInfo := { preciseFault code extra pc with addr := some a }

/-- ldio (R283). -/
def execLdio (f : FmtS) (s : State) : Host.Outcome State Fault Refusal :=
  issueWith (.ldio f) true s (fun iss gr path ps s' =>
    let a := ioAddr f gr (ps.headD 0)
    let n := ioBytes f
    if a.toNat % n ≠ 0 then s'.updGroup iss.g (fun g1 => g1.park ps (ioFault 0x12 (BitVec.ofNat 32 n) iss.pc a))
    else
      match s'.ioRead a with
      | none => s'.updGroup iss.g (fun g1 => g1.park ps (ioFault 0x10 64 iss.pc a))
      | some (s1, v) => s1.updGroup iss.g (fun g1 => (g1.writeDst f.h.dst (n / 4) ps (fun _ => v.zeroExtend 128)).advance iss path))

/-- stio (R283). -/
def execStio (f : FmtS) (s : State) : Host.Outcome State Fault Refusal :=
  issueWith (.stio f) true s (fun iss gr path ps s' =>
    let i := ps.headD 0
    let a := ioAddr f gr i
    let n := ioBytes f
    if a.toNat % n ≠ 0 then s'.updGroup iss.g (fun g1 => g1.park ps (ioFault 0x12 (BitVec.ofNat 32 n) iss.pc a))
    else
      match s'.ioWrite a ((gr.src i f.b (n / 4)).setWidth 64) n with
      | .noReg => s'.updGroup iss.g (fun g1 => g1.park ps (ioFault 0x10 64 iss.pc a))
      | .readOnly => s'.updGroup iss.g (fun g1 => g1.park ps (ioFault 0x11 3 iss.pc a))
      | .done s1 => s1.updGroup iss.g (fun g1 => g1.advance iss path))

/-- mbxw (R284). -/
def execMbxw (f : FmtS) (s : State) : Host.Outcome State Fault Refusal :=
  issueWith (.mbxw f) true s (fun iss gr path ps s' =>
    let r := s'.mboxPost (gr.core / 49) f.imm.toNat (gr.src64 (ps.headD 0) f.a)
    r.1.updGroup iss.g (fun g1 => (g1.writeDst f.h.dst 1 ps (fun _ => if r.2 then 0 else 1)).advance iss path))

end Sys2Proof.Machine
end

