-- ==== Sys2Proof/Machine/Image.lean ====
section
/-! DEFINITION. The context image of a group (R290, R291): its bytes as the fields of `Group` give them. -/

namespace Sys2Proof.Machine

/-- The 128 bits of a convergence entry (R18): KIND 81:80, REGION 79:64, ADDR 63:0. -/
def ConvEntry.word (e : ConvEntry) : W128 :=
  match e with
  | .region id a => (1 : W128) <<< 80 ||| id.zeroExtend 128 <<< 64 ||| a.zeroExtend 128
  | .call a => (2 : W128) <<< 80 ||| a.zeroExtend 128

/-- The run state's code in the lane state word (R291). -/
def RunSt.code (r : RunSt) : Nat :=
  match r with
  | .running => 0
  | .waiting => 1
  | .parked => 2
  | .exited => 3

/-- The lane state word (R291): run state 1:0, in-handler 2, stack depth 9:3, awaited region id 25:10. -/
def Lane.stateWord (l : Lane) : Nat :=
  l.run.code + 4 * l.inHandler.toNat + 8 * l.stack.length + 1024 * (if l.run = .waiting then l.awaiting.toNat else 0)

/-- One row of an image: what each of the 32 lanes holds, `n` bytes a lane. -/
def Group.row (gr : Group) (n : Nat) (f : Lane → Nat) : List Byte := (List.range 32).flatMap (fun i => leBytes n (f (gr.lane i)))

/-- The context image of a group (R291). `fresh` names the free words that stand for its stream state, which the manual gives 128 bytes a queue and
no layout (log 135). -/
def State.image (s : State) (gr : Group) (fresh : Nat) : List Byte :=
  (List.range 128).flatMap (fun n => leBytes 4 (if n < 8 * gr.sgran then (gr.rd n).toNat else 0)) ++
  (List.range 32).flatMap (fun i => (gr.lane i).flt.bytes) ++
  gr.row 8 (fun l => l.pc.toNat) ++
  gr.row 4 Lane.stateWord ++
  ([0x00, 0x01, 0x02, 0x03, 0x04, 0x05, 0x06, 0x07, 0x08, 0x18, 0x19, 0x1A, 0x1B] : List W16).flatMap (fun ix => leBytes 8 (s.crRead gr 0 ix).toNat) ++
  List.replicate 24 0 ++
  (List.range 8).flatMap (fun k => leBytes 64 (Config.freeWord (fresh + k)).toNat) ++
  List.replicate 512 0 ++
  (List.range (8 * gr.vgran)).flatMap (fun j => gr.row 4 (fun l => (l.rd j).toNat)) ++
  (List.range gr.divd).flatMap (fun e => gr.row 16 (fun l => match l.stack.reverse[e]? with | some x => x.word.toNat | none => 0))

/-! ### The context region (R290, R530) -/

/-- Where a slice's context region begins: 1 GiB per owned cluster at the aperture's highest offsets (R530). -/
def Slice.ctxBase (sl : Slice) : Nat := sl.apbase + sl.apLen - 2 ^ 30 * (clustersOf sl.clusters).length

/-- Bytes that a group takes in the context region: its image in whole 4 KiB pages, and beside it its spill ring (R291, R311). -/
def ctxBytes (vgran divd quota : Nat) : Nat := (0xC00 + 1024 * vgran + 512 * divd + 4095) / 4096 * 4096 + 4096 * quota

/-- The QUOTA of a group's block (R83). -/
def State.ctxQuota (s : State) (gr : Group) : Nat := match s.block gr.blk with | some b => b.quota | none => 0

/-- The places of the context region of slice i that its groups have: first address and the one behind the last. -/
def State.ctxUsed (s : State) (i : Nat) : List (Nat × Nat) :=
  s.groups.filterMap (fun e => if s.sliceOf e.2 = i then e.2.image.map (fun a => (a, a + ctxBytes e.2.vgran e.2.divd (s.ctxQuota e.2))) else none)

/-- The lowest free place of `n` bytes in the context region of slice i; none when it is full (log 160). -/
def State.ctxPlace (s : State) (i n : Nat) : Option Nat :=
  let sl := s.slice i
  let used := s.ctxUsed i
  ((sl.ctxBase :: used.map Prod.snd).filter (fun a => decide (a + n ≤ sl.apbase + sl.apLen) &&
    used.all (fun u => decide (a + n ≤ u.1) || decide (u.2 ≤ a)))).min?

/-- The command processor allocates the image of an admitted group (R290). -/
def State.takeImage (s : State) (g : Nat) : State :=
  match s.group g with
  | none => s
  | some gr => s.putGroup g { gr with image := s.ctxPlace (s.sliceOf gr) (ctxBytes gr.vgran gr.divd (s.ctxQuota gr)) }

/-- A group's state is written to its image, encrypted under the VF's key (R290, R303). -/
def State.writeImage (s : State) (g : Nat) : State :=
  match s.group g with
  | none => s
  | some gr =>
    match gr.image with
    | none => s
    | some a =>
      let bs := s.image gr s.free
      ({ s with free := s.free + 8 }.writeBy (some (s.jobVf gr)) a bs).linesWritten (linesOf a bs.length)

/-- The images of the groups that a condition names are written. -/
def State.writeImages (s : State) (p : Nat → Group → Bool) : State :=
  ((s.groups.filter (fun e => p e.1 e.2)).map Prod.fst).foldl State.writeImage s

/-- The n bytes of a sealed text: an uninterpreted function of the use, the key and the content; the manual names no layout of what is sealed (log 135). -/
def sealedBy (tag : Nat) (key : List Byte) (content : List Byte) (n : Nat) : List Byte :=
  (List.range n).map (fun i => (Config.crypto tag (key ++ leBytes 8 i ++ content)).headD 0)

/-- A group's state is written to its image, sealed under a slice key (R464, R491). -/
def State.sealImage (s : State) (key : BitVec 512) (g : Nat) : State :=
  match s.group g with
  | none => s
  | some gr =>
    match gr.image with
    | none => s
    | some a =>
      let bs := s.image gr s.free
      ({ s with free := s.free + 8 }.writeBytes a (sealedBy 14 (leBytes 64 key.toNat) bs bs.length)).linesWritten (linesOf a bs.length)

/-- The state of a slice's groups is written to its context region, sealed under the slice key (R464 step 6). -/
def State.sealImages (s : State) (i : Nat) : State :=
  ((s.groups.filter (fun e => !e.2.priv && s.sliceOf e.2 == i)).map Prod.fst).foldl (fun t g => t.sealImage ((s.slice i).key.getD 0) g) s

/-- The images of a slice's groups are placed and written anew in its context region (R464, R465). -/
def State.placeImages (s : State) (i : Nat) : State :=
  let gs := (s.groups.filter (fun e => s.sliceOf e.2 == i && !e.2.priv)).map Prod.fst
  let s1 : State := { s with groups := s.groups.map (fun e => if gs.contains e.1 then (e.1, { e.2 with image := none }) else e) }
  gs.foldl (fun t g => (t.takeImage g).writeImage g) s1

end Sys2Proof.Machine
end

