-- ==== Sys2Proof/Machine/Issue.lean ====
section
/-! DEFINITION. What surrounds the execution of an instruction: the start of an issue (fetch, decode, path switch), and the
placing of one instruction word where the machine fetches next. -/

namespace Sys2Proof.Machine

/-- Is the thread held at its instruction: at a barrier (out of its handler also at one in which it had parked), at a rendezvous, by a drain, or
until its witness is satisfied (R214, R267, R347, R349, R369)?
What else it has waited for is looked at again when its path is (R174). -/
def Lane.held (l : Lane) : Bool :=
  l.bar.isSome || (!l.inHandler && l.barLate != []) || (match l.wait with | .witness | .gang | .drain _ => true | _ => false)

/-- The lanes of a pick that run at its pc and are not held. -/
def Issue.live (iss : Issue) (gr : Group) : List Nat :=
  (List.range 32).filter (fun i => iss.lanes.getLsbD i && (gr.lane i).run == .running && (gr.lane i).pc == iss.pc && !(gr.lane i).held)

/-- A mask of lanes. -/
def laneMask (ps : List Nat) : BitVec 32 := ps.foldl (fun m i => m ||| (1 <<< i)) 0

/-- A path switch clears the latches (R31, R177). -/
def Group.switchTo (gr : Group) (m : BitVec 32) : Group :=
  if gr.path = m then gr else { gr with path := m, latch := [] }

/-- The group serves a path: its turn goes on, or a new one begins with a fresh quantum (R175, R176). -/
def Group.serve (gr : Group) (m : BitVec 32) : Group :=
  if gr.turn = m ∧ gr.quantum ≠ 0 then gr
  else
    { gr with turn := m, quantum := gr.pathq.toNat, turnNo := gr.turnNo + 1,
              lanes := mapLanes (fun i l => if m.getLsbD i then { l with served := gr.turnNo + 1 } else l) 0 gr.lanes }

/-- The group as the issue of a pick finds it: the second instruction of a pair is no new choice of a path (R69, R176, R177). -/
def Group.toIssue (gr : Group) (iss : Issue) (m : BitVec 32) : Group :=
  if iss.second then { gr with path := m } else (gr.serve m).switchTo m

/-- The passing threads of a word whose opcode is no instruction: reason 1 of R73, or every running thread when the guard itself
fails check 3 (R74). -/
def Group.illop1 (gr : Group) (iss : Issue) (w : W96) : Group :=
  let h := fieldsH w
  let path := iss.path gr
  let g := h.greg.toNat
  let ok := if g < 256 then decide (g < 8 * gr.vgran) else if g < 384 then decide (g - 256 < 8 * gr.sgran) else g == 511
  let ps := if ok then path.filter (gr.guard h) else path
  (gr.park ps (checkFault 1 iss.pc)).advance (iss.past (fld 10 86 w)) path

/-- What the start of an issue comes to: an instruction to execute, a word that is none and has been dealt with, or nothing issued. -/
inductive Started where
  | run (s : State) (i : Instr) (second : Option Issue)
  | none (s : State) (second : Option Issue)
  | done (s : State)

/-- The second instruction of a pair, for the threads that stand at it after the first; none for a pair that R70 forbids. -/
def Issue.follower (iss : Issue) (op : BitVec 10) : Option Issue :=
  if iss.first && !iss.badPair op then some { iss with pc := nextPc iss.pc, first := false, second := true } else none

/-- Does a thread that has issued nothing stand at the ENTRY of its block: is its fetch that of a transfer to ENTRY (R85)? -/
def State.atEntry (s : State) (gr : Group) (i : Nat) (pc : W64) : Bool :=
  (gr.lane i).issued == 0 && !(gr.lane i).inHandler && (match s.block gr.blk with | some b => b.entry == pc | none => false)

/-- The line of an issue: at the ENTRY of its block a thread's first fetch has the checks of a transfer (R48, R85). -/
def State.issueLine (s : State) (gr : Group) (i : Nat) (pc : W64) : State × Fetched :=
  if s.atEntry gr i pc then
    let e := s.enter gr pc false
    (e.1, match e.2 with
      | .ok d => .line d
      | .badTarget => .bad 0x03 0 false
      | .ask fa => .ask fa
      | .bad c x ex => .bad c x ex)
  else s.fetch gr pc

/-! ### Witness arrivals of a cycle (R365) -/

/-- The slot an instruction names, as its group reaches it. -/
def State.slotKeyOf (s : State) (gr : Group) (f : FmtS) : Nat := s.barKey gr f.imm.toNat

/-- Satisfied for a VF at a core (R211). -/
def State.satBy (s : State) (vf core : Nat) (w : W64) : Sat :=
  let sl := s.vfSlice vf
  if wKind w = 3 then
    if 8 ≤ genAge (s.genAt core sl) w then .stale
    else match s.future (some vf) w with
      | .bad => .future
      | .open_ => .no
      | .standIn c => s.satPlain sl core true c
  else s.satPlain sl core true w

/-- The core at which a slot's arrivals are judged. -/
def barCore (key : Nat) : Nat := if slotHome key < 16384 then slotHome key / 64 else
  let c := (slotHome key - 16384) / 16
  c / 13 * 49 + c % 13 * 4

/-- The pending arrivals of a slot whose witnesses are satisfied land; a `barw` that waits for room looks again (R365, R371). -/
def State.landArrivals (s : State) (key : Nat) : State :=
  match Store.find s.bars key with
  | none => s
  | some b =>
    let p := b.pend.partition (fun e => s.satBy e.1 (barCore key) e.2 == .yes)
    if p.1 = [] then s
    else (p.1.foldl (fun (t : State) _ => t.barEvent key BarSlot.witArrived) { s with bars := Store.upd s.bars key (fun x => { x with pend := p.2 }) }).wakeAll .barrier

/-- Witness arrivals stand before the thread arrivals, `bini`, `binv` and `bqry` of a cycle (R365): those satisfied land before one issues. -/
def State.landed (s : State) (gr : Group) (i : Instr) : State :=
  match i with
  | .barr f | .bini f | .binv f | .bqry f => s.landArrivals (s.slotKeyOf gr f)
  | _ => s

/-- Start the first pick of the queue (R45–R48, R69, R73): the threads of the pick that still stand at its pc fetch their
line; the slot is decoded. -/
def State.startIssue (s : State) (iss : Issue) : Started :=
  match s.group iss.g with
  | Option.none => .done s
  | some gr =>
    match iss.live gr with
    | [] => .done s
    | p :: rest =>
      let m := laneMask (p :: rest)
      let gr1 := gr.toIssue iss m
      let r := s.issueLine gr1 p iss.pc
      let k := (iss.pc.extractLsb' 0 3).toNat
      match r.2 with
      | .bad c x e => .done (r.1.putGroup iss.g (gr1.park (p :: rest) (fetchFault c x e iss.pc)))
      | .ask fa => .done (r.1.awaitLine iss.g gr (p :: rest) fa)
      | .line d =>
        if 4 < k ∨ iss.pc.extractLsb' 3 3 ≠ 0 then .done (r.1.putGroup iss.g (gr1.park (p :: rest) (preciseFault 0x03 0 iss.pc)))
        else
          let w := lineSlot d k
          let iss' : Issue := { iss with lanes := m, first := linePair d k && !iss.second, other := fld 10 86 (lineSlot d (k + 1)) }
          let gr' := gr1.hold iss.pc d
          let s' := { r.1.putGroup iss.g gr' with cur := some iss' }
          match decode w with
          | .error _ => .none (s'.putGroup iss.g (gr'.illop1 iss' w)) (iss'.follower (fld 10 86 w))
          | .ok i => .run (s'.landed gr' i) i (iss'.follower (opcode i))

/-- A second instruction that the next cycle would have issued first does not follow a first that has not issued (R69, R305). -/
def State.uncarry (s : State) (core g : Nat) : State := s.updCore core (fun c => { c with carry := c.carry.filter (fun e => e.1 != g) })

/-- Does the next cycle issue the group's second instruction first (R69, R305)? -/
def State.carried (s : State) (core g : Nat) : Bool := (s.core core).carry.any (fun e => e.1 == g)

/-- The second instruction of a pair issues next (R69). -/
def State.queueFirst (s : State) (iss : Option Issue) : State :=
  match iss with
  | none => s
  | some x => { s with issueQ := x :: s.issueQ }

/-- The tenant of a group has its counter changed by `d` (R305). -/
def State.charge (s : State) (core : Nat) (vf : Nat) (d : Int) : State :=
  s.updCore core (fun c => { c with tenants := c.tenants.map (fun t => if t.vf = vf then { t with c := t.c + d } else t) })

/-- The tenant number under which a group issues: 511 for the firmware block (R305). -/
def State.tenantOf (s : State) (gr : Group) : Nat := (s.vfOf gr).getD 511

/-- Does the thread stand at the pick's pc with what it waits for still to come, so that it has not issued? -/
def Issue.waits (iss : Issue) (gr : Group) (i : Nat) : Bool :=
  (gr.lane i).run == .running && (gr.lane i).pc == iss.pc && (gr.lane i).bar.isNone &&
  (match (gr.lane i).wait with | .none | .gang | .drain _ => false | _ => true)

/-- Has the pick only come to wait? -/
def Issue.onlyWaits (iss : Issue) (gr : Group) : Bool := iss.lanes != 0 && (List.range 32).all (fun i => !iss.lanes.getLsbD i || iss.waits gr i)

/-- The threads of the pick that stay at the first instruction of a pair until its operation goes on (R347, R349). -/
def Issue.keeps (iss : Issue) (gr : Group) : BitVec 32 :=
  laneMask ((List.range 32).filter (fun i => iss.lanes.getLsbD i && (gr.lane i).run == .running && (gr.lane i).pc == iss.pc &&
    (match (gr.lane i).wait with | .gang | .drain _ => true | _ => false)))

/-- The threads of the pick that run at an address. -/
def Issue.at_ (iss : Issue) (gr : Group) (pc : W64) : BitVec 32 :=
  laneMask ((List.range 32).filter (fun i => iss.lanes.getLsbD i && (gr.lane i).run == .running && (gr.lane i).pc == pc && !(gr.lane i).held))

/-- A pick that came to wait has not issued: the latches of its group are as they were (R174, R177), the turn ends, since its path is not ready
(R175), and the cycle counts as waited (R42). -/
def Group.unissued (gr0 gr : Group) : Group :=
  { gr with path := gr0.path, latch := gr0.latch, turn := gr0.turn, quantum := 0, turnNo := gr0.turnNo, stallc := gr.stallc + 1,
            lanes := mapLanes (fun i l => { l with served := (gr0.lane i).served }) 0 gr.lanes }

/-- The close of a pick that the group `gr0` met. One that has issued takes one from its path's quantum and its tenant's counter and is counted
(R175, R305, R469); after the first of a pair the threads at the second, or held in the first, are between the two, and after the second those
that have still to issue it. A second that the next cycle issues first does not follow at once (R69, R305). -/
def State.closeIssue (s : State) (gr0 : Group) (iss : Issue) (second : Option Issue) : State :=
  match s.group iss.g with
  | none => s.queueFirst second
  | some gr =>
    if iss.onlyWaits gr then (s.putGroup iss.g (gr0.unissued gr)).uncarry gr.core iss.g
    else
      let s := s.dropAside (grpG iss.g)
      let mid := match second with
        | some x => iss.at_ gr x.pc ||| iss.keeps gr
        | none => if iss.second then iss.at_ gr iss.pc else gr.mid
      let s1 := (s.putGroup iss.g { gr with quantum := gr.quantum - 1, mid := mid }).charge gr.core (s.tenantOf gr) (-1)
      (if gr.priv then s1 else s1.meterAdd (s.tenantOf gr) 0 1).queueFirst (if s.carried gr.core iss.g then none else second)

/-- The outcome of a pick, closed. -/
def afterIssue (gr0 : Group) (iss : Issue) (second : Option Issue) (r : Host.Outcome State Fault Refusal) : Host.Outcome State Fault Refusal :=
  match r with
  | .next t => .next (t.closeIssue gr0 iss second)
  | .fault f => .fault f
  | .refused q => .refused q

/-! ### Placing a word -/

/-- The canonical nop (worked example of chapter 02). -/
def nopWord : W96 := 0x401FF0210842108400000000

/-- The line with `w` in slot 0, entered there, and nops in the other slots (R45). -/
def lineOf (w : W96) : BitVec 512 :=
  let p : BitVec 480 := nopWord ++ nopWord ++ nopWord ++ nopWord ++ w
  let par := (List.range 8).foldl (fun x j => x + onesCount 60 (p.extractLsb' (60 * j) 60).toNat % 2 * 2 ^ (24 + j)) 0
  (BitVec.ofNat 32 (par + 2 ^ 19)) ++ p

/-- Where the placed line stands: the lowest host page. -/
def placedPc : W64 := BitVec.ofNat 64 hostBase

/-- A firmware group whose 32 threads stand at the placed line. -/
def placedGroup : Group :=
  { blk := 0, groupid := 0, core := 48, st := .active, priv := true, vgran := 32, sgran := 16, divd := 64,
    lanes := (List.range 32).map (fun i => { run := .running, pc := placedPc, flt := FaultRec.atReset i }) }

/-- The state with the word placed in memory and a pick for it at the head of the issue queue. -/
def State.place (s : State) (w : W96) : State :=
  { (s.putGroup 0 placedGroup).writeBytes hostBase (leBytes 64 (lineOf w).toNat) with
    issueQ := [{ g := 0, lanes := 0xFFFFFFFF, pc := placedPc, first := false, second := false, other := 0 }] }

end Sys2Proof.Machine
end

