-- ==== Sys2Proof/Machine/MatMath.lean ====
section
/-! DEFINITION. The arithmetic of the matrix engine: operand tiles (R339), integer and float accumulation (R106, R107, R114),
scaled tiles (R108–R110), and the conversion and amax of a drain (R111, R112, R359). -/

namespace Sys2Proof.Machine

/-- Flags joined. -/
def joinFlags (l : List Flags) : Flags := l.foldl (· ||| ·) 0

/-- A store over keys 0 to n − 1 that lists no default. -/
def tabulate {β : Type} [DecidableEq β] (d : β) (n : Nat) (f : Nat → β) : Store β :=
  (List.range n).filterMap (fun i => if f i = d then none else some (i, f i))

/-- Element k of a row of an operand tile (R87, R339). -/
def tileElem (t : Ty) (d : Store Byte) (row k : Nat) : Nat :=
  let b (o : Nat) : Nat := (Store.get 0 d o).toNat
  match t.width with
  | 4 => b (128 * row + k / 2) / (if k % 2 = 1 then 16 else 1) % 16
  | 8 => b (128 * row + k)
  | _ => b (128 * row + 2 * k) + 256 * b (128 * row + 2 * k + 1)

/-- The integer value of an element. -/
def tileInt (t : Ty) (d : Store Byte) (row k : Nat) : Int := t.int (BitVec.ofNat 128 (tileElem t d row k))

/-- K of an element type (R337). -/
def mmaK (t : Ty) : Nat := match t.width with | 4 => 256 | 8 => 128 | _ => 64

/-- Elements of a quantisation group (R57). -/
def gszLen (g : BitVec 2) : Nat := match g.toNat with | 1 => 32 | 2 => 64 | _ => 128

/-- Planes of an asymmetric operation (R354). -/
def planes (t : Ty) (g : BitVec 2) : Nat := mmaK t / gszLen g

/-- Sum of a list of integers. -/
def sumInt (l : List Int) : Int := l.foldl (· + ·) 0

/-- Symmetric integer accumulation (R107): element i is (i / 64, i mod 64). -/
def mmaInt (t : Ty) (a b : Store Byte) (e : Store W32) : Store W32 :=
  tabulate 0 8192 (fun i =>
    Store.get 0 e i + BitVec.ofInt 32 (sumInt ((List.range (mmaK t)).map (fun k => tileInt t a (i / 64) k * tileInt t b (i % 64) k))))

/-- A zero-point byte (R339). -/
def zeroPoint (t : Ty) (q : Store Byte) (o : Nat) : Int := t.int (BitVec.ofNat 128 ((Store.get 0 q o).toNat % 2 ^ t.width))

/-- Plane g of an asymmetric operation (R106). -/
def mmaPlane (t : Ty) (gsz : BitVec 2) (a b q : Store Byte) (g : Nat) : Store W32 :=
  let n := gszLen gsz
  tabulate 0 8192 (fun i =>
    BitVec.ofInt 32 (sumInt ((List.range n).map (fun k =>
      (tileInt t a (i / 64) (g * n + k) - zeroPoint t q (8 * (i / 64) + g)) *
      (tileInt t b (i % 64) (g * n + k) - zeroPoint t q (0x400 + 8 * (i % 64) + g))))))

/-- One k-step of a float accumulation (R114): four exact products and c, rounded once. -/
def kStep (t : Ty) (a b : Store Byte) (m n : Nat) (c : Nat × Flags) (j : Nat) : Nat × Flags :=
  let ps := (List.range 4).map (fun x => ((t.dec (tileElem t a m (4 * j + x))).mul (t.dec (tileElem t b n (4 * j + x))),
    (t.dec (tileElem t a m (4 * j + x))).isSig || (t.dec (tileElem t b n (4 * j + x))).isSig))
  let cv := Ty.f32.dec c.1
  let r := Ty.f32.sumS .rne (cv.isSig || ps.any (fun p => p.1.2 || p.2)) (cv.sval :: ps.map (fun p => p.1.1))
  (r.1, c.2 ||| r.2)

/-- Float accumulation of one element (R114). -/
def mmaFloatElem (t : Ty) (a b : Store Byte) (c : W32) (m n : Nat) : Nat × Flags :=
  (List.range (mmaK t / 4)).foldl (kStep t a b m n) (c.toNat, 0)

/-- Float accumulation: elements and flags. -/
def mmaFloat (t : Ty) (a b : Store Byte) (e : Store W32) : Store W32 × Flags :=
  let r (i : Nat) : Nat × Flags := mmaFloatElem t a b (Store.get 0 e i) (i / 64) (i % 64)
  (tabulate 0 8192 (fun i => BitVec.ofNat 32 (r i).1), joinFlags ((List.range 8192).map (fun i => (r i).2)))

/-! ### Scaled tiles (R108–R110) -/

/-- An .f16 scale of a quantisation slot. -/
def scaleAt (q : Store Byte) (o : Nat) : FVal := Ty.f16.dec ((Store.get 0 q o).toNat + 256 * (Store.get 0 q (o + 1)).toNat)

/-- The product p of R109 for element (m, n) and group g: none when it is NaN or infinite. -/
def scaleProd (q : Store Byte) (m n g : Nat) : Option Term :=
  match (scaleAt q (0x800 + 2 * (8 * m + g))).mul (scaleAt q (0x1000 + 2 * (8 * n + g))) with
  | (.fin t, false) => some t
  | _ => none

/-- A signed integer rounded to the nearest multiple of 2^0 from v × 2^e, ties to even; and whether a bit was lost. -/
def rneInt (v : Int) (e : Int) : Int × Bool :=
  let r := roundTo .rne (decide (v < 0)) v.natAbs e false 0
  (if v < 0 then -(r.1 : Int) else r.1, r.2)

/-- The tile exponent after step 1 of R109. -/
def scaccExp (q : Store Byte) (np : Nat) (t : Option Int) : Option Int :=
  (List.range (8192 * np)).foldl (fun x i =>
    match scaleProd q (i / np / 64) (i / np % 64) (i % np) with
    | some p => if p.m = 0 then x else
        let e := (bitLen p.m : Int) - 1 + p.e
        (match x with | some y => some (max y e) | none => some e)
    | none => x) t

/-- What steps 1 to 3 of R109 make of one element: F, the marks, the flags. -/
structure ScElem where
  f   : BitVec 48
  sat : Bool
  nan : Bool
  fl  : Flags
  deriving DecidableEq, Repr

/-- One element of `scacc` (R109): `shift` is the rescale, `t` the new tile exponent, `pl` the planes. -/
def scaccElem (q : Store Byte) (pl : List (Store W32)) (old : Scaled) (shift : Nat) (t : Int) (i : Nat) : ScElem :=
  let m := i / 64
  let n := i % 64
  let f0 := Store.get 0 old.f i
  let sat0 := Store.get false old.sat i
  let nan0 := Store.get false old.nan i
  let r := rneInt f0.toInt (-(shift : Int))
  let f1 : Int := if sat0 || nan0 || shift == 0 then f0.toInt else r.1
  let fl1 := flagIf (!(sat0 || nan0 || shift == 0) && r.2) fIX
  let ps := (List.range pl.length).map (fun g => scaleProd q m n g)
  if ps.any Option.isNone then
    { f := BitVec.ofInt 48 f1, sat := sat0, nan := true, fl := fl1 ||| flagIf (!nan0) fIV }
  else if nan0 || sat0 then { f := BitVec.ofInt 48 f1, sat := sat0, nan := nan0, fl := fl1 }
  else
    let terms := (List.range pl.length).map (fun g =>
      match ps.getD g none with
      | some p => rneInt ((Store.get 0 (pl.getD g []) i).toInt * (if p.neg then -(p.m : Int) else p.m)) (p.e + 16 - t)
      | none => (0, false))
    let sum := f1 + sumInt (terms.map Prod.fst)
    let fl := fl1 ||| flagIf (terms.any Prod.snd) fIX
    if 2 ^ 47 - 1 < sum then { f := BitVec.ofInt 48 (2 ^ 47 - 1), sat := true, nan := false, fl := fl ||| fOF }
    else if sum < -2 ^ 47 then { f := BitVec.ofInt 48 (-2 ^ 47), sat := true, nan := false, fl := fl ||| fOF }
    else { f := BitVec.ofInt 48 sum, sat := false, nan := false, fl := fl }

/-- scacc on a tile (R109). -/
def scaccTile (q : Store Byte) (pl : List (Store W32)) (old : Scaled) : Scaled × Flags :=
  let tn := scaccExp q pl.length old.t
  let t := tn.getD 0
  let shift : Nat := match old.t with | some x => (t - x).toNat | none => 0
  let r := scaccElem q pl old shift t
  ({ f := tabulate 0 8192 (fun i => (r i).f), sat := tabulate false 8192 (fun i => (r i).sat),
     nan := tabulate false 8192 (fun i => (r i).nan), t := tn }, joinFlags ((List.range 8192).map (fun i => (r i).fl)))

/-! ### Draining (R111, R112) -/

/-- One element converted (R111). A NaN mark comes before a saturation mark, and an empty tile drains +0 whatever its marks (log 128). -/
def drainElem (u : AccUnit) (tag : Tag) (d : Ty) (rnd ovf : BitVec 2) (i : Nat) : Cv :=
  let e := Store.get 0 u.e i
  match tag with
  | .S =>
    match u.sc.t with
    | none => .ok 0 0
    | some t =>
      let f := Store.get 0 u.sc.f i
      if Store.get false u.sc.nan i then .ok (BitVec.ofNat 128 d.cnan) fIV
      else if Store.get false u.sc.sat i then d.policy ovf (decide (f.toInt < 0))
      else d.cvtFin (Rm.ofCode rnd) ovf (decide (f.toInt < 0)) f.toInt.natAbs (t - 16)
  | .F => d.cvtFF (Rm.ofCode rnd) ovf (Ty.f32.dec e.toNat)
  | .Z => .ok 0 0
  | _ => if d == .i32 then .ok (e.zeroExtend 128) 0
         else d.cvtFin (Rm.ofCode rnd) ovf (decide (e.toInt < 0)) e.toInt.natAbs 0

/-- Bits of a converted element, and its flags. -/
def Cv.bits : Cv → Nat
  | .ok v _ => v.toNat
  | .trap => 0
def Cv.flags : Cv → Flags
  | .ok _ f => f
  | .trap => 0

/-- The magnitude of an output for the amax, as .f32 bits: none for a NaN (R112). -/
def outAbs (d : Ty) (x : Nat) : Option Nat :=
  if d == .i32 then some (Ty.f32.arith .rup false (BitVec.ofNat 32 x).toInt.natAbs 0 false).1
  else match d.dec x with
    | .nan _ => none
    | .inf _ => some (Ty.f32.infBits false)
    | .fin _ m e => some (Ty.f32.arith .rup false m e false).1

/-- The amax of outputs: non-negative .f32 bits order as numbers (R112). -/
def amaxOf (d : Ty) (xs : List Nat) : Nat := xs.foldl (fun a x => match outAbs d x with | some v => max a v | none => a) 0

/-- The amax merge (R359). -/
def amaxMerge (old amax : Nat) : Nat :=
  match Ty.f32.dec old with
  | .nan _ => amax
  | _ => if 2 ^ 31 ≤ old ∨ old < amax then amax else old

end Sys2Proof.Machine
end

