-- ==== Sys2Proof/Machine/Control.lean ====
section
/-! DEFINITION. Control flow, divergence and reconvergence (chapter 06, opcodes 0x100–0x13F). -/

namespace Sys2Proof.Machine

/-- The threads of the path that are not in `ps` continue at Next(PC) (R183). -/
def State.skip (s : State) (iss : Issue) (path ps : List Nat) : State :=
  s.updGroup iss.g (fun gr => gr.advance iss (path.filter (fun i => !ps.contains i)))

/-- A control-flow instruction: `f` acts in each passing thread, in lane order; the others continue. -/
def control (i : Instr) (s : State) (f : Issue → Group → Nat → State → State) : Host.Outcome State Fault Refusal :=
  issueWith i false s (fun iss gr path ps s' => (s'.skip iss path ps).eachLane ps (f iss gr))

/-- Re-examine the regions and the barriers after threads have moved (R193). -/
def State.settle (s : State) (g : Nat) : State := s.updGroup g Group.release

/-- nop (R184). -/
def execNop (f : FmtG) (s : State) : Host.Outcome State Fault Refusal :=
  issueWith (.nop f) false s (fun iss _ path _ s' => s'.updGroup iss.g (fun gr => gr.advance iss path))

/-- bra (R185). -/
def execBra (f : FmtJ) (s : State) : Host.Outcome State Fault Refusal :=
  control (.bra f) s (fun iss _ i s' => s'.transfer iss.g i iss.pc (jTarget f iss.pc) id)

/-- The target register pair of brx and callx, read before the instruction takes effect. -/
def regTarget (f : FmtG) (gr : Group) (i : Nat) : W64 := gr.src64 i f.a

/-- brx (R187). -/
def execBrx (f : FmtG) (s : State) : Host.Outcome State Fault Refusal :=
  control (.brx f) s (fun iss gr i s' => s'.transfer iss.g i iss.pc (regTarget f gr i) id)

/-- dbra in one thread with a vector counter (R186): a target that fails any step of R48 parks the thread with BADTARGET at the dbra, its
counter unchanged (log 110). -/
def dbraLane (f : FmtJ) (n : Nat) (iss : Issue) (gr : Group) (i : Nat) (s : State) : State :=
  let c := (gr.lane i).rd n - 1
  if c ≠ 0 then
    match s.group iss.g with
    | none => s
    | some g1 =>
      let r := s.enter g1 (jTarget f iss.pc) false
      match r.2 with
      | .ok d => r.1.putGroup iss.g ((g1.hold (jTarget f iss.pc) d).upd [i] (fun _ l => (l.setReg n c).goTo (jTarget f iss.pc)))
      | .ask fa => r.1.awaitLine iss.g g1 [i] fa
      | _ => r.1.putGroup iss.g (g1.park [i] (preciseFault 0x03 0 iss.pc))
  else s.updGroup iss.g (fun g1 => g1.upd [i] (fun _ l => (l.setReg n c).goTo (nextPc iss.pc)))

/-- dbra with a scalar counter (R186): one decrement and one decision for the path. -/
def dbraPath (f : FmtJ) (n : Nat) (iss : Issue) (gr : Group) (ps : List Nat) (s : State) : State :=
  let c := gr.rd n - 1
  match s.group iss.g with
  | none => s
  | some g1 =>
    if c ≠ 0 then
      let t := jTarget f iss.pc
      let r := s.enter g1 t false
      match r.2 with
      | .ok d => r.1.putGroup iss.g (((g1.hold t d).setReg n c).upd ps (fun _ l => l.goTo t))
      | .ask fa => r.1.awaitLine iss.g g1 ps fa
      | _ => r.1.putGroup iss.g (g1.park ps (preciseFault 0x03 0 iss.pc))
    else s.putGroup iss.g ((g1.setReg n c).upd ps (fun _ l => l.goTo (nextPc iss.pc)))

/-- dbra (R186). -/
def execDbra (f : FmtJ) (s : State) : Host.Outcome State Fault Refusal :=
  issueWith (.dbra f) (isScalSpec f.h.dst) s (fun iss gr path ps s' =>
    let s1 := s'.skip iss path ps
    match Operand.ofSpec f.h.dst with
    | .sreg n => dbraPath f n iss gr ps s1
    | .vreg n => s1.eachLane ps (dbraLane f n iss gr)
    | _ => s1)

/-- MARK of a procedure mark: a nop whose MOD bits 5:0 are 1–32 (R81). -/
def markOf (w : W96) : Option Nat :=
  match decode w with
  | .ok (.nop f) => if 1 ≤ f.md.toNat ∧ f.md.toNat ≤ 32 then some f.md.toNat else none
  | _ => none

/-- call and callx in one thread (R188). -/
def callLane (iss : Issue) (i : Nat) (t : W64) (s : State) : State :=
  match s.group iss.g with
  | none => s
  | some gr =>
    let l := gr.lane i
    let push : Lane → Lane := fun l => { l with stack := .call (nextPc iss.pc) :: l.stack }
    if gr.divd ≤ l.stack.length then s.putGroup iss.g (gr.park [i] (preciseFault 0x06 0 iss.pc))
    else
      let r := s.enter gr t false
      match r.2 with
      | .badTarget => r.1.putGroup iss.g (gr.park [i] (preciseFault 0x03 0 iss.pc))
      | .ask fa => r.1.awaitLine iss.g gr [i] fa
      | .bad c x e => r.1.putGroup iss.g ((gr.upd [i] (fun _ l => (push l).goTo t)).park [i] (fetchFault c x e t))
      | .ok d =>
        match markOf (lineSlot d (t.extractLsb' 0 3).toNat) with
        | some m =>
          if gr.vgran < m then r.1.putGroup iss.g ((gr.hold t d).park [i] (preciseFault 0x05 (BitVec.ofNat 32 m) iss.pc))
          else r.1.putGroup iss.g ((gr.hold t d).upd [i] (fun _ l => (push l).goTo t))
        | none => r.1.putGroup iss.g ((gr.hold t d).upd [i] (fun _ l => (push l).goTo t))

def execCall (f : FmtJ) (s : State) : Host.Outcome State Fault Refusal :=
  control (.call f) s (fun iss _ i s' => callLane iss i (jTarget f iss.pc) s')
def execCallx (f : FmtG) (s : State) : Host.Outcome State Fault Refusal :=
  control (.callx f) s (fun iss gr i s' => callLane iss i (regTarget f gr i) s')

/-- The stack below the topmost call entry, and that entry's address (R190). -/
def popToCall : List ConvEntry → Option (W64 × List ConvEntry)
  | [] => none
  | .call a :: rest => some (a, rest)
  | .region _ _ :: rest => popToCall rest

/-- ret in one thread (R190). -/
def retLane (iss : Issue) (gr : Group) (i : Nat) (s : State) : State :=
  match popToCall (gr.lane i).stack with
  | none => s.updGroup iss.g (fun g1 => g1.park [i] (preciseFault 0x01 10 iss.pc))
  | some (a, rest) => s.transfer iss.g i iss.pc a (fun l => { l with stack := rest })

def execRet (f : FmtG) (s : State) : Host.Outcome State Fault Refusal :=
  issueWith (.ret f) false s (fun iss gr path ps s' =>
    ((s'.skip iss path ps).eachLane ps (retLane iss gr)).settle iss.g)

/-- rgn in one thread (R191): an illegal TSLOT is tested before the depth of the stack (log 151). -/
def rgnLane (f : FmtJ) (iss : Issue) (gr : Group) (i : Nat) (l : Lane) : Lane :=
  if 4 < f.tslot.toNat then l.park i gr.trapvec (preciseFault 0x03 0 iss.pc)
  else if gr.divd ≤ l.stack.length then l.park i gr.trapvec (preciseFault 0x06 0 iss.pc)
  else { l.goTo (nextPc iss.pc) with stack := .region (f.md.extractLsb' 0 16) (jTarget f iss.pc) :: l.stack }

def execRgn (f : FmtJ) (s : State) : Host.Outcome State Fault Refusal :=
  control (.rgn f) s (fun iss gr i s' => s'.updGroup iss.g (fun g1 => g1.upd [i] (rgnLane f iss gr)))

/-- join in one thread (R192). -/
def joinLane (x : W16) (iss : Issue) (_ : Nat) (l : Lane) : Lane :=
  match l.stack with
  | .region y _ :: rest =>
    if y = x then { l with stack := rest, run := .waiting, awaiting := x, issued := l.issued + 1, wait := .none, exempt := false }
    else l.goTo (nextPc iss.pc)
  | _ => l.goTo (nextPc iss.pc)

def execJoin (f : FmtG) (s : State) : Host.Outcome State Fault Refusal :=
  issueWith (.join f) false s (fun iss _ path ps s' =>
    (s'.skip iss path ps).updGroup iss.g (fun g1 => (g1.upd ps (joinLane (f.md.extractLsb' 0 16) iss)).release))

/-- The N-th region entry and the stack below it; none when fewer than N entries or one of them is a call (R194). -/
def popRegions : Nat → List ConvEntry → Option (W16 × W64 × List ConvEntry)
  | 1, .region x a :: rest => some (x, a, rest)
  | n + 1, .region _ _ :: rest => popRegions n rest
  | _, _ => none

/-- brk in one thread (R194): it waits at the join of the outermost region left. -/
def brkLane (n : Nat) (iss : Issue) (gr : Group) (i : Nat) (l : Lane) : Lane :=
  match popRegions n l.stack with
  | some (x, a, rest) => { l.goTo a with stack := rest, run := .waiting, awaiting := x }
  | none => l.park i gr.trapvec (preciseFault 0x01 11 iss.pc)

def execBrk (f : FmtG) (s : State) : Host.Outcome State Fault Refusal :=
  issueWith (.brk f) false s (fun iss gr path ps s' =>
    (s'.skip iss path ps).updGroup iss.g (fun g1 => (g1.upd ps (brkLane f.md.toNat iss gr)).release))

/-- exit (R196). -/
def execExit (f : FmtG) (s : State) : Host.Outcome State Fault Refusal :=
  issueWith (.exit f) false s (fun iss _ path ps s' =>
    ((s'.skip iss path ps).updGroup iss.g (fun g1 => g1.upd ps (fun _ l => { l with issued := l.issued + 1 }))).exitLanes iss.g ps)

/-- The oldest of the groups of a list that meet a condition (R301: by the order of admission). -/
def State.oldest (s : State) (p : Nat → Group → Bool) : Option Nat :=
  (s.groups.filter (fun e => p e.1 e.2)).foldl
    (fun o e => match o with
      | none => some e.1
      | some g => match s.group g with
        | some x => if e.2.age < x.age then some e.1 else some g
        | none => some e.1) none

/-- The QUOTA of a group's block. -/
def State.quotaOf (s : State) (gr : Group) : Nat := match s.block gr.blk with | some b => b.quota | none => 0

/-- Move a group out of the active set (R298, R300): its latches are cleared (R31) and its queues spill (R311). -/
def State.swapOut (s : State) (g : Nat) : State :=
  match s.group g with
  | none => s
  | some gr =>
    (s.putGroup g { gr with st := .pending, latch := [], path := 0, turn := 0, waited := 0,
                            oq := leaveQueues (ringCap (s.quotaOf gr)) gr.oq }).updCore gr.core
      (fun c => { c with active := c.active.filter (· != g) })

/-- Move a pending group into the active set (R298, R301). -/
def State.swapIn (s : State) (g : Nat) : State :=
  match s.group g with
  | none => s
  | some gr => (s.putGroup g { gr with st := .active, waited := 0, oq := drainRing gr.oq (gr.oq.map OpQueue.back) }).updCore gr.core
      (fun c => { c with active := c.active ++ [g] })

/-- trap and bkpt (R198): every passing thread parks with a pc of Next(PC). -/
def trapGroup (code : Byte) (extra : W32) (iss : Issue) (path ps : List Nat) (gr : Group) : Group :=
  (gr.park ps { preciseFault code extra (nextPc iss.pc) with }).advance iss path

def execTrap (f : FmtG) (s : State) : Host.Outcome State Fault Refusal :=
  issueWith (.trap f) false s (fun iss _ path ps s' =>
    s'.updGroup iss.g (trapGroup 0x61 (0x10000 ||| (f.md.extractLsb' 0 16).zeroExtend 32) iss path ps))
def execBkpt (f : FmtG) (s : State) : Host.Outcome State Fault Refusal :=
  issueWith (.bkpt f) false s (fun iss _ path ps s' =>
    s'.updGroup iss.g (trapGroup 0x18 (0xF0000 ||| (f.md.extractLsb' 0 16).zeroExtend 32) iss path ps))

end Sys2Proof.Machine
end

