-- ==== Sys2Proof/Machine/Engine.lean ====
section
/-! DEFINITION. Copy engines (R328–R336, R446, R447): slots and futures, the element walk, job cards, what one step of a job writes,
and how a job ends; and what the end of an entry does to its queue (R436, R438). -/

namespace Sys2Proof.Machine

/-! ### The end of a queue entry (R436, R438) -/

/-- The slice of a command processor, by the slice rows (R455: each slice has its own). -/
def State.cpSlice (s : State) (c : Nat) : Nat :=
  match s.slices.find? (fun e => e.2.st != .free && e.2.cpn.toNat == c) with
  | some e => e.1
  | none => 16

/-- Join of two witnesses that need no waiting, at a core (R213): one of an earlier generation counts as null. -/
def State.joinPlain (s : State) (sl core : Nat) (a b : W64) : W64 :=
  let n (w : W64) : W64 := if wKind w = 0 ∨ wKind w = 3 ∨ genAge (s.genAt core sl) w ≠ 0 then 0 else w
  s.join2 sl core (n a) (n b)

/-- A queue. -/
def State.queue (s : State) (c q : Nat) : Queue := Store.get {} (s.cp c).queues q
/-- Change a queue. -/
def State.updQueue (s : State) (c q : Nat) (f : Queue → Queue) : State :=
  s.updCp c (fun x => { x with queues := Store.set {} x.queues q (f (Store.get {} x.queues q)) })

/-- An entry of a queue completes (R436, R438): DONE counts it and its completion witness waits for a SIGNAL with WIT. A Waiting or Spilled queue
whose WAIT completes goes to Active while an entry is begun. When no begun entry is left a refill follows at once, which finds the next entry and
takes the queue to Ready or Idle (R435). `wait` says that the entry is the WAIT. -/
def State.entryDone (s : State) (c q n : Nat) (failed wait : Bool) (w : W64) : State :=
  let wits := s.joinPlain (s.cpSlice c) (fwCore (c / 4)) (s.queue c q).wits w
  let t := s.updQueue c q (fun x =>
    let begun := x.begun.filter (fun b => b.n != n)
    let leave : QSt := if begun ≠ [] then .active else if x.head.isSome then .ready else .active
    { x with
      begun := begun, done := x.done + 1, lost := [], failed := x.failed || failed, wits := wits,
      timedout := begun.any (fun b => b.timedout),
      st := if x.st = .active ∨ (wait ∧ (x.st = .waiting ∨ x.st = .spilled)) then leave else x.st })
  if (t.queue c q).begun = [] ∧ c < 16 ∧ q < 512 then { t with inbox := .queueRefill c q :: t.inbox } else t

/-- The elements of a list in the order of their first places. -/
def firsts (l : List Nat) : List Nat := l.foldl (fun xs x => if xs.contains x then xs else xs ++ [x]) []

/-! ### Slots and futures (R328) -/

/-- The core for which a job's witnesses are judged and joined (R532): the issuing core for a streamer, core 48 of its die for a bulk
engine. -/
def Job.judge (j : Job) : Nat := if j.eng < 96 then fwCore (j.eng / 24) else j.eng - 96

/-- ENGINE and the base and number of SLOTs of an engine. -/
def engCode (eng : Nat) : Nat := if eng < 96 then eng else 0x60 + (eng - 96) / 49
def slotBase (eng : Nat) : Nat := if eng < 96 then 0 else (eng - 96) % 49 * 1024
def slotCount (eng : Nat) : Nat := if eng < 96 then 4096 else 256

/-- The lowest free slot of an engine. -/
def State.freeSlot (s : State) (eng : Nat) : Option Nat :=
  ((List.range (slotCount eng)).find? (fun k =>
    match Store.find s.slots (slotKey (engCode eng) (slotBase eng + k)) with
    | none => true
    | some x => x.comp.isSome)).map (fun k => slotBase eng + k)

/-- Accept a job in a slot (R328): the slot's sequence number rises; the future is answered. A job without an element completes at
once with a null stand-in (R331). -/
def State.accept (s : State) (slot : Nat) (j : Job) : State × W64 :=
  let key := slotKey (engCode j.eng) slot
  let old : JobSlot := (Store.find s.slots key).getD { seq := 0, vf := j.vf, comp := some 0, retire := [] }
  let seq := old.seq + 1
  let done := decide (j.total = 0)
  let sl : JobSlot := { seq := seq, vf := j.vf, comp := if done then some 0 else none, retire := old.retire }
  let s1 := { s with slots := Store.put s.slots key sl }
  let s2 := if done then s1 else { s1 with jobs := Store.put s1.jobs s.nextJob { j with slot := slot, seq := seq }, nextJob := s.nextJob + 1 }
  (s2, mkFuture j.scope (s.genAt j.judge j.slice) (engCode j.eng) slot seq)

/-- Jobs accepted on an engine and not completed. -/
def State.engJobs (s : State) (eng : Nat) : Nat := (s.jobs.filter (fun e => e.2.eng == eng)).length

/-! ### The walk (R331, R446) -/

/-- The index of element n per dimension, dimension 0 first and fastest. -/
def digits : List Nat → Nat → List Nat
  | [], _ => []
  | c :: cs, n => n % c :: digits cs (n / c)

/-- Sum of index times stride. -/
def dotStride : List Nat → List W64 → W64
  | i :: is, x :: xs => BitVec.ofNat 64 i * x + dotStride is xs
  | _, _ => 0

/-- Global address of element n: the source of `cpy`, `cpyg` and bulk jobs, the destination of `cpyo`. -/
def Job.gAddr (j : Job) (n : Nat) : W64 :=
  match digits j.counts n with
  | [] => j.base
  | i0 :: rest =>
    let off := BitVec.ofNat 64 (i0 * j.w)
    if j.bt then j.table.getD (rest.getD (rest.length - 1) 0) 0 + off + dotStride (rest.take (rest.length - 1)) j.gstr
    else j.base + off + dotStride rest j.gstr

/-- Address of element n on the other side: scratchpad, or the global destination of `cpyg` and bulk jobs. -/
def Job.sAddr (j : Job) (n : Nat) : W64 :=
  match digits j.counts n with
  | [] => j.sbase
  | i0 :: rest => j.sbase + BitVec.ofNat 64 (i0 * j.w) + dotStride rest j.sstr

/-- Is it a job of R446? -/
def Job.isBulk (j : Job) : Bool := match j.kind with | .bulk _ => true | _ => false

/-- Does the job run on a bulk engine: a job of R446, or a `cpyg` (R328)? -/
def Job.onBulk (j : Job) : Bool := decide (j.eng < 96)

/-- Elements moved in one step: one, or, for a bulk job, the bytes up to the end of the row or of a 16-byte unit of the destination. -/
def Job.piece (j : Job) (n : Nat) : Nat :=
  if j.isBulk then
    let row := j.counts.headD 1
    min (row - n % row) (16 - (j.sAddr n).toNat % 16)
  else 1

/-! ### Job cards (R333) -/

/-- Do two lists of intervals meet? -/
def meets (a b : List (Nat × Nat)) : Bool := a.any (fun x => b.any (fun y => decide (x.1 < y.2) && decide (y.1 < x.2)))

/-- Must the job wait for the earlier job `k`? -/
def Job.edge (j k : Job) : Bool :=
  meets j.rg k.wg || meets j.rs k.ws || meets j.wg k.rg || meets j.ws k.rs || meets j.wg k.wg || meets j.ws k.ws

/-- Has the job an unmet edge? -/
def State.hasEdge (s : State) (jk : Nat) (j : Job) : Bool :=
  s.jobs.any (fun e => decide (e.1 < jk) && e.2.eng == j.eng && e.2.vf == j.vf && j.edge e.2)

/-! ### One step of a job -/

/-- Requests that an engine has with the fabric carry this group number (R519). -/
def engG (jk : Nat) : Nat := 2 ^ 40 + jk

/-- What translating an address of a job gives: a stage-1 table may lie on a coherent line that must come first (R270). -/
inductive JTr where
  | ok (t : Tr)
  | ask (fa : Nat)
  | lost
  deriving DecidableEq, Repr

/-- Does a page admit a read or a write of a VF (R271, R486)? -/
def State.admits (s : State) (vf : Nat) (t : Tr) (write : Bool) : Bool :=
  (if write then t.w else t.r) && !(decide (hostBase ≤ t.pa) && !t.coh && s.tstate vf == 3)

/-- Does the job address memory physically: one of firmware (R446)? -/
def Job.physical (j : Job) : Bool := j.phys || j.vf == fwVf

/-- Translate an address of a job (R335, R446, R486). -/
def State.jobTr (s : State) (j : Job) (va : W64) (write : Bool) : JTr :=
  if j.physical then
    if s.backed va.toNat then
      .ok { pa := va.toNat, gpa := va.toNat, size := 4096, s1 := 4096, s2 := 4096, r := true, w := true, coh := false, rchk := false, shost := false }
    else .lost
  else
    match s.walk j.vf va with
    | .error x => (match x.ask with | some fa => .ask fa | none => .lost)
    | .ok t => if s.admits j.vf t write then .ok t else .lost

/-- What reading the source of a step gives: bytes with their poison, a coherent line that is not held, or a lost page. -/
inductive JSrc where
  | bytes (bs : List (Byte × Bool))
  | ask (fa : Nat)
  | lost
  deriving DecidableEq, Repr

/-- The key under which a physical job reads, and the one under which it writes: with SPACE 1 the descriptor names them (R446, R492); a firmware
job without keys meets what lies in memory (log 119). -/
def Job.readKey (j : Job) : Option Nat := if j.phys then some j.skey else none
def Job.writeKey (j : Job) : Option Nat := if j.phys then some j.dkey else none

/-- The bytes of a global source of job `jk`, each translated. -/
def State.jobBytes (s : State) (jk : Nat) (j : Job) (va : W64) : Nat → JSrc
  | 0 => .bytes []
  | n + 1 =>
    match s.jobTr j va false with
    | .lost => .lost
    | .ask fa => .ask fa
    | .ok t =>
      match s.jobBytes jk j (va + 1) n with
      | .bytes bs =>
        if t.coh then
          (match s.unitLine (engG jk) j.slice j.vf t.pa with
           | some l => .bytes ((l.data.getD (t.pa % 128) 0, false) :: bs)
           | none => .ask t.pa)
        else .bytes (((if j.physical then s.bytesBy j.readKey t.pa 1 else s.bytes t.pa 1).headD 0, s.poisoned t.pa 1) :: bs)
      | r => r

/-- The bytes that a fill writes from `a` on: byte (a mod 8) of the pattern (R446). -/
def fillBytes (pat : W64) (a : Nat) (k : Nat) : List (Byte × Bool) :=
  (List.range k).map (fun i => (pat.extractLsb' (8 * ((a + i) % 8)) 8, false))

/-- The source of a step of `k` elements from n. -/
def State.jobSrc (s : State) (jk : Nat) (j : Job) (n k : Nat) : JSrc :=
  let b := k * j.w
  match j.kind with
  | .cpyo =>
    (match s.spLoc (j.blk.getD 0) j.core ((j.sAddr n).extractLsb' 0 32) b with
     | none => .lost
     | some (bk, i, off) =>
       match s.share bk i with
       | none => .lost
       | some sh => .bytes ((List.range b).map (fun x => (Store.get 0 sh.mem (off + x), Store.get false sh.poison (off + x)))))
  | .bulk _ => if j.mode = .fill then .bytes (fillBytes j.base (j.sAddr n).toNat b) else s.jobBytes jk j (j.gAddr n) b
  | _ => s.jobBytes jk j (j.gAddr n) b

/-- Change a job. -/
def State.updJob (s : State) (jk : Nat) (f : Job → Job) : State := { s with jobs := Store.upd s.jobs jk f }

/-- A write of a job has committed: its witness joins the completion witness (R334). -/
def State.jobWrote (s : State) (jk : Nat) (j : Job) (home stamp : Nat) : State :=
  let w := mkWit 1 (if j.isBulk then 5 else j.scope) (s.genOf j.slice) home stamp
  s.updJob jk (fun x => { x with wits := s.joinPlain j.slice j.judge x.wits w })

/-- Change a presence line. -/
def Share.setLine (sh : Share) (k : Nat) (f : SpLine → SpLine) : Share := { sh with lines := Store.set {} sh.lines k (f (sh.line k)) }

/-- The accesses of threads that wait for a line are performed once it is not Empty, in issue order (R324). -/
def State.performLine (s : State) (b i k : Nat) : State :=
  (s.reqs.filter (fun e => e.2.sp == some (b, i) && e.2.pa / 128 == k)).foldl (fun t e => t.performNow e.1) s

/-- A line leaves a count (R318): W is set when `w`. Accesses that wait for the line are performed, and copies that wait for room in PEND look
again. -/
def State.pendDone (s : State) (b i k : Nat) (w : Bool) : State :=
  (((s.updShare b i (fun sh => sh.setLine k (fun l => { w := l.w || w, pend := l.pend - 1 }))).wakeAll .engine).wakeAll .presence).performLine b i k

/-- Does an element of the job from n on write in the line? -/
def State.lineAhead (s : State) (j : Job) (n share line : Nat) : Bool :=
  (List.range (j.total - n)).any (fun d =>
    match s.spLoc (j.blk.getD 0) j.core ((j.sAddr (n + d)).extractLsb' 0 32) j.w with
    | some (_, i, off) => i == share && off / 128 == line
    | none => false)

/-- Write a scratchpad element: the byte values commit with one stamp, poisoned ones keep their poison (R318, R335). -/
def State.jobPutSp (s : State) (jk : Nat) (j : Job) (n : Nat) (bs : List (Byte × Bool)) : State :=
  match s.spLoc (j.blk.getD 0) j.core ((j.sAddr n).extractLsb' 0 32) j.w with
  | none => s
  | some (b, i, off) =>
    match s.share b i with
    | none => s
    | some sh =>
      let r := s.stamp j.slice (spHome sh.core) (s.presentedStamp j.slice j.wit)
      let s1 := r.1.updShare b i (fun sh =>
        let sh1 := sh.write off (bs.map Prod.fst)
        { sh1 with poison := (List.range bs.length).foldl (fun p x => Store.set false p (off + x) ((bs.getD x (0, false)).2)) sh1.poison })
      let s2 := (s1.jobWrote jk j (spHome sh.core) r.2).updJob jk (fun x => { x with wroteLines := (i, off / 128) :: x.wroteLines })
      if j.pendLines.contains (i, off / 128) && !s.lineAhead j (n + 1) i (off / 128) then
        (s2.pendDone b i (off / 128) true).updJob jk (fun x => { x with pendLines := x.pendLines.filter (· != (i, off / 128)) })
      else s2

/-- The scope of a job's writes. -/
def Job.wscope (j : Job) : BitVec 3 := if j.isBulk then 5 else j.scope

/-- An access of a job is checked for a race (R257). -/
def State.raceJob (s : State) (j : Job) (va : W64) (home : Nat) (rchk : Bool) (wrote : Option Nat) : State :=
  s.raceUnit j.vf j.slice j.judge j.wit va home rchk (wrote.map (fun n => (j.wscope, n)))

/-- The page of an address that a job reads or writes, where it is checked for races: an access without a page is not. -/
def State.jobChecks (s : State) (j : Job) (va : W64) (write : Bool) : Option Tr :=
  match s.jobTr j va write with
  | .ok t => if s.racing j.slice t.rchk then some t else none
  | _ => none

/-- The reads of a step are checked: one in each sector of its source (R257). -/
def State.raceReads (s : State) (j : Job) (n k : Nat) : State :=
  if j.kind = .cpyo ∨ j.mode = .fill then s
  else
    let a := j.gAddr n
    (List.range (k * j.w)).foldl (fun t i =>
      let va := a + BitVec.ofNat 64 i
      if i = 0 ∨ va.toNat % 32 = 0 then
        (match t.jobChecks j va false with
         | some p => t.raceJob j va (if p.coh then t.dirHome j.vf p.pa else t.homeOf p.pa) p.rchk none
         | none => t)
      else t) s

/-- The write of a piece at its home. -/
def State.jobBytesAt (s : State) (j : Job) (pa : Nat) (data : List Byte) : State :=
  if j.physical then s.writeBy j.writeKey pa (s.granted .fw pa data) else s.writeBytes pa data

/-- A write of a job to part of a poisoned word fails with POISON (R426): the thread that issued the job parks imprecisely, the queue of a COPY entry
shows FAILED (log 36). -/
def State.jobPoison (s : State) (j : Job) (va : W64) : State :=
  match j.cp with
  | some (c, q, _) => s.updQueue c q (fun x => { x with failed := true })
  | none => s.updGroup j.g (fun gr => gr.upd [j.lane] (fun i l => l.imprecise i gr.trapvec 0x13 0 j.pc (some va) j.issued))

/-- Write a global piece: through the fabric for a coherent page (R446, R519), else committed at its home; a write of part of a
poisoned word does not commit (R426). Poison that a piece for the fabric carries poisons its line there (R335). -/
def State.jobPutG (s : State) (jk : Nat) (j : Job) (va : W64) (t : Tr) (bs : List (Byte × Bool)) : State :=
  let data := bs.map Prod.fst
  if t.coh then
    s.pushUnit { unitReq s (engG jk) j.vf .store va t.pa data j.wit with
      slice := j.slice, rchk := t.rchk, scope := j.wscope, pc := j.pc, poison := bs.any Prod.snd }
  else if s.partPoison t.pa data.length then s.jobPoison j va
  else
    let c := s.commitBy (fun u => u.jobBytesAt j t.pa data) j.slice j.vf t.pa data.length (s.presentedStamp j.slice j.wit) 0 1
    let s1 := (List.range bs.length).foldl (fun u x => if (bs.getD x (0, false)).2 then u.setPoison (t.pa + x) 1 true else u) c.1
    (s1.raceJob j va (s.homeOf t.pa) t.rchk (some c.2)).jobWrote jk j (s.homeOf t.pa) c.2

/-- The address a step writes globally. -/
def Job.dstVa (j : Job) (n : Nat) : W64 := match j.kind with | .cpyo => j.gAddr n | _ => j.sAddr n

/-- The coherent line that the write of a step waits for: an entry of its translation, or the shadow word of a race-check page that it reads or
writes (R255, R270). -/
def State.jobNeeds (s : State) (j : Job) (n k : Nat) : Option Nat :=
  let sh (va : W64) (write : Bool) : Option Nat := (s.jobChecks j va write).bind (fun t => s.shadowAsk j.vf j.slice j.judge va t.rchk)
  let src : Option Nat := if j.kind = .cpyo ∨ j.mode = .fill then none
    else (List.range (k * j.w)).findSome? (fun i => sh (j.gAddr n + BitVec.ofNat 64 i) false)
  match j.kind, src with
  | _, some fa => some fa
  | .cpy, none => none
  | _, none =>
    match s.jobTr j (j.dstVa n) true with
    | .ask fa => some fa
    | _ => sh (j.dstVa n) true

/-- The virtual addresses, one in each sector, that a step reads globally. -/
def Job.readVas (j : Job) (n k : Nat) : List W64 :=
  if j.kind = .cpyo ∨ j.mode = .fill then []
  else ((List.range (k * j.w)).map (fun i => j.gAddr n + BitVec.ofNat 64 i)).filter (fun a => a == j.gAddr n || a.toNat % 32 == 0)

/-- The device addresses that a step of a job reaches, its destination last (R410). -/
def State.jobPas (s : State) (j : Job) (n k : Nat) : List Nat :=
  let pa (va : W64) (write : Bool) : List Nat := match s.jobTr j va write with | .ok t => if t.coh then [] else [t.pa] | _ => []
  (j.readVas n k).flatMap (fun a => pa a false) ++ (match j.kind with | .cpy => [] | _ => pa (j.dstVa n) true)

/-- What a step's reads do beside giving bytes: its walks and its source sectors are read at their homes (R270, R410, R469). -/
def State.jobTouch (s : State) (j : Job) (n k : Nat) : State :=
  let walk (t : State) (va : W64) : State := if j.physical then t else t.walkReads j.vf va
  let s1 := (j.readVas n k).foldl (fun t va =>
    let u := if va = j.gAddr n ∨ va.toNat % 4096 = 0 then walk t va else t
    match u.jobTr j va false with
    | .ok p => if p.coh then u else u.homeRead j.vf p.pa 0
    | _ => u) s
  match j.kind with | .cpy => s1 | _ => walk s1 (j.dstVa n)

/-- A step's write, once its source is read: `none` when the destination page is lost. A streamer's job counts as started from its first element's write
(log 153). -/
def State.jobPut (s : State) (jk : Nat) (j : Job) (n k : Nat) (bs : List (Byte × Bool)) : Option State :=
  let go (t : State) : State := ((t.jobTouch j n k).raceReads j n k).updJob jk (fun x => { x with next := n + k, started := true })
  match j.kind with
  | .cpy => some (go (s.jobPutSp jk j n bs))
  | _ =>
    match s.jobTr j (j.dstVa n) true with
    | .ok t => some (go (s.jobPutG jk j (j.dstVa n) t bs))
    | _ => none

/-- Has the engine a request of the job with the fabric? -/
def State.jobAsks (s : State) (jk : Nat) : Bool := s.reqs.any (fun e => e.2.g == engG jk)
/-- Has it one that reads? -/
def State.jobReads (s : State) (jk : Nat) : Bool := s.reqs.any (fun e => e.2.g == engG jk && !e.2.kind.writes)

/-- Ask the fabric for a line that a step reads (R519). -/
def State.jobAsk (s : State) (jk : Nat) (j : Job) (fa : Nat) : State :=
  s.pushUnit { unitReq s (engG jk) j.vf .load 0 fa [] j.wit with slice := j.slice, pc := j.pc }

/-- May the job take its next step now, its turn apart? -/
def State.jobMoves (s : State) (jk : Nat) (x : Job) : Bool :=
  !x.stopped && !x.ended && decide (x.next < x.total) && !(x.onBulk && !x.started) && !(!x.onBulk && (s.coreStopped x.core || s.vfAway x.slice x.vf)) &&
  !s.hasEdge jk x && !s.stalled x.slice && !s.jobReads jk

/-- Could the job move bytes in its next step: nothing that it needs is to come, and no bank is being refreshed (R420)? -/
def State.jobReady (s : State) (jk : Nat) (x : Job) : Bool :=
  s.jobMoves jk x && (s.jobNeeds x x.next (x.piece x.next)).isNone &&
  !(s.jobPas x x.next (x.piece x.next)).any (s.hbmWaits x.vf) &&
  (match s.jobSrc jk x x.next (x.piece x.next) with | .bytes _ => true | _ => false)

/-- The byte deficit counter of a VF at a bulk engine (R447). -/
def State.engCr (s : State) (eng vf : Nat) : Int := Store.get 0 s.engCredit (eng * 512 + vf)

/-- VFs with ready jobs on a bulk engine. -/
def State.readyVfs (s : State) (eng : Nat) : List Nat := firsts ((s.jobs.filter (fun e => e.2.eng == eng && s.jobReady e.1 e.2)).map (fun e => e.2.vf))

/-- When no VF with a ready job on the engine has credit left, each is given its quantum (R447, log 124). -/
def State.engRefill (s : State) (eng : Nat) : State :=
  let vs := s.readyVfs eng
  if vs.all (fun v => decide (s.engCr eng v ≤ 0)) then
    { s with engCredit := vs.foldl (fun m v => Store.set 0 m (eng * 512 + v) (min (Store.get 0 m (eng * 512 + v) + s.quantumOf v) (s.quantumOf v))) s.engCredit }
  else s

/-- Is it the turn of a VF at an engine (R447): none that has a ready job has more credit, ties to the lower VF? -/
def State.engTurn (s : State) (eng vf : Nat) : Bool :=
  (s.readyVfs eng).all (fun v => decide (v = vf ∨ s.engCr eng v < s.engCr eng vf ∨ (s.engCr eng v = s.engCr eng vf ∧ vf < v)))

/-- The access to HBM4E for which a ready job waits for its VF's turn: the first of its next step (R418). -/
def State.jobHbm (s : State) (jk : Nat) (x : Job) : Option (Nat × Nat) :=
  if s.jobReady jk x && (!x.onBulk || (s.engRefill x.eng).engTurn x.eng x.vf) then (s.jobPas x x.next (x.piece x.next)).findSome? (s.toHbm x.vf) else none

/-! ### The end of a job -/

/-- Change a block. -/
def State.updBlock (s : State) (b : Nat) (f : Block → Block) : State := { s with blocks := Store.upd s.blocks b f }

/-- Jobs that read or write the block's scratchpad (R320). -/
def State.blockJobs (s : State) (b : Nat) : Bool := s.jobs.any (fun e => e.2.blk == some b && !e.2.isBulk && e.2.kind != .cpyg)

/-- Room is gained on cores: the launches offer it again, a co-operative one on the cores' clusters (R395, R396). -/
def State.gainRoom (s : State) (cores : List Nat) : State :=
  { s with launches := s.launches.map (fun e => (e.1, { e.2 with refused := e.2.refused.filter (fun k =>
      !cores.any (fun c => if 1024 < e.2.tmpl.ngroups then clusterOf c == clusterOf k else c == k)) })) }

/-- After a job has left its engine: the scratchpad of a block that has ended goes with its last job (R320). -/
def State.afterJob (s : State) (j : Job) : State :=
  match j.blk with
  | none => s
  | some b => match s.block b with
    | some x => if x.done && !s.blockJobs b then (s.updBlock b (fun y => { y with shares := [] })).gainRoom (x.shares.map Share.core) else s
    | none => s

/-- The job leaves its engine: its remaining lines leave their counts, its slot retires it with the Join of its writes as stand-in, and
those that wait for a slot look again (R318, R320, R334–R336, R233). -/
def State.finishJob (s : State) (jk : Nat) : State :=
  match Store.find s.jobs jk with
  | none => s
  | some j =>
    let s1 := j.pendLines.foldl (fun t l => t.pendDone (j.blk.getD 0) l.1 l.2 (j.wroteLines.contains l)) s
    let key := slotKey (engCode j.eng) j.slot
    ({ s1 with jobs := Store.del s1.jobs jk,
               slots := Store.upd s1.slots key (fun x =>
                 { x with comp := some j.wits, retire := Store.set 0 x.retire j.slice (s1.joinPlain j.slice j.judge (Store.get 0 x.retire j.slice) j.wits) }) }
      |>.wakeAll .engine).afterJob j

/-- The running job named by a future. -/
def State.jobOf (s : State) (w : W64) : Option Nat :=
  (s.jobs.find? (fun e => engCode e.2.eng == wEngine w && e.2.slot == wSlot w && e.2.seq == wSeq w)).map Prod.fst

/-- End a job before its walk is over: what it has not sent is dropped, and a write in flight ends first (R233, R336). -/
def State.endJob (s : State) (jk : Nat) : State × Bool :=
  let s0 := { s with reqs := s.reqs.filter (fun e => !(e.2.g == engG jk && (e.2.fab == FabPhase.unsent || !e.2.kind.writes))) }.dropAside (engG jk)
  if s0.jobAsks jk then (s0.updJob jk (fun x => { x with ended := true }), false) else (s0.finishJob jk, true)

/-- Cancel the job of an open future and answer the code of R233; an entry that submitted it completes. -/
def State.cancel (s : State) (w : W64) : State × W32 :=
  match s.jobOf w with
  | none => (s, 2)
  | some jk =>
    match Store.find s.jobs jk with
    | none => (s, 2)
    | some j =>
      let code : W32 := if j.started then 1 else 0
      let e := s.endJob jk
      (match e.2, j.cp with | true, some (c, q, n) => e.1.entryDone c q n false false j.wits | _, _ => e.1, code)

/-- Where element n of a job stands in the scratchpad. -/
def State.jobLoc (s : State) (j : Job) (n : Nat) : Option (Nat × Nat × Nat) :=
  s.spLoc (j.blk.getD 0) j.core ((j.sAddr n).extractLsb' 0 32) j.w

/-- Mark the bytes of scratchpad destinations that a stopped job has not written as poisoned (R335). -/
def State.poisonRest (s : State) (j : Job) : State :=
  match j.kind with
  | .cpy =>
    let done := (List.range j.next).filterMap (s.jobLoc j)
    let written (i a : Nat) : Bool := done.any (fun x => x.2.1 == i && decide (x.2.2 ≤ a) && decide (a < x.2.2 + j.w))
    (List.range (j.total - j.next)).foldl (fun t d =>
      match t.jobLoc j (j.next + d) with
      | none => t
      | some (b, i, off) => t.updShare b i (fun sh =>
          { sh with poison := (List.range j.w).foldl (fun p x => if written i (off + x) then p else Store.set false p (off + x) true) sh.poison })) s
  | _ => s

/-- The rows of one side of a bulk job: their first and last bytes (R446). -/
def rowSpans (base stride : W64) (row rows : Nat) : List (Nat × Nat) :=
  (List.range rows).map (fun i => let a := (base + BitVec.ofNat 64 i * stride).toNat; (a, a + row))

/-- The global intervals that a job reads, and those that it writes: rows of a bulk job, else elements. -/
def Job.readRows (j : Job) : List (Nat × Nat) :=
  if j.mode = .fill ∨ j.kind = .cpyo then []
  else if j.isBulk then rowSpans j.base (j.gstr.headD 0) (j.counts.headD 0) (j.counts.getD 1 0)
  else (List.range j.total).map (fun n => ((j.gAddr n).toNat, (j.gAddr n).toNat + j.w))
def Job.writeRows (j : Job) : List (Nat × Nat) :=
  if j.kind = .cpy then []
  else if j.isBulk then rowSpans j.sbase (j.sstr.headD 0) (j.counts.headD 0) (j.counts.getD 1 0)
  else (List.range j.total).map (fun n => ((j.dstVa n).toNat, (j.dstVa n).toNat + j.w))

/-- What translating each page of an interval gives, at a VF. -/
def State.pageTrs (s : State) (j : Job) (write : Bool) (r : Nat × Nat) : List JTr :=
  if r.1 < r.2 then
    (List.range ((r.2 - 1) / 4096 - r.1 / 4096 + 1)).map (fun i => s.jobTr j (BitVec.ofNat 64 (if i = 0 then r.1 else (r.1 / 4096 + i) * 4096)) write)
  else []

/-- Is a page of the job's global range lost, on either side, while the job runs (R335)? -/
def State.jobLost (s : State) (j : Job) : Bool :=
  j.stopped || !j.ended && decide (j.next < j.total) &&
  (j.readRows.any (fun r => (s.pageTrs j false r).contains .lost) || j.writeRows.any (fun r => (s.pageTrs j true r).contains .lost))

/-! ### Reads of the device in a VF's space -/

/-- `n` aligned bytes that unit `who` of the device reads at a virtual address of a VF: none when the page fails, is not readable, or the data is
poisoned. -/
def State.devRead (s : State) (who vf : Nat) (va : W64) (n : Nat) : Option (List Byte) :=
  match s.walk vf va with
  | .error _ => none
  | .ok t =>
    if !s.admits vf t false then none
    else if t.coh then (s.unitLine who (s.vf vf).slice vf t.pa).map (fun l => l.slice_ t.pa n)
    else if s.poisoned t.pa n then none else some (s.bytes t.pa n)

/-- Translate a virtual address of a VF for a write of the device. -/
def State.devWrite? (s : State) (vf : Nat) (va : W64) : Option Tr :=
  match s.walk vf va with
  | .error _ => none
  | .ok t => if s.admits vf t true then some t else none

/-- A little-endian field of a byte list. -/
def field (bs : List Byte) (o n : Nat) : Nat := leNat ((bs.drop o).take n)

/-- Are all bytes of a range zero? -/
def zeroRange (bs : List Byte) (o n : Nat) : Bool := ((bs.drop o).take n).all (· == 0)

/-! ### Job descriptors (R446) -/

/-- A descriptor made a job; none when a field is out of range or a zero field is not zero. -/
def bulkJob (bs : List Byte) (entry : Bool) (eng vf slice core g lane : Nat) (pc : W64) : Option Job :=
  let mode := field bs 0x30 1
  let space := field bs 0x31 1
  let skey := field bs 0x32 2
  let dkey := field bs 0x34 2
  let row := field bs 0x10 4
  let rows := field bs 0x14 4
  if row = 0 ∨ rows = 0 ∨ 2 < mode ∨ 1 < space ∨ (mode = 2 ∧ space = 0) ∨ !zeroRange bs 0x36 10 ∨
      (space = 0 ∧ (skey ≠ 0 ∨ dkey ≠ 0)) ∨ 383 < skey ∨ 383 < dkey ∨ (entry ∧ (space = 1 ∨ mode = 2)) then none
  else
    let dst := field bs 8 8
    let w64 (o : Nat) : W64 := BitVec.ofNat 64 (field bs o 8)
    let span (b : Nat) (st : W64) : List (Nat × Nat) :=
      let e := st.toInt * ((rows : Int) - 1)
      [(((b : Int) + min 0 e).toNat, ((b : Int) + max 0 e).toNat + row)]
    some { kind := .bulk entry, eng := eng, slot := 0, seq := 0, vf := vf, slice := slice, blk := none, core := core, g := g, lane := lane,
           cp := none, w := 1, counts := [row, rows], base := w64 0, gstr := [w64 0x18], sbase := w64 8, sstr := [w64 0x20], table := [],
           bt := false, mode := if mode = 0 then .copy else if mode = 1 then .fill else .rekey, phys := space == 1, skey := skey, dkey := dkey,
           wit := w64 0x28, scope := 5, next := 0, total := row * rows, started := false, stopped := false, ended := false,
           rg := if mode = 1 then [] else span (field bs 0 8) (w64 0x18), wg := span dst (w64 0x20), rs := [], ws := [],
           pendLines := [], wroteLines := [], wits := 0, pc := pc, issued := 0 }

/-- Satisfied for a job's witness (R532): judged for core 48 of the engine's die, with a joined one at .pk at least. -/
def State.satAt (s : State) (vf : Nat) (sl core : Nat) (w : W64) : Sat :=
  let x := if wKind w = 3 then
      (if 8 ≤ genAge (s.genAt core sl) w then none else match s.future (some vf) w with | .standIn c => some c | _ => some w)
    else some w
  match x with
  | none => .stale
  | some v =>
    if wKind v = 3 then (match s.future (some vf) v with | .bad => .future | _ => .no)
    else
      let v' := if wKind v = 2 ∧ (wScope v).toNat < 5 then (v &&& 0xC7FFFFFFFFFFFFFF) ||| (5 <<< 59) else v
      s.satPlain sl core true v'

/-- The stand-in of a job's witness. -/
def State.standAt (s : State) (vf : Nat) (w : W64) : W64 :=
  if wKind w = 3 then (match s.future (some vf) w with | .standIn c => c | _ => 0) else w

end Sys2Proof.Machine
end

