-- ==== Sys2Proof/Machine/Integer.lean ====
section
/-! DEFINITION. Integer, logic, address and lane instructions (chapter 04, opcodes 0x001–0x07F). -/

namespace Sys2Proof.Machine

/-- Fit an exact integer to the type (R121): clip with CLIP, wrap without. -/
def Ty.fit (t : Ty) (clip : Bool) (v : Int) : W128 := if clip then t.enc (t.clampI v) else t.enc v

/-- CLIP, NT: per-instruction bit 0 (R118). -/
def perBit0 (f : FmtG) : Bool := f.per.getLsbD 0

/-- Integer sources of a format-G instruction in a thread. -/
def intA (f : FmtG) (gr : Group) (l : Nat) : Int := f.ty.int (gr.src l f.a f.ty.regs)
def intB (f : FmtG) (gr : Group) (l : Nat) : Int := f.ty.int (gr.src l f.b f.ty.regs)
def intC (f : FmtG) (gr : Group) (l : Nat) : Int := f.ty.int (gr.src l f.c f.ty.regs)
/-- Raw sources, as numbers below 2^w. -/
def rawA (f : FmtG) (gr : Group) (l : Nat) : Nat := (gr.src l f.a f.ty.regs).toNat % 2 ^ f.ty.width
def rawB (f : FmtG) (gr : Group) (l : Nat) : Nat := (gr.src l f.b f.ty.regs).toNat % 2 ^ f.ty.width
/-- Source a and the immediate of format K (R120). -/
def rawAK (f : FmtK) (gr : Group) (l : Nat) : W128 := gr.src l f.a f.ty.regs
def immK (f : FmtK) : W128 := lowRegs f.ty.regs (f.imm.signExtend 128)
/-- A raw result. -/
def rawRes (n : Nat) : Res := .int (BitVec.ofNat 128 n)

/-! ### Arithmetic (R123–R128) -/

/-- add (R123). -/
def addRes (f : FmtG) (gr : Group) (_ : List Nat) (l : Nat) : Res := .int (f.ty.fit (perBit0 f) (intA f gr l + intB f gr l))
def execAdd (f : FmtG) (s : State) := produce (.add f) f.ty.regs (addRes f) s

/-- add with a 32-bit immediate and CLIP (R116, R120, R123). -/
def addKRes (f : FmtK) (gr : Group) (_ : List Nat) (l : Nat) : Res :=
  .int (f.ty.fit (f.per.getLsbD 0) (f.ty.int (rawAK f gr l) + f.ty.int (immK f)))
def execAddK (f : FmtK) (s : State) := produce (.addK f) f.ty.regs (addKRes f) s

/-- sub (R123). -/
def subRes (f : FmtG) (gr : Group) (_ : List Nat) (l : Nat) : Res := .int (f.ty.fit (perBit0 f) (intA f gr l - intB f gr l))
def execSub (f : FmtG) (s : State) := produce (.sub f) f.ty.regs (subRes f) s

/-- addc (R124). -/
def addcRes (f : FmtG) (gr : Group) (_ : List Nat) (l : Nat) : Res :=
  rawRes ((gr.src32 l f.a).toNat + (gr.src32 l f.b).toNat + (gr.src32 l f.c).toNat % 2)
def execAddc (f : FmtG) (s : State) := produce (.addc f) 2 (addcRes f) s

/-- subb (R124). -/
def subbRes (f : FmtG) (gr : Group) (_ : List Nat) (l : Nat) : Res :=
  let t : Int := (gr.src32 l f.a).toNat - (gr.src32 l f.b).toNat - ((gr.src32 l f.c).toNat % 2 : Nat)
  rawRes ((t % 2 ^ 32).toNat + (if t < 0 then 2 ^ 32 else 0))
def execSubb (f : FmtG) (s : State) := produce (.subb f) 2 (subbRes f) s

/-- mul (R125). -/
def mulRes (f : FmtG) (gr : Group) (_ : List Nat) (l : Nat) : Res := .int (f.ty.enc (intA f gr l * intB f gr l))
def execMul (f : FmtG) (s : State) := produce (.mul f) f.ty.regs (mulRes f) s

/-- mul with an immediate (R120, R125). -/
def mulKRes (f : FmtK) (gr : Group) (_ : List Nat) (l : Nat) : Res :=
  .int (f.ty.enc (f.ty.int (rawAK f gr l) * f.ty.int (immK f)))
def execMulK (f : FmtK) (s : State) := produce (.mulK f) f.ty.regs (mulKRes f) s

/-- mulh (R125). -/
def mulhRes (f : FmtG) (gr : Group) (_ : List Nat) (l : Nat) : Res :=
  .int (f.ty.enc (intA f gr l * intB f gr l / 2 ^ f.ty.width))
def execMulh (f : FmtG) (s : State) := produce (.mulh f) f.ty.regs (mulhRes f) s

/-- mad (R125). -/
def madRes (f : FmtG) (gr : Group) (_ : List Nat) (l : Nat) : Res := .int (f.ty.enc (intA f gr l * intB f gr l + intC f gr l))
def execMad (f : FmtG) (s : State) := produce (.mad f) f.ty.regs (madRes f) s

/-- madh (R125). -/
def madhRes (f : FmtG) (gr : Group) (_ : List Nat) (l : Nat) : Res :=
  .int (f.ty.enc ((intA f gr l * intB f gr l + intC f gr l) / 2 ^ f.ty.width))
def execMadh (f : FmtG) (s : State) := produce (.madh f) f.ty.regs (madhRes f) s

/-- div (R126, R127). -/
def divRes (f : FmtG) (gr : Group) (_ : List Nat) (l : Nat) : Res :=
  if intB f gr l = 0 then (if perBit0 f then .int (f.ty.enc (-1)) else .park 0x09 0)
  else .int (f.ty.enc (Int.tdiv (intA f gr l) (intB f gr l)))
def execDiv (f : FmtG) (s : State) := produce (.div f) f.ty.regs (divRes f) s

/-- rem (R126, R127). -/
def remRes (f : FmtG) (gr : Group) (_ : List Nat) (l : Nat) : Res :=
  if intB f gr l = 0 then (if perBit0 f then .int (f.ty.enc (intA f gr l)) else .park 0x09 0)
  else .int (f.ty.enc (Int.tmod (intA f gr l) (intB f gr l)))
def execRem (f : FmtG) (s : State) := produce (.rem f) f.ty.regs (remRes f) s

/-- min, max (R128). -/
def minRes (f : FmtG) (gr : Group) (_ : List Nat) (l : Nat) : Res := .int (f.ty.enc (min (intA f gr l) (intB f gr l)))
def execMin (f : FmtG) (s : State) := produce (.min f) f.ty.regs (minRes f) s
def maxRes (f : FmtG) (gr : Group) (_ : List Nat) (l : Nat) : Res := .int (f.ty.enc (max (intA f gr l) (intB f gr l)))
def execMax (f : FmtG) (s : State) := produce (.max f) f.ty.regs (maxRes f) s

/-- abs, neg, clamp (R128). -/
def absRes (f : FmtG) (gr : Group) (_ : List Nat) (l : Nat) : Res := .int (f.ty.fit (perBit0 f) (intA f gr l).natAbs)
def execAbs (f : FmtG) (s : State) := produce (.abs f) f.ty.regs (absRes f) s
def negRes (f : FmtG) (gr : Group) (_ : List Nat) (l : Nat) : Res := .int (f.ty.fit (perBit0 f) (-(intA f gr l)))
def execNeg (f : FmtG) (s : State) := produce (.neg f) f.ty.regs (negRes f) s
def clampRes (f : FmtG) (gr : Group) (_ : List Nat) (l : Nat) : Res :=
  .int (f.ty.enc (min (max (intA f gr l) (intB f gr l)) (intC f gr l)))
def execClamp (f : FmtG) (s : State) := produce (.clamp f) f.ty.regs (clampRes f) s

/-! ### Logic and bit fields (R129–R132) -/

def andRes (f : FmtG) (gr : Group) (_ : List Nat) (l : Nat) : Res := .int (gr.src l f.a f.ty.regs &&& gr.src l f.b f.ty.regs)
def execAnd (f : FmtG) (s : State) := produce (.and f) f.ty.regs (andRes f) s
def andKRes (f : FmtK) (gr : Group) (_ : List Nat) (l : Nat) : Res := .int (rawAK f gr l &&& immK f)
def execAndK (f : FmtK) (s : State) := produce (.andK f) f.ty.regs (andKRes f) s
def orRes (f : FmtG) (gr : Group) (_ : List Nat) (l : Nat) : Res := .int (gr.src l f.a f.ty.regs ||| gr.src l f.b f.ty.regs)
def execOr (f : FmtG) (s : State) := produce (.or f) f.ty.regs (orRes f) s
def orKRes (f : FmtK) (gr : Group) (_ : List Nat) (l : Nat) : Res := .int (rawAK f gr l ||| immK f)
def execOrK (f : FmtK) (s : State) := produce (.orK f) f.ty.regs (orKRes f) s
def xorRes (f : FmtG) (gr : Group) (_ : List Nat) (l : Nat) : Res := .int (gr.src l f.a f.ty.regs ^^^ gr.src l f.b f.ty.regs)
def execXor (f : FmtG) (s : State) := produce (.xor f) f.ty.regs (xorRes f) s
def xorKRes (f : FmtK) (gr : Group) (_ : List Nat) (l : Nat) : Res := .int (rawAK f gr l ^^^ immK f)
def execXorK (f : FmtK) (s : State) := produce (.xorK f) f.ty.regs (xorKRes f) s
def andnRes (f : FmtG) (gr : Group) (_ : List Nat) (l : Nat) : Res :=
  .int (gr.src l f.a f.ty.regs &&& ~~~(gr.src l f.b f.ty.regs))
def execAndn (f : FmtG) (s : State) := produce (.andn f) f.ty.regs (andnRes f) s

/-- The count of a shift (R130): one 32-bit unsigned register. -/
def shiftCount (f : FmtG) (gr : Group) (l : Nat) : Nat := (gr.src32 l f.b).toNat
def shlRes (f : FmtG) (gr : Group) (_ : List Nat) (l : Nat) : Res :=
  let n := shiftCount f gr l
  rawRes (if f.ty.width ≤ n then 0 else rawA f gr l * 2 ^ n % 2 ^ f.ty.width)
def execShl (f : FmtG) (s : State) := produce (.shl f) f.ty.regs (shlRes f) s
def shrRes (f : FmtG) (gr : Group) (_ : List Nat) (l : Nat) : Res :=
  let n := shiftCount f gr l
  rawRes (if f.ty.width ≤ n then 0 else rawA f gr l / 2 ^ n)
def execShr (f : FmtG) (s : State) := produce (.shr f) f.ty.regs (shrRes f) s
def sraRes (f : FmtG) (gr : Group) (_ : List Nat) (l : Nat) : Res :=
  let w := f.ty.width
  let a := rawA f gr l
  let v : Int := if 2 ^ (w - 1) ≤ a then (a : Int) - 2 ^ w else a
  rawRes ((v / 2 ^ min (shiftCount f gr l) w % 2 ^ w).toNat)
def execSra (f : FmtG) (s : State) := produce (.sra f) f.ty.regs (sraRes f) s
def rotRes (f : FmtG) (gr : Group) (_ : List Nat) (l : Nat) : Res :=
  let w := f.ty.width
  let n := shiftCount f gr l % w
  let a := rawA f gr l
  rawRes (a * 2 ^ n % 2 ^ w + a / 2 ^ (w - n))
def execRot (f : FmtG) (s : State) := produce (.rot f) f.ty.regs (rotRes f) s

/-- bfe (R131). -/
def bfeRes (f : FmtG) (gr : Group) (_ : List Nat) (l : Nat) : Res :=
  let c := (gr.src32 l f.c).toNat
  let w := f.ty.width
  let len := min (c / 256 % 256) w
  let x := rawA f gr l / 2 ^ (c % 256) % 2 ^ len
  if len = 0 then rawRes 0
  else if f.ty.signed ∧ 2 ^ (len - 1) ≤ x then .int (f.ty.enc ((x : Int) - 2 ^ len)) else rawRes x
def execBfe (f : FmtG) (s : State) := produce (.bfe f) f.ty.regs (bfeRes f) s

/-- bfi (R131). -/
def bfiRes (f : FmtG) (gr : Group) (_ : List Nat) (l : Nat) : Res :=
  let c := (gr.src32 l f.c).toNat
  let w := f.ty.width
  let len := min (c / 256 % 256) w
  let m : W128 := BitVec.ofNat 128 ((2 ^ len - 1) * 2 ^ (c % 256) % 2 ^ w)
  .int ((gr.src l f.a f.ty.regs &&& ~~~m) ||| (BitVec.ofNat 128 (rawB f gr l * 2 ^ (c % 256)) &&& m))
def execBfi (f : FmtG) (s : State) := produce (.bfi f) f.ty.regs (bfiRes f) s

/-- popc, clz, ctz, brev (R132). -/
def popcRes (f : FmtG) (gr : Group) (_ : List Nat) (l : Nat) : Res := rawRes (onesCount f.ty.width (rawA f gr l))
def execPopc (f : FmtG) (s : State) := produce (.popc f) 1 (popcRes f) s
def clzRes (f : FmtG) (gr : Group) (_ : List Nat) (l : Nat) : Res := rawRes (f.ty.width - bitLen (rawA f gr l))
def execClz (f : FmtG) (s : State) := produce (.clz f) 1 (clzRes f) s
def ctzRes (f : FmtG) (gr : Group) (_ : List Nat) (l : Nat) : Res :=
  rawRes (((List.range f.ty.width).find? (fun k => rawA f gr l / 2 ^ k % 2 = 1)).getD f.ty.width)
def execCtz (f : FmtG) (s : State) := produce (.ctz f) 1 (ctzRes f) s
def brevRes (f : FmtG) (gr : Group) (_ : List Nat) (l : Nat) : Res :=
  let w := f.ty.width
  rawRes ((List.range w).foldl (fun x k => x + rawA f gr l / 2 ^ k % 2 * 2 ^ (w - 1 - k)) 0)
def execBrev (f : FmtG) (s : State) := produce (.brev f) f.ty.regs (brevRes f) s

/-! ### Compare, select, move (R133–R136) -/

/-- One bit of a 32-bit value written, the others kept (R30). -/
def withBit (x : W128) (k : Nat) (b : Bool) : W128 :=
  let m : W128 := (1 : W128) <<< k
  if b then x ||| m else x &&& ~~~m

/-- The conditions of cmp (R133). -/
def icond (c : Nat) (a b : Int) : Bool :=
  match c with
  | 0 => a == b
  | 1 => a != b
  | 2 => decide (a < b)
  | 3 => decide (a ≤ b)
  | 4 => decide (b < a)
  | _ => decide (b ≤ a)

/-- The destination register of a thread, or the scalar register, as it stands. -/
def oldDst (f : FmtG) (gr : Group) (l : Nat) : W128 := gr.dstVal l f.h.dst 1

def cmpRes (f : FmtG) (gr : Group) (_ : List Nat) (l : Nat) : Res :=
  .int (withBit (oldDst f gr l) (f.per.toNat / 8 % 32) (icond (f.per.toNat % 8) (intA f gr l) (intB f gr l)))
def execCmp (f : FmtG) (s : State) := produce (.cmp f) 1 (cmpRes f) s

/-- sel (R134). -/
def selRes (f : FmtG) (gr : Group) (_ : List Nat) (l : Nat) : Res :=
  .int (if (gr.src32 l f.c).getLsbD (f.per.toNat % 32) then gr.src l f.a f.ty.regs else gr.src l f.b f.ty.regs)
def execSel (f : FmtG) (s : State) := produce (.sel f) f.ty.regs (selRes f) s

/-- mov (R135). -/
def movRes (f : FmtG) (gr : Group) (_ : List Nat) (l : Nat) : Res := .int (gr.src l f.a f.ty.regs)
def execMov (f : FmtG) (s : State) := produce (.mov f) f.ty.regs (movRes f) s

/-- movk (R135). -/
def movkRes (f : FmtK) (gr : Group) (_ : List Nat) (l : Nat) : Res :=
  .int (if f.per.getLsbD 0 then (gr.dstVal l f.h.dst 1) ||| (f.imm.zeroExtend 128 <<< 32) else immK f)
def execMovk (f : FmtK) (s : State) := produce (.movk f) f.ty.regs (movkRes f) s

/-- The address of lea (R136). -/
def leaAddr (base x : W64) (scale : Nat) : Res := .int ((base + (x <<< scale)).zeroExtend 128)
/-- The base is a 64-bit source whatever the type: an immediate or all-ones fills 64 bits (log 149). -/
def leaRes (f : FmtG) (gr : Group) (_ : List Nat) (l : Nat) : Res :=
  let x : W64 := if f.ty == .i32 then (gr.src32 l f.b).signExtend 64
    else if f.ty == .n32 then (gr.src32 l f.b).zeroExtend 64 else gr.src64 l f.b
  leaAddr (gr.src64 l f.a) x (f.per.toNat % 8)
def execLea (f : FmtG) (s : State) := produce (.lea f) 2 (leaRes f) s
def leaKRes (f : FmtK) (gr : Group) (_ : List Nat) (l : Nat) : Res := leaAddr (gr.src64 l f.a) (f.imm.signExtend 64) f.per.toNat
def execLeaK (f : FmtK) (s : State) := produce (.leaK f) 2 (leaKRes f) s

/-! ### Lane operations (R137–R147) -/

/-- vbc, rdlane (R141): the thread reads source a in the lane that b names (R138). -/
def vbcRes (f : FmtG) (gr : Group) (_ : List Nat) (l : Nat) : Res := .int (gr.srcAt l (laneOf f gr l) f.a f.ty.regs)
def execVbc (f : FmtG) (s : State) := produce (.vbc f) f.ty.regs (vbcRes f) s
def rdlaneRes (f : FmtG) (gr : Group) (_ : List Nat) (l : Nat) : Res := .int (gr.srcAt l (laneOf f gr l) f.a f.ty.regs)
def execRdlane (f : FmtG) (s : State) := produce (.rdlane f) f.ty.regs (rdlaneRes f) s

/-- wrlane (R141): lane L is written whatever its state; with WBS (R67) only the latch takes the result. -/
def wrlaneGroup (f : FmtG) (iss : Issue) (gr : Group) (path : List Nat) (gr' : Group) : Group :=
  let p := path.headD 0
  let l := laneOf f gr p
  let v := gr.src p f.a f.ty.regs
  let wbs := f.h.wbs == 1
  let g1 := if wbs then gr' else gr'.writeDst f.h.dst f.ty.regs [l] (fun _ => v)
  (g1.pushLatch path [l] f.h.dst f.ty.regs wbs (fun _ => v)).advance iss path
def execWrlane (f : FmtG) (s : State) : Host.Outcome State Fault Refusal :=
  issueWith (.wrlane f) true s (fun iss gr path _ s' => s'.updGroup iss.g (wrlaneGroup f iss gr path))

/-- shfl (R142). -/
def shflRes (f : FmtG) (gr : Group) (_ : List Nat) (l : Nat) : Res := .int (gr.srcAt l (shflFrom f gr l) f.a f.ty.regs)
def execShfl (f : FmtG) (s : State) := produce (.shfl f) f.ty.regs (shflRes f) s

/-- lsh (R143). -/
def lshRes (f : FmtG) (gr : Group) (_ : List Nat) (l : Nat) : Res :=
  .int (match lshFrom f gr l with
    | some j => gr.srcAt l j f.a f.ty.regs
    | none => gr.src l f.c f.ty.regs)
def execLsh (f : FmtG) (s : State) := produce (.lsh f) f.ty.regs (lshRes f) s

/-- The participating lanes (R137): with a scalar destination the guard is tested again in each thread (R144, R146). -/
def participants (h : Hdr) (gr : Group) (ps : List Nat) : List Nat := ps.filter (gr.guard h)

/-- vote (R144). -/
def voteRes (f : FmtG) (gr : Group) (ps : List Nat) (l : Nat) : Res :=
  let pp := participants f.h gr ps
  let bit (i : Nat) : Bool := (gr.src32 i f.a).getLsbD (f.per.toNat / 4 % 32)
  let d := f.per.toNat / 128 % 32
  match f.per.toNat % 4 with
  | 0 => rawRes (pp.foldl (fun x i => x + (if bit i then 2 ^ i else 0)) 0)
  | 1 => .int (withBit (oldDst f gr l) d (pp.any bit))
  | 2 => .int (withBit (oldDst f gr l) d (pp.all bit))
  | _ => .int (withBit (oldDst f gr l) d (pp.all bit || pp.all (fun i => !bit i)))
def execVote (f : FmtG) (s : State) := produce (.vote f) 1 (voteRes f) s

/-- The operations of lred and lscan (R145), on 32-bit values. -/
def redOp (t : Ty) (op : Nat) (a b : W32) : W32 :=
  let lt := if t.signed then a.slt b else a.ult b
  match op with
  | 0 => a + b
  | 1 => if lt then a else b
  | 2 => if lt then b else a
  | 3 => a &&& b
  | 4 => a ||| b
  | _ => a ^^^ b

/-- Identities (R147). -/
def redId (t : Ty) (op : Nat) : W32 :=
  match op with
  | 1 => BitVec.ofInt 32 t.maxI
  | 2 => BitVec.ofInt 32 t.minI
  | 3 => 0xFFFFFFFF
  | _ => 0

/-- The combination of the contributions of the participating lanes that `p` selects (R146, R147). -/
def combine (f : FmtG) (gr : Group) (ps : List Nat) (p : Nat → Bool) : Res :=
  let op := f.per.toNat % 8
  .int ((((ps.filter p).map (fun i => gr.src32 i f.a)).foldl (redOp f.ty op) (redId f.ty op)).zeroExtend 128)

def lredRes (f : FmtG) (gr : Group) (ps : List Nat) (l : Nat) : Res :=
  let w := segWidth (f.per.toNat / 8 % 8)
  combine f gr (participants f.h gr ps) (fun i => i / w == l / w)
def execLred (f : FmtG) (s : State) := produce (.lred f) 1 (lredRes f) s

def lscanRes (f : FmtG) (gr : Group) (ps : List Nat) (l : Nat) : Res :=
  let w := segWidth (f.per.toNat / 8 % 8)
  let excl := f.per.getLsbD 6
  combine f gr ps (fun i => i / w == l / w && (decide (i < l) || (!excl && i == l)))
def execLscan (f : FmtG) (s : State) := produce (.lscan f) 1 (lscanRes f) s

/-! ### Fused operations (R148, R149) -/

def addminRes (f : FmtG) (gr : Group) (_ : List Nat) (l : Nat) : Res :=
  .int (f.ty.enc (min (f.ty.int (f.ty.fit (perBit0 f) (intA f gr l + intB f gr l))) (intC f gr l)))
def execAddmin (f : FmtG) (s : State) := produce (.addmin f) f.ty.regs (addminRes f) s
def addmaxRes (f : FmtG) (gr : Group) (_ : List Nat) (l : Nat) : Res :=
  .int (f.ty.enc (max (f.ty.int (f.ty.fit (perBit0 f) (intA f gr l + intB f gr l))) (intC f gr l)))
def execAddmax (f : FmtG) (s : State) := produce (.addmax f) f.ty.regs (addmaxRes f) s

/-- dp4 (R149): c and the destination are .i32 or .n32 in the signedness of the elements. An immediate a or b is sign-extended to 32 bits
and split into elements like a register (log 106). -/
def dp4Res (f : FmtG) (gr : Group) (_ : List Nat) (l : Nat) : Res :=
  let w := f.ty.width
  let d : Ty := if f.ty.signed then .i32 else .n32
  let el (x : W32) (k : Nat) : Int := f.ty.int (BitVec.ofNat 128 (x.toNat / 2 ^ (w * k)))
  let a := gr.src32 l f.a
  let b := gr.src32 l f.b
  .int (d.fit (perBit0 f) ((List.range (32 / w)).foldl (fun x k => x + el a k * el b k) (d.int (gr.src l f.c 1))))
def execDp4 (f : FmtG) (s : State) := produce (.dp4 f) 1 (dp4Res f) s

end Sys2Proof.Machine
end

