-- ==== Sys2Proof/Machine/Global.lean ====
section
/-! DEFINITION. Global memory, atomic and witness instructions (chapter 07, opcodes 0x140–0x1BF). -/

namespace Sys2Proof.Machine

/-- The effective address of a thread (R200). -/
def effAddr (f : FmtM) (gr : Group) (i : Nat) : W64 := gr.src64 i f.a + f.off.signExtend 64

/-- What a format-M access is. -/
def accSpec (f : FmtM) (k : ReqKind) (regs : Nat) : AccSpec :=
  { kind := k, bytes := widthBytes f.width, width := f.width, scope := f.scope, hint := f.hint, dst := f.h.dst, regs := regs }

/-- The line of a stage-1 table that the translation of a thread's aligned address waits for (R218, R519). -/
def State.effAsk (s : State) (f : FmtM) (gr : Group) (l : Nat) : Option Nat :=
  let va := effAddr f gr l
  if va.toNat % widthBytes f.width ≠ 0 then none else s.transAsk gr va

/-- A global access of each passing thread, or once for the path (R219–R226): `n` data registers read from `b`. -/
def globalAccess (i : Instr) (f : FmtM) (once : Bool) (k : ReqKind) (n regs : Nat) (s : State) : Host.Outcome State Fault Refusal :=
  issueWith i once s (fun iss gr path ps s' =>
    s'.access iss gr path ps once (accSpec f k regs) f.c (s'.effAsk f gr) (fun t seq l w wits =>
      t.globalReq iss gr (accSpec f k regs) seq l (effAddr f gr l) (if n = 0 then 0 else gr.dataSrc f.width l f.b n) w wits))

/-- ld (R219). -/
def execLd (f : FmtM) (s : State) := globalAccess (.ld f) f false .load 0 (widthRegs f.width) s
/-- st (R221). -/
def execSt (f : FmtM) (s : State) := globalAccess (.st f) f false .store (widthRegs f.width) 2 s
/-- sld (R220). -/
def execSld (f : FmtM) (s : State) := globalAccess (.sld f) f true .load 0 (widthRegs f.width) s
/-- sst (R222). -/
def execSst (f : FmtM) (s : State) := globalAccess (.sst f) f true .store (widthRegs f.width) 2 s

/-- Requests of a group's `pref` carry this group number. -/
def prefG (g : Nat) : Nat := 2 ^ 46 + g

/-- The lines that pref brings in, in one thread (R228): a misaligned, untranslated or not permitted address brings nothing, and a coherent line
that the package does not hold is read through the fabric (R519). -/
def prefLane (f : FmtM) (gr : Group) (g i : Nat) (s : State) : State :=
  let va := effAddr f gr i
  if va.toNat % widthBytes f.width ≠ 0 then s
  else
    let t := s.translate gr.core (s.vfOf gr) va
    match t.2 with
    | .error _ => t.1
    | .ok tr =>
      let sl := s.sliceOf gr
      let vf := s.jobVf gr
      if !tr.r ∨ (!tr.coh ∧ hostBase ≤ tr.pa ∧ !gr.priv ∧ s.tstate vf = 3) then t.1
      else if tr.coh ∧ (t.1.fabLine sl vf tr.pa).isNone then
        t.1.pushUnit { unitReq t.1 (prefG g) vf .load va tr.pa [] 0 with slice := sl, hint := f.hint, rchk := tr.rchk }
      else
        let base := tr.pa / 128 * 128
        let s1 := if tr.coh then t.1 else (List.range 4).foldl (fun u k => u.homeRead vf (base + 32 * k) 0) t.1
        let home := if tr.coh then s.dirHome vf tr.pa else s.homeOf tr.pa
        if f.hint = 0 ∧ !gr.priv ∧ !s.racing sl tr.rchk then s1.l1Put gr.core vf sl tr.pa tr.coh home 15 else s1

/-- pref (R228). -/
def execPref (f : FmtM) (s : State) : Host.Outcome State Fault Refusal :=
  issueWith (.pref f) false s (fun iss gr path ps s' =>
    match ps.findSome? (s'.effAsk f gr) with
    | some fa => s'.awaitLine iss.g gr path fa
    | none => (s'.eachLane ps (prefLane f gr iss.g)).updGroup iss.g (fun g1 => g1.advance iss path))

/-- The atomics (R224, R225): a cas reads twice the data. -/
def atomAccess (i : Instr) (f : FmtM) (op : AtomOp) (s : State) :=
  globalAccess i f false (.atom op false) (widthRegs f.width * (if op = .cas then 2 else 1)) 4 s
def execAtomAdd (f : FmtM) (s : State) := atomAccess (.atomAdd f) f .add s
def execAtomMin (f : FmtM) (s : State) := atomAccess (.atomMin f) f .min s
def execAtomMax (f : FmtM) (s : State) := atomAccess (.atomMax f) f .max s
def execAtomAnd (f : FmtM) (s : State) := atomAccess (.atomAnd f) f .and s
def execAtomOr (f : FmtM) (s : State) := atomAccess (.atomOr f) f .or s
def execAtomXor (f : FmtM) (s : State) := atomAccess (.atomXor f) f .xor s
def execAtomExch (f : FmtM) (s : State) := atomAccess (.atomExch f) f .exch s
def execAtomCas (f : FmtM) (s : State) := atomAccess (.atomCas f) f .cas s

/-- The reductions (R226). -/
def redAccess (i : Instr) (f : FmtM) (op : AtomOp) (s : State) := globalAccess i f false (.atom op true) (widthRegs f.width) 2 s
def execRedAdd (f : FmtM) (s : State) := redAccess (.redAdd f) f .add s
def execRedMin (f : FmtM) (s : State) := redAccess (.redMin f) f .min s
def execRedMax (f : FmtM) (s : State) := redAccess (.redMax f) f .max s
def execRedAnd (f : FmtM) (s : State) := redAccess (.redAnd f) f .and s
def execRedOr (f : FmtM) (s : State) := redAccess (.redOr f) f .or s
def execRedXor (f : FmtM) (s : State) := redAccess (.redXor f) f .xor s

/-! ### Witness instructions (R229–R234) -/

/-- What a witness instruction gives in one thread. -/
inductive WRes where
  | wait
  | fault (code : Byte)
  | val (v : W128)
  deriving DecidableEq, Repr

/-- A witness instruction: while a thread's result must wait the path waits; a rejected witness parks its thread, or the path for a
scalar destination (R25, R261); the others write `n` registers. `obs` gives the witness each proceeding thread presents. -/
def witInstr (i : Instr) (f : FmtM) (n : Nat) (r : State → Group → List Nat → Nat → WRes) (obs : State → Group → Nat → W64) (s : State) :
    Host.Outcome State Fault Refusal :=
  let once := isScalSpec f.h.dst
  issueWith i once s (fun iss gr path ps s' =>
    let ls := issuers once ps
    let res (l : Nat) : WRes := r s' gr ps l
    if ls.any (fun l => res l == .wait) then s'.putGroup iss.g (gr.stay path .witness)
    else
      let bad (l : Nat) : Option FaultInfo := match res (if once then ps.headD 0 else l) with
        | .fault c => some (preciseFault c 0 iss.pc)
        | _ => none
      let ok := ls.filter (fun l => (bad l).isNone)
      s'.updGroup iss.g (fun g1 =>
        let g2 := g1.parkEach ps bad
        let g3 := g2.writeDst f.h.dst n ok (fun l => match res l with | .val v => v | _ => 0)
        (ok.foldl (fun g l => s'.observe g (obs s' gr l)) g3).advance iss path))

/-- Nothing is presented. -/
def noObs (_ : State) (_ : Group) (_ : Nat) : W64 := 0

/-- Join as a result. -/
def Joined.wres : Joined → WRes
  | .wait => .wait
  | .fault c => .fault c
  | .ok w => .val (w.zeroExtend 128)

/-- wjoin (R229). -/
def wjoinRes (f : FmtM) (s : State) (gr : Group) (_ : List Nat) (l : Nat) : WRes :=
  (s.join gr (gr.src64 l f.a) (gr.src64 l f.b)).wres
def execWjoin (f : FmtM) (s : State) := witInstr (.wjoin f) f 2 (wjoinRes f) noObs s

/-- What a thread contributes to wjoinr. -/
def wjoinrArg (f : FmtM) (s : State) (gr : Group) (l : Nat) : Joined := s.joinArg gr (gr.src64 l f.a)

/-- wjoinr (R230): it executes once, and each thread whose own guard passes contributes; a rejected contribution parks its thread and the others
are joined. -/
def execWjoinr (f : FmtM) (s : State) : Host.Outcome State Fault Refusal :=
  issueWith (.wjoinr f) false s (fun iss gr path ps s' =>
    let arg (l : Nat) : Joined := wjoinrArg f s' gr l
    if ps.any (fun l => arg l == .wait) then s'.putGroup iss.g (gr.stay path .witness)
    else
      let bad (l : Nat) : Option FaultInfo := match arg l with
        | .fault c => some (preciseFault c 0 iss.pc)
        | _ => none
      let ok := ps.filter (fun l => (bad l).isNone)
      let w := ok.foldl (fun x l => match arg l with
        | .ok y => s'.join2 (s'.sliceOf gr) gr.core x y
        | _ => x) (0 : W64)
      s'.updGroup iss.g (fun g1 =>
        let g2 := g1.parkEach ps bad
        (g2.writeDst f.h.dst 2 ok (fun _ => w.zeroExtend 128)).advance iss path))

/-- wtest (R231): bit DBIT; it never waits and never asks a home. -/
def wtestRes (f : FmtM) (s : State) (gr : Group) (_ : List Nat) (l : Nat) : WRes :=
  let w := gr.src64 l f.a
  let m : W128 := (1 : W128) <<< (f.off.toNat % 32)
  let old := gr.dstVal l f.h.dst 1
  let x := s.sat gr false w
  if wKind w ≠ 0 ∧ 8 ≤ genAge (s.genAt gr.core (s.sliceOf gr)) w then .fault 0x16
  else .val (if x = .yes then old ||| m else old &&& ~~~m)
def execWtest (f : FmtM) (s : State) := witInstr (.wtest f) f 1 (wtestRes f) noObs s

/-- wwait (R232). -/
def wwaitRes (f : FmtM) (s : State) (gr : Group) (_ : List Nat) (l : Nat) : WRes :=
  let w := gr.src64 l f.a
  match s.sat gr true w with
  | .no => .wait
  | .future => .fault 0x15
  | .stale => .fault 0x16
  | .yes =>
    if wKind w = 3 then .val ((s.standIn gr w).zeroExtend 128)
    else if wKind w ≠ 0 ∧ genAge (s.genAt gr.core (s.sliceOf gr)) w ≠ 0 then .val 0
    else .val (w.zeroExtend 128)
def execWwait (f : FmtM) (s : State) := witInstr (.wwait f) f 2 (wwaitRes f) (fun _ gr l => gr.src64 l f.a) s

/-- wscop (R234). -/
def wscopVal (w : W64) (sc : BitVec 3) : W64 :=
  if wKind w = 0 then w
  else if (wScope w).toNat < sc.toNat then (w &&& 0xC7FFFFFFFFFFFFFF) ||| (sc.zeroExtend 64 <<< 59) else w
def wscopRes (f : FmtM) (_ : State) (gr : Group) (_ : List Nat) (l : Nat) : WRes := .val ((wscopVal (gr.src64 l f.a) f.scope).zeroExtend 128)
def execWscop (f : FmtM) (s : State) := witInstr (.wscop f) f 2 (wscopRes f) noObs s

end Sys2Proof.Machine
end

