-- ==== Sys2Proof/Machine/Scratch.lean ====
section
/-! DEFINITION. Scratchpad and copy instructions (chapter 11, opcodes 0x1F0–0x20F), with `engx` (R285) and `wcanc` (R233), which act on
the same engines. -/

namespace Sys2Proof.Machine

/-! ### Thread accesses (R323–R325) -/

/-- The scratchpad address of a thread (R322). -/
def spEff (f : FmtE) (gr : Group) (i : Nat) : W32 := gr.src32 i f.a + f.soff.signExtend 32

/-- What a scratchpad access is. -/
def spSpec (f : FmtE) (k : ReqKind) (regs : Nat) : AccSpec :=
  { kind := k, bytes := widthBytes f.width, width := f.width, scope := f.eflg.extractLsb' 0 3, hint := 0, dst := f.h.dst, regs := regs }

/-- A scratchpad access of each passing thread; `n` data registers. -/
def spAccess (i : Instr) (f : FmtE) (k : ReqKind) (n regs : Nat) (s : State) : Host.Outcome State Fault Refusal :=
  issueWith i false s (fun iss gr path ps s' =>
    s'.access iss gr path ps false (spSpec f k regs) f.c (fun _ => none) (fun t seq l w wits =>
      t.shareReq iss gr (spSpec f k regs) seq l (spEff f gr l) (if n = 0 then 0 else gr.dataSrc f.width l f.b n) w wits))

/-- lds. -/
def execLds (f : FmtE) (s : State) := spAccess (.lds f) f .load 0 (widthRegs f.width) s
/-- sts. -/
def execSts (f : FmtE) (s : State) := spAccess (.sts f) f .store (widthRegs f.width) 2 s

/-- atoms: a cas reads twice the data. -/
def atomsAccess (i : Instr) (f : FmtE) (op : AtomOp) (s : State) :=
  spAccess i f (.atom op false) (widthRegs f.width * (if op = .cas then 2 else 1)) 4 s
def execAtomsAdd (f : FmtE) (s : State) := atomsAccess (.atomsAdd f) f .add s
def execAtomsMin (f : FmtE) (s : State) := atomsAccess (.atomsMin f) f .min s
def execAtomsMax (f : FmtE) (s : State) := atomsAccess (.atomsMax f) f .max s
def execAtomsAnd (f : FmtE) (s : State) := atomsAccess (.atomsAnd f) f .and s
def execAtomsOr (f : FmtE) (s : State) := atomsAccess (.atomsOr f) f .or s
def execAtomsXor (f : FmtE) (s : State) := atomsAccess (.atomsXor f) f .xor s
def execAtomsExch (f : FmtE) (s : State) := atomsAccess (.atomsExch f) f .exch s
def execAtomsCas (f : FmtE) (s : State) := atomsAccess (.atomsCas f) f .cas s

/-! ### pres and fmask (R326, R327) -/

/-- The presence word. -/
def SpLine.word (l : SpLine) : W32 :=
  BitVec.ofNat 32 ((if l.pend ≠ 0 then 1 else if l.w then 2 else 0) + 4 * (l.pend % 16) + (if l.w then 64 else 0))

/-- The presence word of the line a thread addresses; none out of range (alignment is not checked; one byte is in question). -/
def State.presWord (s : State) (f : FmtE) (gr : Group) (i : Nat) : Option W32 :=
  match s.spAddr gr (spEff f gr i) 1 with
  | none => none
  | some (b, k, off) => (s.share b k).map (fun sh => (sh.line (off / 128)).word)

/-- pres. -/
def execPres (f : FmtE) (s : State) : Host.Outcome State Fault Refusal :=
  let once := isScalSpec f.h.dst
  issueWith (.pres f) once s (fun iss gr path ps s' =>
    let val (i : Nat) : Option W32 := s'.presWord f gr (if once then ps.headD 0 else i)
    let ok := ps.filter (fun i => (val i).isSome)
    let s1 := s'.updGroup iss.g (fun g1 => (g1.writeDst f.h.dst 1 ok (fun i => ((val i).getD 0).zeroExtend 128)).advance iss path)
    s1.eachLane (ps.filter (fun i => (val i).isNone)) (fun i t => t.laneOff iss.g i))

/-- FLTMASK of a group of a block by GROUPID: the live one, the final one of a retired group, or 0. -/
def State.fltmaskOf (s : State) (blk gid : Nat) : W32 :=
  match s.groups.find? (fun e => e.2.blk == blk && e.2.groupid == gid) with
  | some e => e.2.fltmask
  | none =>
    match s.block blk with
    | some b => Store.get 0 b.fltmasks gid
    | none => 0

/-- fmask. -/
def execFmask (f : FmtE) (s : State) : Host.Outcome State Fault Refusal :=
  issueWith (.fmask f) true s (fun iss gr path ps s' =>
    let v := s'.fltmaskOf gr.blk ((gr.src32 (ps.headD 0) f.a).extractLsb' 0 12).toNat
    s'.updGroup iss.g (fun g1 => (g1.writeDst f.h.dst 1 ps (fun _ => v.zeroExtend 128)).advance iss path))

/-! ### Copies (R328–R333) -/

/-- What issuing a copy comes to. -/
inductive Copied where
  | wait (w : WaitFor)
  | ask (fa : Nat)
  | fault (s : State) (f : FaultInfo) (rd : List (W64 × Nat))
  | off (s : State) (rd : List (W64 × Nat))
  | ok (s : State) (future : W64) (rd : List (W64 × Nat))

/-- Read `n` bytes within a page for a group at their home, or the fault of the read (R271, R426, R486); the TLBs are filled (R400). -/
def State.groupRead (s : State) (g : Nat) (gr : Group) (pc va : W64) (n : Nat) : State × Except FaultInfo (List Byte) :=
  let q := s.translate gr.core (s.vfOf gr) va
  let s1 := q.1
  match q.2 with
  | .error x => (s1, .error { preciseFault 0x10 x.extra pc with addr := some va })
  | .ok t =>
    if !s1.admits (s.jobVf gr) t false then (s1, .error { preciseFault 0x11 0 pc with addr := some va })
    else if t.coh then
      (s1, .ok (match s1.unitLine (grpG g) (s.sliceOf gr) (s.jobVf gr) t.pa with | some l => l.slice_ t.pa n | none => List.replicate n 0))
    else
      let s2 := s1.readSectors (s.jobVf gr) t.pa n 0
      if s2.poisoned t.pa n then (s2, .error { preciseFault 0x13 0 pc with resume := nextPc pc, addr := some va, imprecise := true })
      else (s2, .ok (s2.bytesFor (s.jobVf gr) t.pa n))

/-- The first coherent line that the package does not hold among those of the n bytes, of their translation and of their shadow words (R255,
R270, R519). -/
def State.groupAsks (s : State) (g : Nat) (gr : Group) (va : W64) (n : Nat) : Option Nat :=
  (List.range (n / 128 + 2)).findSome? (fun i =>
    let a := if i = 0 then va else (va &&& ~~~(127 : W64)) + BitVec.ofNat 64 (128 * i)
    if 128 * i < n + va.toNat % 128 then
      match (s.translate gr.core (s.vfOf gr) a).2 with
      | .ok t =>
        if !s.admits (s.jobVf gr) t false then none
        else if t.coh && (s.unitLine (grpG g) (s.sliceOf gr) (s.jobVf gr) t.pa).isNone then some t.pa
        else s.shadowAsk (s.jobVf gr) (s.sliceOf gr) gr.core a t.rchk
      | .error x => x.ask
    else none)

/-- Read 64-bit words one after another (R331: the block table). -/
def State.groupWords (s : State) (g : Nat) (gr : Group) (pc va : W64) : Nat → State × Except FaultInfo (List W64)
  | 0 => (s, .ok [])
  | n + 1 =>
    let r := s.groupRead g gr pc va 8
    match r.2 with
    | .error e => (r.1, .error e)
    | .ok bs =>
      let q := r.1.groupWords g gr pc (va + 8) n
      match q.2 with
      | .error e => (q.1, .error e)
      | .ok rest => (q.1, .ok (BitVec.ofNat 64 (leNat bs) :: rest))

/-- The reads that an instruction has made for a thread, by address and bytes, are checked for races in each sector (R257). -/
def State.raceReadsOf (s : State) (iss : Issue) (gr : Group) (lane : Nat) (rd : List (W64 × Nat)) : State :=
  rd.foldl (fun t x => (List.range (x.2 / 32 + 2)).foldl (fun t i =>
    let va := if i = 0 then x.1 else (x.1 &&& ~~~(31 : W64)) + BitVec.ofNat 64 (32 * i)
    if 32 * i < x.2 + x.1.toNat % 32 then
      let q := t.translate gr.core (t.vfOf gr) va
      match q.2 with
      | .error _ => t
      | .ok p => q.1.raceLane (t.jobVf gr) (t.sliceOf gr) iss.g lane va iss.pc ((gr.lane lane).issued + 1)
          (if p.coh then t.dirHome (t.jobVf gr) p.pa else t.homeOf p.pa) p.rchk false none
    else t) t) s

/-- Is the interval covered by the union of intervals (R332 step 6)? -/
def coveredBy (es : List (Nat × Nat)) (hi : Nat) : Nat → Nat → Bool
  | 0, lo => decide (hi ≤ lo)
  | fuel + 1, lo =>
    if hi ≤ lo then true
    else
      let next := es.foldl (fun m e => if e.1 ≤ lo ∧ lo < e.2 then max m e.2 else m) lo
      if next = lo then false else coveredBy es hi fuel next

/-- Does the footprint grant the interval? -/
def Block.grants (b : Block) (write : Bool) (r : Nat × Nat) : Bool :=
  let es := (b.foot.filter (fun e => if write then e.2.2.2 else e.2.2.1)).map (fun e => (e.1, e.1 + e.2.1))
  coveredBy es r.2 (es.length + 1) r.1

/-- What the check of pages comes to: all admit the access, a table's line must come first, or a fault. -/
inductive Paged where
  | ok
  | ask (fa : Nat)
  | bad (f : FaultInfo)
  deriving DecidableEq, Repr

/-- The pages of an interval that is read or written, by their first address in it. -/
def pagesOf (write : Bool) (r : Nat × Nat) : List (W64 × Bool) :=
  if r.2 ≤ r.1 then []
  else (List.range ((r.2 - 1) / 4096 - r.1 / 4096 + 1)).map (fun i => (BitVec.ofNat 64 (if i = 0 then r.1 else (r.1 / 4096 + i) * 4096), write))

/-- The first page that does not translate with the permission (R332 step 7, R486); the TLBs are filled (R400). -/
def State.badPage (s : State) (gr : Group) (pc : W64) : List (W64 × Bool) → State × Paged
  | [] => (s, .ok)
  | (va, write) :: rest =>
    let q := s.translate gr.core (s.vfOf gr) va
    match q.2 with
    | .error x =>
      (q.1, match x.ask with | some fa => .ask fa | none => .bad { preciseFault 0x10 x.extra pc with addr := some va })
    | .ok t =>
      if s.admits (s.jobVf gr) t write then q.1.badPage gr pc rest
      else (q.1, .bad { preciseFault 0x11 (if write then 1 else 0) pc with addr := some va })

/-- Interval from the lowest to the highest element row. -/
def hull (l : List Nat) (n : Nat) : List (Nat × Nat) :=
  match l with
  | [] => []
  | x :: xs => [(xs.foldl min x, xs.foldl max x + n)]

/-- The bulk engine of a `cpyg` (R328). -/
def State.bulkFor (s : State) (gr : Group) : Nat :=
  let die := gr.core / 49
  let k := gr.core % 49 / 4
  let sl := s.slice (s.sliceOf gr)
  let alt := if (s.core gr.core).alt then 1 else 0
  let own := die * 12 + k
  if gr.core % 49 = 48 then die * 24 + alt
  else if sl.borrowed.getLsbD own then
    let c := (clustersOf sl.clusters).headD 0
    c / 12 * 24 + 2 * (c % 12) + alt
  else die * 24 + 2 * k + alt

/-- The job that a descriptor describes (R330, R331). -/
def copyJob (kind : JobKind) (f : FmtE) (gr : Group) (g lane : Nat) (s : State) (pc base : W64) (wit : W64) (d : List Byte)
    (table : List W64) : Job :=
  let top := f.dims.toNat
  let counts := (List.range (top + 1)).map (fun i => field d (4 * i) 4)
  let w64 (o : Nat) : W64 := BitVec.ofNat 64 (field d o 8)
  let s32 (o : Nat) : W64 := (BitVec.ofNat 32 (field d o 4)).signExtend 64
  { kind := kind, eng := match kind with | .cpyg => s.bulkFor gr | _ => 96 + gr.core, slot := 0, seq := 0, vf := s.jobVf gr,
    slice := s.sliceOf gr, blk := some gr.blk, core := gr.core, g := g, lane := lane, cp := none, w := widthBytes f.width, counts := counts,
    base := base, gstr := [w64 0x18, w64 0x20, w64 0x28, w64 0x30],
    sbase := match kind with | .cpyg => w64 0x48 | _ => BitVec.ofNat 64 (field d 0x14 4),
    sstr := [s32 0x38, s32 0x3C, s32 0x40, s32 0x44], table := table, bt := f.bt == 1, mode := .copy, phys := false, skey := 0, dkey := 0,
    wit := wit, scope := f.eflg.extractLsb' 0 3, next := 0, total := counts.foldl (· * ·) 1, started := false, stopped := false, ended := false,
    rg := [], wg := [], rs := [], ws := [], pendLines := [], wroteLines := [], wits := 0, pc := pc, issued := (gr.lane lane).issued + 1 }

/-- The scratchpad lines that rows of `n` bytes touch: block, share, line. -/
def rowLines (rows : List (Nat × Nat × Nat)) (n : Nat) : List (Nat × Nat × Nat) :=
  (rows.flatMap (fun r => (List.range ((r.2.2 + n - 1) / 128 - r.2.2 / 128 + 1)).map (fun k => (r.1, r.2.1, r.2.2 / 128 + k)))).dedup

/-- Raise PEND on lines (R318). -/
def State.pendRaise (s : State) (ls : List (Nat × Nat × Nat)) : State :=
  ls.foldl (fun t l => t.updShare l.1 l.2.1 (fun sh => sh.setLine l.2.2 (fun x => { x with pend := x.pend + 1 }))) s

/-- Steps 4 to 8 of R332 for a job with its elements known, after the reads `rd`. -/
def State.copyChecks (s : State) (gr : Group) (b : Block) (pc base : W64) (j : Job) (rd : List (W64 × Nat)) : Copied :=
  let c0 := j.counts.headD 0
  let n0 := c0 * j.w
  let nrows := if j.total = 0 then 0 else j.total / c0
  let ga := (List.range nrows).map (fun r => (j.gAddr (r * c0)).toNat)
  let sa := (List.range nrows).map (fun r => j.sAddr (r * c0))
  let isSp := match j.kind with | .cpyg => false | _ => true
  if ga.any (· % j.w != 0) || sa.any (fun x => x.toNat % j.w != 0) then .fault s (preciseFault 0x12 (BitVec.ofNat 32 j.w) pc) rd
  else
    let locs := if isSp then sa.filterMap (fun x => s.spLoc gr.blk gr.core (x.extractLsb' 0 32) n0) else []
    if isSp && locs.length != sa.length then .off s rd
    else
      let lines := rowLines locs n0
      let uninit := (match j.kind with | .cpyo => true | _ => false) && lines.any (fun l =>
        match s.share l.1 l.2.1 with | some sh => (sh.line l.2.2) == {} | none => true)
      if uninit then .off s rd
      else
        let gw := match j.kind with | .cpyo => true | _ => false
        let perEntry : List (Nat × (Nat × Nat)) :=
          if j.bt then
            ((List.range (j.counts.getLastD 0)).flatMap (fun e =>
              (hull (((List.range nrows).filter (fun r => (digits (j.counts.tail) r).getLastD 0 == e)).map
                (fun r => (j.gAddr (r * c0)).toNat)) n0).map (fun h => (3 + 65536 * e, h))))
          else (hull ga n0).map (fun h => (if gw then 1 else 0, h))
        let tab : List (Nat × (Nat × Nat)) :=
          if j.bt && j.total != 0 then [(0, (base.toNat, base.toNat + 8 * j.counts.getLastD 0))] else []
        let dst : List (Nat × (Nat × Nat)) := if isSp then [] else (hull (sa.map BitVec.toNat) n0).map (fun h => (1, h))
        let checks : List (Nat × Bool × (Nat × Nat)) :=
          tab.map (fun x => (x.1, false, x.2)) ++ perEntry.map (fun x => (x.1, gw, x.2)) ++ dst.map (fun x => (x.1, true, x.2))
        match checks.find? (fun x => !b.grants x.2.1 x.2.2) with
        | some x => .fault s (preciseFault 0x23 (BitVec.ofNat 32 x.1) pc) rd
        | none =>
          let pg := s.badPage gr pc (checks.flatMap (fun x => pagesOf x.2.1 x.2.2))
          let s := pg.1
          match pg.2 with
          | .bad x => .fault s x rd
          | .ask fa => .ask fa
          | .ok =>
            match s.freeSlot j.eng with
            | none => .wait .engine
            | some slot =>
              let raise := (match j.kind with | .cpy => lines | _ => [])
              if raise.any (fun l => match s.share l.1 l.2.1 with | some sh => 15 ≤ (sh.line l.2.2).pend | none => false) then .wait .engine
              else
                let gl := hull ga n0
                let spi := hull (locs.map (fun l => (l.1 * 4 + l.2.1) * 2 ^ 24 + l.2.2)) n0
                let card : Job := match j.kind with
                  | .cpyo => { j with wg := gl, rs := spi }
                  | .cpyg => { j with rg := gl, wg := dst.map Prod.snd }
                  | _ => { j with rg := gl, ws := spi }
                let s1 := s.pendRaise raise
                let a := s1.accept slot { card with pendLines := raise.map (fun l => (l.2.1, l.2.2)) }
                let s2 := match j.kind with | .cpyg => a.1.updCore gr.core (fun c => { c with alt := !c.alt }) | _ => a.1
                .ok s2 a.2 rd

/-- The checks of R332 in order. -/
def State.copyIssue (s : State) (kind : JobKind) (f : FmtE) (gr : Group) (g lane : Nat) (pc : W64) : Copied :=
  match s.block gr.blk with
  | none => .fault s (preciseFault 0x22 0 pc) []
  | some b =>
    if b.producer = 0xFFFF ∨ b.producer ≠ gr.groupid then .fault s (preciseFault 0x22 0 pc) []
    else
      let w := gr.presented lane f.c
      match s.sat gr true w with
      | .no => .wait .witness
      | .future => .fault s (preciseFault 0x15 0 pc) []
      | .stale => .fault s (preciseFault 0x16 0 pc) []
      | .yes =>
        let da := gr.src64 lane f.b
        let base := gr.src64 lane f.a + f.soff.signExtend 64
        let bt := f.bt == 1
        if da.toNat % 128 ≠ 0 then .fault s { preciseFault 0x12 128 pc with addr := some da } []
        else if bt && base.toNat % 8 != 0 then .fault s { preciseFault 0x12 8 pc with addr := some base } []
        else
          match s.groupAsks g gr da 128 with
          | some fa => .ask fa
          | none =>
            let r := s.groupRead g gr pc da 128
            match r.2 with
            | .error e => .fault r.1 e []
            | .ok d =>
              let top := f.dims.toNat
              let ctop := field d (4 * top) 4
              let empty := (List.range (top + 1)).any (fun i => field d (4 * i) 4 == 0)
              let words := if bt && !empty then min ctop 4096 else 0
              match (if words = 0 then none else r.1.groupAsks g gr base (8 * words)) with
              | some fa => .ask fa
              | none =>
                let q := r.1.groupWords g gr pc base words
                match q.2 with
                | .error e => .fault q.1 e [(da, 128)]
                | .ok table =>
                  let rd := [(da, 128), (base, 8 * words)].filter (fun x => x.2 != 0)
                  let zeros := zeroRange d 0x50 48 && (match kind with | .cpyg => zeroRange d 0x14 4 | _ => zeroRange d 0x48 8)
                  if !zeros || (bt && decide (4096 < ctop)) then .fault q.1 (preciseFault 0x23 2 pc) rd
                  else q.1.copyChecks gr b pc base (copyJob kind f gr g lane q.1 pc base (s.standIn gr w) d table) rd

/-- A copy instruction: once for the path. -/
def copyInstr (i : Instr) (kind : JobKind) (f : FmtE) (s : State) : Host.Outcome State Fault Refusal :=
  issueWith i true s (fun iss gr path ps s' =>
    let lane := ps.headD 0
    let seen (t : State) (rd : List (W64 × Nat)) : State :=
      if rd = [] then t else (t.updGroup iss.g (fun g1 => t.observe g1 (gr.presented lane f.c))).raceReadsOf iss gr lane rd
    match s'.copyIssue kind f gr iss.g lane iss.pc with
    | .wait w => s'.putGroup iss.g (gr.stay path w)
    | .ask fa => s'.awaitLine iss.g gr path fa
    | .fault s1 x rd => (seen s1 rd).updGroup iss.g (fun g1 => g1.park ps x)
    | .off s1 rd => (seen s1 rd).eachLane ps (fun l t => t.laneOff iss.g l)
    | .ok s1 fut rd => seen (s1.updGroup iss.g (fun g1 =>
        (g1.writeDst f.h.dst 2 ps (fun _ => fut.zeroExtend 128)).advance iss path)) rd)

/-- cpy. -/
def execCpy (f : FmtE) (s : State) := copyInstr (.cpy f) .cpy f s
/-- cpyo. -/
def execCpyo (f : FmtE) (s : State) := copyInstr (.cpyo f) .cpyo f s
/-- cpyg. -/
def execCpyg (f : FmtE) (s : State) := copyInstr (.cpyg f) .cpyg f s

/-! ### engx (R285, R446) -/

/-- The job of a descriptor that breaks a range, through `engx`: it has no element and its end is logged. -/
def deadJob (eng core g lane : Nat) (pc : W64) : Job :=
  { kind := .bulk false, eng := eng, slot := 0, seq := 0, vf := fwVf, slice := 16, blk := none, core := core, g := g, lane := lane, cp := none,
    w := 1, counts := [0], base := 0, gstr := [], sbase := 0, sstr := [], table := [], bt := false, mode := .copy, phys := true, skey := 0,
    dkey := 0, wit := 0, scope := 5, next := 0, total := 0, started := false, stopped := false, ended := false, rg := [], wg := [], rs := [],
    ws := [], pendLines := [], wroteLines := [], wits := 0, pc := pc, issued := 0 }

/-- engx. -/
def execEngx (f : FmtS) (s : State) : Host.Outcome State Fault Refusal :=
  issueWith (.engx f) true s (fun iss gr path ps s' =>
    let lane := ps.headD 0
    let a := gr.src64 lane f.a
    let die := gr.core / 49
    let eng := die * 24 + f.imm.toNat
    if a.toNat % 64 ≠ 0 then s'.updGroup iss.g (fun g1 => g1.park ps { preciseFault 0x12 64 iss.pc with addr := some a })
    else
      let r := s'.groupRead iss.g gr iss.pc a 64
      match r.2 with
      | .error e => r.1.updGroup iss.g (fun g1 => g1.park ps e)
      | .ok d =>
        match r.1.freeSlot eng with
        | none => s'.putGroup iss.g (gr.stay path .engine)
        | some slot =>
          let good := bulkJob d false eng fwVf 16 gr.core iss.g lane iss.pc
          let acc := r.1.accept slot (good.getD (deadJob eng gr.core iss.g lane iss.pc))
          let s1 := match good with
            | some _ => acc.1
            | none => acc.1.logErr die 0x40 f.imm.toNat 0x1FF 0 acc.2
          s1.updGroup iss.g (fun g1 => (g1.writeDst f.h.dst 2 ps (fun _ => acc.2.zeroExtend 128)).advance iss path))

/-! ### wcanc (R233) -/

/-- What `wcanc` comes to in one thread: a fault, or the state and the code. -/
def State.wcancLane (s : State) (gr : Group) (w : W64) : Except Byte (State × W32) :=
  if wKind w ≠ 3 then .ok (s, 3)
  else if 8 ≤ genAge (s.genAt gr.core (s.sliceOf gr)) w then .error 0x16
  else
    match s.future (some (s.jobVf gr)) w with
    | .bad => .error 0x15
    | .standIn _ => .ok (s, 2)
    | .open_ => .ok (s.cancel w)

/-- wcanc: per passing thread, or once for a scalar destination. -/
def execWcanc (f : FmtM) (s : State) : Host.Outcome State Fault Refusal :=
  let once := isScalSpec f.h.dst
  issueWith (.wcanc f) once s (fun iss gr path ps s' =>
    (s'.eachLane (issuers once ps) (fun i t =>
      match t.wcancLane gr (gr.src64 i f.a) with
      | .error c => t.updGroup iss.g (fun g1 => g1.park (if once then ps else [i]) (preciseFault c 0 iss.pc))
      | .ok (t1, v) => t1.updGroup iss.g (fun g1 => g1.writeDst f.h.dst 1 [i] (fun _ => v.zeroExtend 128)))).updGroup
        iss.g (fun g1 => g1.advance iss path))

end Sys2Proof.Machine
end

