-- ==== Sys2Proof/Machine/Stream.lean ====
section
/-! DEFINITION. Streams and operand queues (R307–R313, opcodes 0x1E0–0x1EF). The events that produce and spill their entries stand in Turn.lean. -/

namespace Sys2Proof.Machine

/-- The queue an instruction names. -/
def qIdx (f : FmtE) : Nat := f.eflg.toNat % 4

/-- Change queue k of a group; entries that it discards make room in the ring (R311). -/
def Group.updQ (gr : Group) (k : Nat) (f : OpQueue → OpQueue) : Group :=
  { gr with oq := drainRing gr.oq ((List.range 4).map (fun i => if i = k then f (gr.oq.getD i {}) else gr.oq.getD i {})) }

/-- The stream that a descriptor starts (R308, R309): Idle at once when it has no entry. -/
def streamOf (f : FmtE) (base : W64) (d : List Byte) (mask : BitVec 32) (w pc : W64) (issued : Nat) : OpQueue :=
  let top := f.dims.toNat
  let counts := (List.range 4).map (fun i => if i ≤ top then field d (4 * i) 4 else 1)
  let total := counts.foldl (· * ·) 1
  { st := if total = 0 then .idle else .walking, base := base, counts := counts.map (BitVec.ofNat 32),
    strides := (List.range 4).map (fun i => BitVec.ofNat 64 (field d (0x10 + 8 * i) 8)), lstride := BitVec.ofNat 32 (field d 0x30 4),
    width := f.width, mask := mask, wit := w, spill := f.eflg.getLsbD 2, pc := pc, issued := issued, next := 0,
    total := total, popped := 0 }

/-- strm (R309): a descriptor fault parks the lowest passing thread and leaves the queue Idle. -/
def execStrm (f : FmtE) (s : State) : Host.Outcome State Fault Refusal :=
  issueWith (.strm f) false s (fun iss gr path ps s' =>
    let lane := ps.headD 0
    let w := gr.presented lane f.c
    let k := qIdx f
    match s'.sat gr true w with
    | .no => s'.putGroup iss.g (gr.stay path .witness)
    | .future => s'.updGroup iss.g (fun g1 => (g1.park ps (preciseFault 0x15 0 iss.pc)).advance iss path)
    | .stale => s'.updGroup iss.g (fun g1 => (g1.park ps (preciseFault 0x16 0 iss.pc)).advance iss path)
    | .yes =>
      let da := gr.src64 lane f.b
      let bad (t : State) (x : FaultInfo) : State :=
        t.updGroup iss.g (fun g1 => ((g1.updQ k (fun _ => {})).park [lane] x).advance iss path)
      if da.toNat % 64 ≠ 0 then bad s' { preciseFault 0x12 64 iss.pc with addr := some da }
      else
        match s'.groupAsks iss.g gr da 64 with
        | some fa => s'.awaitLine iss.g gr path fa
        | none =>
          let r := s'.groupRead iss.g gr iss.pc da 64
          match r.2 with
          | .error e => bad r.1 e
          | .ok d =>
            let t := r.1.updGroup iss.g (fun g1 => s'.observe g1 w)
            if !zeroRange d 0x34 12 then bad (t.raceReadsOf iss gr lane [(da, 64)]) (preciseFault 0x51 (BitVec.ofNat 32 k) iss.pc)
            else
              let q := streamOf f (gr.src64 lane f.a + f.soff.signExtend 64) d (laneMask ps) (s'.standIn gr w) iss.pc ((gr.lane lane).issued + 1)
              (t.updGroup iss.g (fun g1 => (g1.updQ k (fun _ => q)).advance iss path)).raceReadsOf iss gr lane [(da, 64)])

/-- strmx (R310). -/
def execStrmx (f : FmtE) (s : State) : Host.Outcome State Fault Refusal :=
  issueWith (.strmx f) true s (fun iss gr path ps s' =>
    let k := qIdx f
    if f.eflg.getLsbD 2 then
      if (gr.oq.getD k {}).st = .idle then s'.updGroup iss.g (fun g1 => g1.park ps (preciseFault 0x51 (BitVec.ofNat 32 k) iss.pc))
      else s'.updGroup iss.g (fun g1 =>
        (g1.updQ k (fun q => { q with st := .walking, entries := [], spilled := [], next := 0, popped := 0, got := [], asked := none })).advance iss path)
    else s'.updGroup iss.g (fun g1 => (g1.updQ k (fun _ => {})).advance iss path))

/-- The state word of a queue (R313). -/
def OpQueue.word (q : OpQueue) : W32 :=
  BitVec.ofNat 32 ((match q.st with | .idle => 0 | .walking => 1 | .produced => 2 | .paused => 3) + 256 * min 64 q.entries.length +
    65536 * min 0xFFFF q.spilled.length)

/-- oqst (R313). -/
def execOqst (f : FmtE) (s : State) : Host.Outcome State Fault Refusal :=
  issueWith (.oqst f) (isScalSpec f.h.dst) s (fun iss gr path ps s' =>
    s'.updGroup iss.g (fun g1 => (g1.writeDst f.h.dst 1 ps (fun _ => (gr.oq.getD (qIdx f) {}).word.zeroExtend 128)).advance iss path))

/-! ### The walk -/

/-- The address of a lane in the entry being produced (R309). -/
def OpQueue.addr (q : OpQueue) (lane : Nat) : W64 :=
  q.base + dotStride (digits (q.counts.map BitVec.toNat) q.next) q.strides + BitVec.ofNat 64 lane * q.lstride.signExtend 64

/-- What reading one lane of an entry gives: a value, with whether it is read at its home, a fault, or a coherent line that must come first: the
lane's own, or (`table`) one of its translation or its shadow word. -/
inductive LaneRead where
  | val (v : W32) (home : Option Tr)
  | fault (code : Byte) (extra : W32)
  | ask (table : Bool) (fa : Nat) (rchk : Bool)
  deriving DecidableEq, Repr

/-- The value of `n` bytes extended as `ld` does. -/
def extended (width : BitVec 4) (n : Nat) : W32 := (loadValue width n).setWidth 32

/-- Requests of a group's queue with the fabric carry this group number (R519): for a lane's bytes, or for a line that it needs before. -/
def streamG (g k : Nat) (table : Bool) : Nat := 2 ^ 41 + 8 * g + 2 * k + (if table then 1 else 0)

/-- Read one lane of an entry (R309): from L1 where a line there covers the witness, else at the home. -/
def State.streamLane (s : State) (gr : Group) (q : OpQueue) (lane : Nat) : LaneRead :=
  match Store.find q.got lane with
  | some (0, _, v) => .val v none
  | some (c, x, _) => .fault c x
  | none =>
    let a := q.addr lane
    let n := widthBytes q.width
    let vf := s.jobVf gr
    if a.toNat % n ≠ 0 then .fault 0x12 (BitVec.ofNat 32 n)
    else
      match (s.translate gr.core (s.vfOf gr) a).2 with
      | .error x => (match x.ask with | some fa => .ask true fa false | none => .fault 0x10 x.extra)
      | .ok t =>
        let sl := s.sliceOf gr
        if !s.admits vf t false then .fault 0x11 0
        else
          let hit := if s.racing sl t.rchk then none else
            (s.l1Find gr.core vf t.coh (t.pa / 128)).filter (fun l => l.valid.getLsbD (t.pa / 32 % 4) && l.covers q.wit)
          match hit, s.shadowAsk vf sl gr.core a t.rchk with
          | some l, _ => .val (extended q.width (leNat ((l.data.drop (t.pa % 128)).take n))) none
          | none, some fa => .ask true fa false
          | none, none =>
            if t.coh then
              match s.fabLine sl vf t.pa with
              | some l => .val (extended q.width (leNat (l.slice_ t.pa n))) (some t)
              | none => .ask false t.pa t.rchk
            else if s.poisoned t.pa n then .fault 0x13 0
            else .val (extended q.width (s.natFor vf t.pa n)) (some t)

/-- What reading a lane of an entry does beside giving its value: the TLBs are filled (R400), and a read at the home fills L1, is metered and is
checked for a race (R203, R257). -/
def State.streamTouch (s : State) (g : Nat) (gr : Group) (q : OpQueue) (lane : Nat) : State :=
  let s1 := if (Store.find q.got lane).isSome then s else (s.translate gr.core (s.vfOf gr) (q.addr lane)).1
  match s1.streamLane gr q lane with
  | .val _ (some t) =>
    let sl := s.sliceOf gr
    let vf := s.jobVf gr
    let home := if t.coh then s1.dirHome vf t.pa else s1.homeOf t.pa
    let s2 := if t.coh then s1 else s1.readSectors vf t.pa (widthBytes q.width) 0
    let s3 := if s2.racing sl t.rchk || gr.priv then s2 else s2.l1Put gr.core vf sl t.pa t.coh home (1 <<< (t.pa / 32 % 4))
    s3.raceLane vf sl g lane (q.addr lane) q.pc q.issued home t.rchk false none
  | _ => s1

/-- The lanes of a queue's mask. -/
def OpQueue.lanes (q : OpQueue) : List Nat := (List.range 32).filter (fun i => q.mask.getLsbD i)

/-- The entry being produced. -/
def State.streamEntry (s : State) (gr : Group) (q : OpQueue) : QEntry :=
  { vals := (List.range 32).map (fun i => if q.mask.getLsbD i then (match s.streamLane gr q i with | .val v _ => v | _ => 0) else 0),
    faults := q.lanes.foldl (fun m i => match s.streamLane gr q i with
      | .fault c x => Store.put m i (c, x, q.addr i)
      | _ => m) [] }

/-- The first lane whose line must be asked for. -/
def State.streamAsks (s : State) (gr : Group) (q : OpQueue) : Option (Nat × Bool × Nat × Bool) :=
  q.lanes.findSome? (fun i => match s.streamLane gr q i with | .ask tb fa rc => some (i, tb, fa, rc) | _ => none)

/-- Does the walk await an answer? -/
def State.streamBusy (s : State) (g k : Nat) (q : OpQueue) : Bool :=
  s.reqs.any (fun e => (e.2.g == streamG g k false || e.2.g == streamG g k true) && q.asked == some e.2.seq)

/-- Ask the fabric for a lane's bytes, or for a line that it needs before (R519). -/
def State.streamAsk (s : State) (g k : Nat) (gr : Group) (q : OpQueue) (x : Nat × Bool × Nat × Bool) : State :=
  let vf := s.jobVf gr
  let r : Req := { unitReq s (streamG g k x.2.1) vf .load (q.addr x.1) x.2.2.1 [] q.wit with
                   lane := x.1, slice := s.sliceOf gr, rchk := x.2.2.2, width := q.width, bytes := widthBytes q.width, pc := q.pc, issued := q.issued }
  (s.pushUnit r).updGroup g (fun g1 => g1.updQ k (fun q => { q with asked := some s.nextSeq }))

/-- After an entry has been produced the walk stands at the next; the last one leaves the queue Produced (R310). -/
def OpQueue.produced (q : OpQueue) (e : QEntry) (ring : Bool) : OpQueue :=
  { q with next := q.next + 1, got := [], asked := none, st := if q.next + 1 = q.total then .produced else q.st,
           entries := if ring then q.entries else q.entries ++ [e], spilled := if ring then q.spilled ++ [e] else q.spilled }

/-- The physical addresses of device memory that the lanes of the next entry are read at (R410). -/
def State.streamPas (s : State) (gr : Group) (q : OpQueue) : List Nat :=
  q.lanes.filterMap (fun i => match s.streamLane gr q i with | .val _ (some t) => if t.coh then none else some t.pa | _ => none)

/-- May queue k of a group produce an entry beyond those that it holds? -/
def Group.walks (gr : Group) (k : Nat) : Bool :=
  let q := gr.oq.getD k {}
  gr.st == .active && q.st == .walking && decide (q.next < q.total) && (decide (q.entries.length < 64) || q.spill)

/-- The access to HBM4E for which a stream's next entry waits for its VF's turn: the first of its lanes (R418). -/
def State.streamHbm (s : State) (_ k : Nat) (gr : Group) : Option (Nat × Nat) :=
  let q := gr.oq.getD k {}
  let ps := s.streamPas gr q
  if gr.walks k && (s.streamAsks gr q).isNone && !ps.any (s.hbmWaits (s.jobVf gr)) then ps.findSome? (s.toHbm (s.jobVf gr)) else none

end Sys2Proof.Machine
end

