-- ==== Sys2Proof/Machine/Matrix.lean ====
section
/-! DEFINITION. The matrix engine (chapter 12, opcodes 0x210–0x23F): gangs and rendezvous, operand slots, entry into the matrix queue with
its checks, and the events that start and complete an operation. -/

namespace Sys2Proof

/-- QSLOT, PBASE, ROW and LINE of XFLG (R343), and the types of ETYPE and OUTT. -/
def FmtX.qslot (f : FmtX) : Nat := (f.xflg.extractLsb' 8 6).toNat
def FmtX.pbase (f : FmtX) : Nat := (f.xflg.extractLsb' 0 8).toNat
def FmtX.row (f : FmtX) : Nat := (f.xflg.extractLsb' 0 7).toNat
def FmtX.lineNo (f : FmtX) : Nat := (f.xflg.extractLsb' 0 13).toNat
def FmtX.ety (f : FmtX) : Machine.Ty := (Machine.Ty.ofCode f.etype).getD .i8
def FmtX.oty (f : FmtX) : Machine.Ty := (Machine.Ty.ofCode f.outt).getD .f32

end Sys2Proof

namespace Sys2Proof.Machine

/-! ### State -/

/-- Tile slot k of a core. -/
def tileKey (core k : Nat) : Nat := core * 64 + k
/-- The data of a tile slot. -/
def State.tileData (s : State) (core k : Nat) : Store Byte := match Store.find s.tiles (tileKey core k) with | some t => t.data | none => []
/-- Is the slot claimed by the block? -/
def State.owns (s : State) (core k blk : Nat) : Bool := match Store.find s.tiles (tileKey core k) with | some t => t.blk == blk | none => false

/-- The block's share on a core. -/
def State.shareAt (s : State) (blk core : Nat) : Option (Nat × Share) :=
  match s.block blk with
  | none => none
  | some b => (b.shareOn core).bind (fun i => (b.shares[i]?).map (fun sh => (i, sh)))

/-- An accumulator unit. -/
def Share.unit (sh : Share) (u : Nat) : AccUnit := Store.get {} sh.acc u
/-- Change an accumulator unit. -/
def Share.updUnit (sh : Share) (u : Nat) (f : AccUnit → AccUnit) : Share := { sh with acc := Store.set {} sh.acc u (f (sh.unit u)) }
/-- Change a unit of the block's share on a core. -/
def State.updUnit (s : State) (blk core u : Nat) (f : AccUnit → AccUnit) : State :=
  match s.shareAt blk core with
  | none => s
  | some (i, _) => s.updShare blk i (fun sh => sh.updUnit u f)

/-! ### What an operation touches (R346) -/

/-- An item of R346. -/
inductive Item where
  | slot (k : Nat)
  | unit (blk u : Nat)
  | line (blk k : Nat)
  deriving DecidableEq, Repr

/-- The units that a plane list names. -/
def unitsFrom (a n : Nat) : List Nat := (List.range n).map (fun i => a + i)

/-- The scratchpad address of row r of an `old` (R353). -/
def oldRow (src : W64) (r : Nat) : Nat := ((src.extractLsb' 0 32).toNat + r * (src.extractLsb' 32 24).toNat) % 2 ^ 32

/-- Lines an `old` reads. -/
def oldLines (f : FmtX) (src : W64) : List Nat := ((List.range (f.row + 1)).map (fun r => oldRow src r % 2 ^ 24 / 128)).dedup

/-- Bytes of a row of a scratchpad drain (R357). -/
def drainRow (t : Ty) : Nat := if t.width = 32 then 256 else 128
/-- Lines a scratchpad drain writes. -/
def drainLines (f : FmtX) : List Nat := (List.range (drainRow f.oty)).map (fun i => f.lineNo + i)

/-- Items read and written. -/
def MOp.items (o : MOp) : List Item × List Item :=
  let us (l : List Nat) : List Item := l.map (fun u => Item.unit o.blk u)
  match o.instr with
  | .orel f => ([], [.slot f.slota.toNat])
  | .old f => ((oldLines f o.src).map (fun k => Item.line o.blk k), [.slot f.slota.toNat])
  | .mma f =>
    if f.gsz = 0 then ([.slot f.slota.toNat, .slot f.slotb.toNat], us [f.acc.toNat])
    else ([.slot f.slota.toNat, .slot f.slotb.toNat, .slot f.qslot], us (unitsFrom f.acc.toNat (planes f.ety f.gsz) ++ o.zero))
  | .mzero f => ([], us ((if f.xflg.getLsbD 0 then [f.acc.toNat, f.acc.toNat + 1] else [f.acc.toNat]) ++ o.zero))
  | .scacc f => (.slot f.qslot :: us (unitsFrom f.pbase (planes f.ety f.gsz)), us [f.acc.toNat, f.acc.toNat + 1])
  | .mdrain f => (us (if o.tag = .S then [f.acc.toNat, f.acc.toNat + 1] else [f.acc.toNat]),
                  if f.reg then [] else (drainLines f).map (fun k => Item.line o.blk k))
  | .mrd f => (us [f.acc.toNat], [])
  | _ => ([], [])

/-- Do two operations touch a common item that one of them writes? -/
def MOp.conflicts (a b : MOp) : Bool :=
  let x := a.items
  let y := b.items
  x.1.any y.2.contains || x.2.any y.1.contains || x.2.any y.2.contains

/-- The unit of the core that an operation occupies: fill port, accumulator path, arrays, scale unit, drain path (R337). -/
def mopUnit (i : Instr) : Nat :=
  match i with
  | .old _ => 1
  | .mzero _ => 2
  | .mma _ => 3
  | .scacc _ => 4
  | .mdrain _ => 5
  | .mrd _ => 5
  | _ => 0

/-! ### Checks before entry (R338, R341, R342, R353, R358, R359) -/

/-- What entry into the queue comes to. -/
inductive Entry_ where
  | wait (w : WaitFor)
  | ask (fa : Nat)
  | fault (s : State) (f : FaultInfo)
  | off
  | ok (s : State)

/-- OPSLOT for the first slot of a list that the block has not claimed. -/
def State.opslot (s : State) (core blk : Nat) (pc : W64) (ks : List Nat) : Option FaultInfo :=
  (ks.find? (fun k => !s.owns core k blk)).map (fun k => preciseFault 0x31 (BitVec.ofNat 32 k) pc)

/-- ACCRANGE reason 0, then reason 1 for units with the tags they must hold. -/
def accRange (accu : Nat) (sh : Share) (pc : W64) (all : List Nat) (need : List (Nat × List Tag)) : Option FaultInfo :=
  match all.find? (fun u => decide (4 * accu ≤ u)) with
  | some u => some (preciseFault 0x32 (BitVec.ofNat 32 (u % 256)) pc)
  | none => (need.find? (fun x => !x.2.contains (sh.unit x.1).tag)).map (fun x => preciseFault 0x32 (BitVec.ofNat 32 (x.1 % 256 + 256)) pc)

/-- The other unit of a scaled tile that a write of the unit dissolves (R340). -/
def Share.partner (sh : Share) (u : Nat) : List Nat :=
  match (sh.unit u).tag with
  | .S => [u + 1]
  | .Shi => [u - 1]
  | _ => []

/-- The partners that a write of the units dissolves. -/
def Share.dissolved (sh : Share) (us : List Nat) : List Nat := (us.flatMap sh.partner).filter (fun u => !us.contains u)

/-- Set the tags of units as an operation enters (R341): later entries are checked against them. -/
def Share.setTags (sh : Share) (l : List (Nat × Tag)) : Share := l.foldl (fun x e => x.updUnit e.1 (fun u => { u with tag := e.2 })) sh

/-- The amax address checks (R359, R218 steps 2–4): the word's address, coherent, race-check; or a line of a stage-1 table that must come first, or
the fault. The TLBs are filled (R400). -/
def State.amaxAddr (s : State) (gr : Group) (pc a : W64) : State × Except (Nat ⊕ FaultInfo) (Option (Nat × Bool × Bool)) :=
  if a.toNat % 4 ≠ 0 then (s, .error (.inr { preciseFault 0x12 4 pc with addr := some a }))
  else
    let q := s.translate gr.core (s.vfOf gr) a
    (q.1, match q.2 with
    | .error x => .error (match x.ask with | some fa => .inl fa | none => .inr { preciseFault 0x10 x.extra pc with addr := some a })
    | .ok t =>
      if !t.coh && decide (hostBase ≤ t.pa) then .error (.inr { preciseFault 0x11 2 pc with addr := some a })
      else if !t.r then .error (.inr { preciseFault 0x11 0 pc with addr := some a })
      else if !t.w then .error (.inr { preciseFault 0x11 1 pc with addr := some a })
      else .ok (some (t.pa, t.coh, t.rchk)))

/-- Append an operation to the core's queue, with its result registers pending in each issuer (R347). -/
def State.pushOp (s : State) (core : Nat) (o : MOp) (dst : BitVec 10) : State :=
  let s1 := o.issuers.foldl (fun t x => t.updGroup x.g (fun g =>
    ((List.range 32).filter (fun i => x.lanes.getLsbD i)).foldl (fun g i => g.pending o.key i dst 2) g)) s
  s1.updCore core (fun c => { c with mq := Store.put c.mq c.mqNext o, mqNext := c.mqNext + 1 })

/-- Checks and entry of a matrix operation (R346): `gr` is the group whose registers were read at `pc`, `issuers` the paths that issue it. -/
def State.enterOp (s : State) (gr : Group) (i : Instr) (issuers : List OpIssuer) (src pc : W64) : Entry_ :=
  let core := gr.core
  let blk := gr.blk
  let key := reqKey s.nextSeq 0
  let op (tag : Tag) (zero : List Nat) (amax : Option (Nat × Bool × Bool)) : MOp :=
    { instr := i, blk := blk, issuers := issuers, src := src, key := key, tag := tag, zero := zero, amax := amax, started := false,
      array := none, merged := none }
  let push (t : State) (o : MOp) : Entry_ := .ok ({ t with nextSeq := t.nextSeq + 1 }.pushOp core o (use i).h.dst)
  match s.shareAt blk core, s.block blk with
  | some (k, sh), some b =>
    let accu := b.accu
    let slots := s.opslot core blk pc
    match i with
    | .orel f =>
      (match slots [f.slota.toNat] with
       | some x => .fault s x
       | none => push s (op .Z [] none))
    | .old f =>
      (match slots [f.slota.toNat] with
       | some x => .fault s x
       | none =>
         if src.toNat % 128 ≠ 0 ∨ (src.extractLsb' 32 7) ≠ 0 ∨ src.extractLsb' 56 8 ≠ 0 then .fault s (preciseFault 0x12 128 pc)
         else
           if (List.range (f.row + 1)).any (fun r =>
               decide (2 ^ 26 ≤ oldRow src r) || decide (b.scratch < oldRow src r % 2 ^ 24 + 128)) then .off
           else
             let ls := oldLines f src
             if ls.any (fun l => sh.line l == {}) then .off
             else if ls.any (fun l => (sh.line l).pend != 0) then .wait .presence
             else push s (op .Z [] none))
    | .mma f =>
      let acc := f.acc.toNat
      let t := f.ety
      if f.gsz = 0 then
        (match slots [f.slota.toNat, f.slotb.toNat] with
         | some x => .fault s x
         | none =>
           match accRange accu sh pc [acc] [(acc, if t.isFloat then [.Z, .F] else [.Z, .I])] with
           | some x => .fault s x
           | none => push (s.updShare blk k (fun x => x.setTags [(acc, if t.isFloat then .F else .I)])) (op (sh.unit acc).tag [] none))
      else
        (match slots [f.slota.toNat, f.slotb.toNat, f.qslot] with
         | some x => .fault s x
         | none =>
           let us := unitsFrom acc (planes t f.gsz)
           match accRange accu sh pc us [] with
           | some x => .fault s x
           | none =>
             let z := sh.dissolved us
             push (s.updShare blk k (fun x => x.setTags (z.map (fun u => (u, Tag.Z)) ++ us.map (fun u => (u, Tag.P))))) (op .P z none))
    | .mzero f =>
      let acc := f.acc.toNat
      let us := if f.xflg.getLsbD 0 then [acc, acc + 1] else [acc]
      (match accRange accu sh pc us [] with
       | some x => .fault s x
       | none =>
         let z := sh.dissolved us
         let tags := if f.xflg.getLsbD 0 then [(acc, Tag.S), (acc + 1, Tag.Shi)] else [(acc, Tag.Z)]
         push (s.updShare blk k (fun x => x.setTags (z.map (fun u => (u, Tag.Z)) ++ tags))) (op .Z z none))
    | .scacc f =>
      let acc := f.acc.toNat
      let ps := unitsFrom f.pbase (planes f.ety f.gsz)
      (match slots [f.qslot] with
       | some x => .fault s x
       | none =>
         match accRange accu sh pc (ps ++ [acc, acc + 1]) [] with
         | some x => .fault s x
         | none =>
           match ps.find? (fun u => u == acc || u == acc + 1) with
           | some u => .fault s (preciseFault 0x32 (BitVec.ofNat 32 (u % 256 + 512)) pc)
           | none =>
             match accRange accu sh pc [] (ps.map (fun u => (u, [Tag.P])) ++ [(acc, [Tag.S])]) with
             | some x => .fault s x
             | none => push s (op .S [] none))
    | .mdrain f =>
      let acc := f.acc.toNat
      (match accRange accu sh pc [acc] [(acc, if f.oty == .i32 then [.Z, .I] else [.Z, .I, .F, .S])] with
       | some x => .fault s x
       | none =>
         let ls := drainLines f
         if !f.reg && decide (b.scratch < 128 * f.lineNo + 128 * drainRow f.oty) then .off
         else
           let am := if f.c = noneSpec then (s, Except.ok Option.none) else s.amaxAddr gr pc src
           let s := am.1
           match am.2 with
           | .error (.inl fa) => .ask fa
           | .error (.inr x) => .fault s x
           | .ok amax =>
             if f.reg then push s (op (sh.unit acc).tag [] amax)
             else if ls.any (fun l => decide (15 ≤ (sh.line l).pend)) then .wait .presence
             else push (s.updShare blk k (fun x => ls.foldl (fun x l => x.setLine l (fun y => { y with pend := y.pend + 1 })) x))
                    (op (sh.unit acc).tag [] amax))
    | .mrd f =>
      let acc := f.acc.toNat
      (match accRange accu sh pc [acc] [(acc, [.Z, .I, .F, .P])] with
       | some x => .fault s x
       | none => push s (op (sh.unit acc).tag [] none))
    | _ => .off
  | _, _ => .fault s (preciseFault 0x31 (BitVec.ofNat 32 (match i with | .orel f => f.slota.toNat | .old f => f.slota.toNat | _ => 0)) pc)

/-- Does the operation hold its groups at the instruction until it is performed (R347)? -/
def holdsIssuers (i : Instr) : Bool := match i with | .mdrain f => f.ovf == 3 | _ => false

/-- The lanes of a mask. -/
def maskLanes (m : BitVec 32) : List Nat := (List.range 32).filter (fun i => m.getLsbD i)

/-- After the operation numbered `n` of a core has entered: the issuers go on, or wait for it to be performed. Of a rendezvous those do that wait
in it: a thread that has parked there has issued it (R267). -/
def State.afterEntry (s : State) (core : Nat) (i : Instr) (ganged : Bool) (issuers : List OpIssuer) : State :=
  let n := (s.core core).mqNext - 1
  issuers.foldl (fun t x => t.updGroup x.g (fun g =>
    g.upd (maskLanes x.lanes) (fun _ l =>
      if l.run = .running ∧ (ganged = false ∨ l.wait = .gang) then (if holdsIssuers i then { l with wait := .drain n } else l.goTo (nextPc x.pc)) else l))) s

/-! ### Gangs (R348–R350) -/

/-- MASK and BASE of a GANG value. -/
def gangMask (v : W32) : BitVec 8 := v.extractLsb' 12 8
def gangBase (v : W32) : Nat := (v.extractLsb' 0 12).toNat

/-- GROUPIDs that a GANG value names. -/
def gangMembers (v : W32) : List Nat := ((List.range 8).filter (fun j => (gangMask v).getLsbD j)).map (fun j => gangBase v + j)

/-- The group of a block with a GROUPID. -/
def State.groupOf (s : State) (blk gid : Nat) : Option (Nat × Group) := s.groups.find? (fun e => e.2.blk == blk && e.2.groupid == gid)

/-- Does the group with a GROUPID of the block not run on the core of `gr`: it is on another, or has retired (R348)? -/
def State.elsewhere (s : State) (gr : Group) (gid : Nat) : Bool :=
  match s.groupOf gr.blk gid with
  | some (_, x) => x.core != gr.core || x.st == .retiring || x.st == .retired
  | none => true

/-- gang: the reason that a proposed value is refused for, if any (R348). -/
def State.gangBad (s : State) (gr : Group) (v : W32) : Option Nat :=
  let ms := gangMembers v
  let n := match s.block gr.blk with | some b => b.ngroups | none => 0
  if v.extractLsb' 0 20 = 0 ∧ v.extractLsb' 20 12 = 0 then none
  else if v.extractLsb' 20 12 ≠ 0 ∨ (gangMask v).getLsbD 0 = false ∨ ms.length < 2 ∨ 6 < ms.length ∨ !ms.contains gr.groupid ∨
      ms.any (fun g => decide (n ≤ g)) then some 3
  else if ms.any (s.elsewhere gr) then some 4
  else none

/-- gang (R348). -/
def execGang (f : FmtX) (s : State) : Host.Outcome State Fault Refusal :=
  issueWith (.gang f) true s (fun iss gr path ps s' =>
    let v := gr.src32 (ps.headD 0) f.c
    s'.updGroup iss.g (fun g1 =>
      match s'.gangBad gr v with
      | some r => g1.park ps (preciseFault 0x30 (BitVec.ofNat 32 r) iss.pc)
      | none => { g1 with gang := v }.advance iss path))

/-- What the arrivals of one rendezvous must agree in, beside the GANG values and the SRCC pairs (R350). -/
def agreeBits (i : Instr) : W96 := match encode i with | some w => w &&& 0xFFC0003FFFFFFFFFFFFFFFFF | none => 0

/-- The arrivals of the present rendezvous of a latch: each group's first (R349). -/
def GangLatch.current (l : GangLatch) : List Arrival :=
  l.arrivals.foldl (fun cs a => if cs.any (fun c => c.g == a.g) then cs else cs ++ [a]) []

/-- The arrivals that stay for later rendezvous. -/
def GangLatch.later (l : GangLatch) : List Arrival :=
  (l.arrivals.foldl (fun (p : List Nat × List Arrival) a => if p.1.contains a.g then (p.1, p.2 ++ [a]) else (a.g :: p.1, p.2))
    (([], []) : List Nat × List Arrival)).2

/-- Do two arrivals agree? -/
def Arrival.agrees (a b : Arrival) : Bool :=
  agreeBits a.instr == agreeBits b.instr && a.gang == b.gang && a.skip == b.skip &&
  (match a.instr with | .mdrain _ => a.skip || a.src == b.src | _ => true)

/-- The present MASK of arrivals, from BASE. -/
def State.presentMask (s : State) (base : Nat) (as : List Arrival) : Nat :=
  as.foldl (fun m a => match s.group a.g with
    | some x => if base ≤ x.groupid ∧ x.groupid < base + 8 then m ||| 2 ^ (x.groupid - base) else m
    | none => m) 0

/-- Has a group with the GROUPID retired: is it no longer among the groups? -/
def State.gone (s : State) (blk gid : Nat) : Bool :=
  match s.groupOf blk gid with
  | some (_, x) => x.st == .retiring || x.st == .retired
  | none => true

/-- Why the present rendezvous fails, if it does (R350). -/
def State.gangFailure (s : State) (l : GangLatch) : Option Nat :=
  match l.current with
  | [] => none
  | a :: rest =>
    if rest.any (fun b => !a.agrees b) then some 1
    else if (gangMembers a.gang).any (s.gone l.blk) then some 2
    else none

/-- Has every member one arrival waiting? -/
def State.gangFull (s : State) (l : GangLatch) : Bool :=
  match l.current with
  | [] => false
  | a :: _ => (gangMembers a.gang).all (fun gid => l.current.any (fun c => match s.group c.g with | some x => x.groupid == gid | none => false))

/-- The latch of a block and BASE. -/
def State.latchOf (s : State) (blk base : Nat) : Option GangLatch := s.gangs.find? (fun l => l.blk == blk && l.base == base)

/-- Replace or free a latch; freeing it lets a waiting arrival in. -/
def State.setLatch (s : State) (l : GangLatch) : State :=
  let rest := s.gangs.filter (fun x => !(x.blk == l.blk && x.base == l.base))
  if l.arrivals = [] then { s with gangs := rest }.wakeAll .engine else { s with gangs := rest ++ [l] }

/-- The lanes of arrivals that fail: a skipping path goes on. -/
def State.gangPark (s : State) (as : List Arrival) (x : W64 → FaultInfo) : State :=
  as.foldl (fun t a => t.updGroup a.g (fun g =>
    let ls := (maskLanes a.lanes).filter (fun i => (g.lane i).wait == .gang)
    if a.skip then g.upd ls (fun _ l => l.goTo (nextPc a.pc)) else g.park ls (x a.pc))) s

/-- Does a member of the gang run on another core than the group (R350)? -/
def State.gangApart (s : State) (gr : Group) : Bool :=
  (gangMembers gr.gang).any (fun g => match s.groupOf gr.blk g with | some (_, x) => x.core != gr.core | none => false)

/-- Is no latch free for an arrival of the group (R349)? -/
def State.noLatch (s : State) (gr : Group) : Bool :=
  (s.latchOf gr.blk (gangBase gr.gang)).isNone && decide (16 ≤ (s.gangs.filter (fun l => l.core == gr.core)).length)

/-- The latch at which an arrival of the group waits: the gang's, or a new one. -/
def State.latchFor (s : State) (gr : Group) : GangLatch :=
  (s.latchOf gr.blk (gangBase gr.gang)).getD { core := gr.core, blk := gr.blk, base := gangBase gr.gang, arrivals := [] }

/-- A path of a gang member arrives (R349): it waits at the latch. Where a member runs on another core the rendezvous fails with this arrival
(R350). -/
def State.arrive (s : State) (iss : Issue) (gr : Group) (path : List Nat) (i : Instr) (skip : Bool) (src : W64) : State :=
  let l := s.latchFor gr
  let a : Arrival := { g := iss.g, lanes := laneMask path, instr := i, gang := gr.gang, skip := skip, src := src, pc := iss.pc }
  let s1 := s.updGroup iss.g (fun g1 => g1.stay path .gang)
  if s.gangApart gr then
    let cur := l.current ++ [a]
    let x := BitVec.ofNat 32 (4 + 256 * s.presentMask l.base cur)
    (s1.setLatch { l with arrivals := l.later }).gangPark cur (fun pc => preciseFault 0x30 x pc)
  else if s.noLatch gr then s.putGroup iss.g (gr.stay path .engine)
  else s1.setLatch { l with arrivals := l.arrivals ++ [a] }

/-- The SRCC pair that an operation reads. -/
def matSrc (i : Instr) (gr : Group) (lane : Nat) : W64 :=
  match i with
  | .old f => gr.src64 lane f.c
  | .mdrain f => if f.c = noneSpec then 0 else gr.src64 lane f.c
  | _ => 0

/-- Does a member's scalar guard fail, so that it arrives as a skip? The first of a pair that R70 forbids does not: neither executes. -/
def guardSkips (iss : Issue) (gr : Group) (i : Instr) : Bool :=
  let u := use i
  !iss.badPair (opcode i) &&
  u.guardOk && u.guardBudget gr && (gr.guardWait u.h (iss.path gr)).isNone && gr.passing u.h true (iss.path gr) == [] && iss.path gr != []

/-- A path as the issuer of an operation. -/
def Issue.opIssuer (iss : Issue) (gr : Group) (path : List Nat) : OpIssuer :=
  { g := iss.g, lanes := laneMask path, pc := iss.pc, issued := (gr.lane (path.headD 0)).issued + 1 }

/-- A matrix instruction that enters the queue when it issues. -/
def matPlain (i : Instr) (s : State) : Host.Outcome State Fault Refusal :=
  issueWith i true s (fun iss gr path ps s' =>
    let by_ := [iss.opIssuer gr path]
    match s'.enterOp gr i by_ (matSrc i gr (ps.headD 0)) iss.pc with
    | .wait w => s'.putGroup iss.g (gr.stay path w)
    | .ask fa => s'.awaitLine iss.g gr path fa
    | .fault t x => t.updGroup iss.g (fun g1 => g1.park ps x)
    | .off => s'.eachLane ps (fun l t => t.laneOff iss.g l)
    | .ok t => t.afterEntry gr.core i false by_)

/-- A ganged instruction: an arrival, unless the group's MASK is 0. -/
def matGanged (i : Instr) (s : State) : Host.Outcome State Fault Refusal :=
  match s.cur with
  | none => .fault .noPath
  | some iss =>
    match s.group iss.g with
    | none => .fault .noPath
    | some gr =>
      if gangMask gr.gang = 0 then matPlain i s
      else if guardSkips iss gr i then .next (s.arrive iss gr (iss.path gr) i true 0)
      else issueWith i true s (fun iss gr path ps s' => s'.arrive iss gr path i false (matSrc i gr (ps.headD 0)))

/-! ### Slots (R351) -/

/-- oclm: claim a free slot; with TRY the bit DBIT of DST tells the outcome. -/
def execOclm (f : FmtX) (s : State) : Host.Outcome State Fault Refusal :=
  issueWith (.oclm f) true s (fun iss gr path ps s' =>
    let k := f.slota.toNat
    let free := (Store.find s'.tiles (tileKey gr.core k)).isNone
    let s1 := if free then { s' with tiles := Store.put s'.tiles (tileKey gr.core k) { blk := gr.blk, data := [] } } else s'
    if f.try_ then
      let m : W128 := (1 : W128) <<< (f.xflg.extractLsb' 0 5).toNat
      s1.updGroup iss.g (fun g1 => (g1.writeDst f.h.dst 1 ps (fun i =>
        if free then gr.dstVal i f.h.dst 1 ||| m else gr.dstVal i f.h.dst 1 &&& ~~~m)).advance iss path)
    else if free then s1.updGroup iss.g (fun g1 => g1.advance iss path)
    else s'.putGroup iss.g (gr.stay path (.slot k)))

/-- orel (R352). -/
def execOrel (f : FmtX) (s : State) := matPlain (.orel f) s
/-- old (R353). -/
def execOld (f : FmtX) (s : State) := matPlain (.old f) s
/-- mma (R354). -/
def execMma (f : FmtX) (s : State) := matGanged (.mma f) s
/-- mzero (R355). -/
def execMzero (f : FmtX) (s : State) := matGanged (.mzero f) s
/-- scacc (R356). -/
def execScacc (f : FmtX) (s : State) := matGanged (.scacc f) s
/-- mdrain (R357): its register form does not rendezvous. -/
def execMdrain (f : FmtX) (s : State) := if f.reg then matPlain (.mdrain f) s else matGanged (.mdrain f) s
/-- mrd (R360). -/
def execMrd (f : FmtX) (s : State) := matPlain (.mrd f) s

/-! ### Rendezvous (R349, R350) -/

/-- Arrivals in the order of their groups' GROUPIDs (R350). -/
def State.inOrder (s : State) (as : List Arrival) : List Arrival :=
  match as with
  | [] => []
  | a :: _ => (gangMembers a.gang).filterMap (fun gid => as.find? (fun c => match s.group c.g with | some x => x.groupid == gid | none => false))

/-- An arrival as the issuer of an operation. -/
def State.arrived (s : State) (a : Arrival) : Option OpIssuer :=
  (s.group a.g).map (fun x => { g := a.g, lanes := a.lanes, pc := a.pc, issued := (x.lane ((maskLanes a.lanes).headD 0)).issued + 1 })

/-- GANG_RENDEZVOUS_COMPLETE: every member has one arrival waiting and all agree; the operation enters the queue with the registers of the
member with the lowest GROUPID, or every arrival skips. -/
def execGangRendezvousComplete (blk base : Nat) (s : State) : Host.Outcome State Fault Refusal :=
  match s.latchOf blk base with
  | none => notEnabled "GANG_RENDEZVOUS_COMPLETE"
  | some l =>
    if (s.gangFailure l).isSome || !s.gangFull l then notEnabled "GANG_RENDEZVOUS_COMPLETE"
    else
      let cur := s.inOrder l.current
      let free (t : State) : State := t.setLatch { l with arrivals := l.later }
      match cur.head?.bind (fun a => (s.group a.g).map (fun x => (a, x))) with
      | none => notEnabled "GANG_RENDEZVOUS_COMPLETE"
      | some (a, x) =>
        if a.skip then .next ((free s).gangPark cur (fun pc => preciseFault 0x30 0 pc))
        else
          let by_ := cur.filterMap s.arrived
          match s.enterOp x a.instr by_ a.src a.pc with
          | .wait _ => notEnabled "GANG_RENDEZVOUS_COMPLETE"
          | .ask fa => if s.unitBusy (grpG a.g) then notEnabled "GANG_RENDEZVOUS_COMPLETE" else .next (s.askLine a.g x ((maskLanes a.lanes).headD 0) fa)
          | .fault t y => .next ((free t).gangPark cur (fun pc => { y with pc := pc, resume := pc }))
          | .off => .next (cur.foldl (fun t c => (maskLanes c.lanes).foldl (fun t i => t.laneOff c.g i) t) (free s))
          | .ok t => .next ((free t).afterEntry x.core a.instr true by_)

/-- GANGMIS_FAILURE: disagreeing arrivals, or a retired member (R350). -/
def execGangmisFailure (blk base : Nat) (s : State) : Host.Outcome State Fault Refusal :=
  match s.latchOf blk base with
  | none => notEnabled "GANGMIS_FAILURE"
  | some l =>
    match s.gangFailure l with
    | none => notEnabled "GANGMIS_FAILURE"
    | some r =>
      let x := BitVec.ofNat 32 (r + 256 * s.presentMask base l.current)
      .next ((s.setLatch { l with arrivals := l.later }).gangPark l.current (fun pc => preciseFault 0x30 x pc))

/-! ### Running the queue (R346, R347) -/

/-- Does an earlier operation of the queue set the flags of a unit whose elements the operation delivers to registers (R347)? -/
def MOp.flagsFirst (o earlier : MOp) : Bool :=
  let delivers := match o.instr with | .mrd _ => true | .mdrain f => f.reg | _ => false
  let flags := match earlier.instr with | .mdrain _ | .scacc _ => true | _ => false
  delivers && flags && o.items.1.any (fun i => earlier.items.1.contains i || earlier.items.2.contains i)

/-- MATRIX_OP_START: no earlier operation in the queue conflicts and the unit is free; an `mma` takes array 0 when both are. -/
def execMatrixOpStart (core n : Nat) (s : State) : Host.Outcome State Fault Refusal :=
  let c := s.core core
  match Store.find c.mq n with
  | none => notEnabled "MATRIX_OP_START"
  | some o =>
    let busy := c.mq.filter (fun e => e.2.started && mopUnit e.2.instr == mopUnit o.instr)
    let room := if mopUnit o.instr = 3 then decide (busy.length < 2) else if mopUnit o.instr = 0 then true else busy.isEmpty
    if 196 ≤ core || s.coreStopped core || o.started || !room || c.mq.any (fun e => decide (e.1 < n) && (e.2.conflicts o || o.flagsFirst e.2)) then notEnabled "MATRIX_OP_START"
    else
      let arr := if mopUnit o.instr = 3 then some (if busy.any (fun e => e.2.array == some 0) then 1 else 0) else none
      .next (s.updCore core (fun c => { c with mq := Store.upd c.mq n (fun o => { o with started := true, array := arr }) }))

/-- Set flags in the FPSTAT of every issuing group (R110, R115, R347). -/
def State.opFlags (s : State) (o : MOp) (fl : Flags) : State :=
  o.issuers.foldl (fun t x => t.updGroup x.g (fun g => { g with fpstat := g.fpstat ||| fl })) s

/-- An operation leaves its queue; a `tlbi` that waits for its merge looks again (R282). -/
def State.opGone (s : State) (core n : Nat) (o : MOp) : State :=
  let s1 := s.updCore core (fun c => { c with mq := Store.del c.mq n })
  if o.amax.isSome then s1.wakeAll .engine else s1

/-- Remove a performed operation from its queue; a held group goes on. -/
def State.opDone (s : State) (core n : Nat) (o : MOp) : State :=
  let s1 := s.opGone core n o
  if holdsIssuers o.instr then
    o.issuers.foldl (fun t x => t.updGroup x.g (fun g => g.upd (maskLanes x.lanes) (fun _ l =>
      if l.wait = .drain n then l.goTo (nextPc l.pc) else l))) s1
  else s1

/-- Requests of a core's matrix engine with the fabric carry this group number. -/
def matG (core n : Nat) : Nat := 2 ^ 42 + core * 2 ^ 32 + n

/-- Park the issuers of a `.trap` drain with CVTOVF and return the PEND it raised (R358). -/
def State.drainTrap (s : State) (core n : Nat) (o : MOp) (k : Nat) (ls : List Nat) : State :=
  let s1 := ls.foldl (fun t l => t.pendDone o.blk k l false) s
  let s2 := o.issuers.foldl (fun t x => t.updGroup x.g (fun g =>
    ((g.unpend o.key).wake .reply).park ((maskLanes x.lanes).filter (fun i => (g.lane i).wait == .drain n)) (preciseFault 0x08 0 x.pc))) s1
  s2.opGone core n o

/-- Raise an imprecise fault of an operation in the lowest passing thread (R335, R359). -/
def State.opImprecise (s : State) (o : MOp) (code : Byte) (extra : W32) (addr : Option W64) : State :=
  s.updGroup o.lead.g (fun g => g.upd [(maskLanes o.lead.lanes).headD 0] (fun i l => l.imprecise i g.trapvec code extra o.lead.pc addr o.lead.issued))

/-- The slice and the writer tag of an operation's first issuer. -/
def State.opSlice (s : State) (o : MOp) : Nat := match s.group o.lead.g with | some g => s.sliceOf g | none => 16
def State.opTag (s : State) (o : MOp) : BitVec 12 := match s.group o.lead.g with | some g => g.tag | none => 0xFFF

/-- The shadow word of an amax word follows its merge with `stamp` (R257): an atomic never conflicts. -/
def State.raceAmax (s : State) (o : MOp) (core home : Nat) (rchk : Bool) (stamp : Nat) : State :=
  let sl := s.opSlice o
  if s.racing sl rchk then (s.raceCheck (s.opVf o) sl core 0 (s.opTag o) o.src home true (some (2, stamp))).1 else s

/-- The amax merge at the home of a word (R359): its witness, null when the word is poisoned. -/
def State.mergeAmax (s : State) (o : MOp) (pa : Nat) (rchk : Bool) (core amax : Nat) : State × W64 :=
  if s.poisoned pa 4 then (s.opImprecise o 0x13 0 (some o.src), 0)
  else
    let sl := s.opSlice o
    let home := s.homeOf pa
    let vf := s.opVf o
    let c := s.commitGlobal sl vf pa (leBytes 4 (amaxMerge (s.natFor vf pa 4) amax)) 0 0 0
    (c.1.raceAmax o core home rchk c.2, mkWit 1 2 (s.genOf sl) home c.2)

/-- Ask the fabric to merge an amax into a coherent word (R519): a critical atomic with AOP of maximum and the .f32 width. -/
def State.askAmax (s : State) (core n : Nat) (o : MOp) (pa amax : Nat) (rchk : Bool) : State :=
  s.pushUnit { unitReq s (matG core n) (s.opVf o) (.atom .max true) o.src pa (leBytes 4 amax) 0 with
    slice := s.opSlice o, rchk := rchk, width := 9, scope := 2, pc := o.lead.pc }

/-- The coherent line that holds the shadow word of an amax word, or an entry of its translation, when it must come first (R255). -/
def State.amaxNeeds (s : State) (core : Nat) (o : MOp) : Option Nat :=
  match o.amax with
  | some (_, _, rc) => s.shadowAsk (s.opVf o) (s.opSlice o) core o.src rc
  | none => none

/-- Write the rows of a scratchpad drain (R357, R358): each element takes a stamp, in ascending order; the last is answered. -/
def State.drainWrite (s : State) (o : MOp) (core k : Nat) (f : FmtX) (xs : List Nat) : State × Nat :=
  let sl := s.opSlice o
  let w := f.oty.width / 8
  let r := s.stamp sl (spHome core) 0
  let last := r.2 + 8191
  let s1 := { r.1 with ctr := Store.set 0 r.1.ctr (sl * 1024 + spHome core) last }
  let s2 := s1.updShare o.blk k (fun sh => sh.write (128 * f.lineNo) (xs.flatMap (leBytes w)))
  ((drainLines f).foldl (fun t l => t.pendDone o.blk k l true) s2, last)

/-- Deliver a witness to the DST of every issuer (R358). -/
def State.deliverPair (s : State) (o : MOp) (dst : BitVec 10) (w : W64) : State :=
  o.issuers.foldl (fun t x => t.updGroup x.g (fun g => (t.noteWrite g w).deliver o.key ((maskLanes x.lanes).headD 0) dst 2 (w.zeroExtend 128))) s

/-- Deliver a row to the lanes of the issuer (R357, R360): element i low, element i + 32 high. -/
def State.deliverRow (s : State) (o : MOp) (dst : BitVec 10) (x : Nat → Nat) : State :=
  o.issuers.foldl (fun t is => t.updGroup is.g (fun g =>
    (((maskLanes is.lanes).foldl (fun g i => match Operand.ofSpec dst with
      | .vreg b => g.upd [i] (fun _ l => l.deliver o.key b 2 (BitVec.ofNat 128 (x i + 2 ^ 32 * x (i + 32))))
      | _ => g) g).unpend o.key).wake .reply)) s

/-- mdrain performed (R357–R359). -/
def State.performDrain (s : State) (core n : Nat) (o : MOp) (f : FmtX) (k : Nat) (sh : Share) : State :=
  let u := sh.unit f.acc.toNat
  let idx := if f.reg then (List.range 64).map (fun i => 64 * f.row + i) else List.range 8192
  let out := idx.map (drainElem u o.tag f.oty f.rnd f.ovf)
  if out.contains .trap then s.drainTrap core n o k (if f.reg then [] else drainLines f)
  else
    let xs := out.map Cv.bits
    let amax := amaxOf f.oty xs
    match o.amax, o.merged with
    | some (pa, true, rc), none => s.askAmax core n o pa amax rc
    | am, mg =>
      let s0 := s.opFlags o (joinFlags (out.map Cv.flags))
      let sl := s.opSlice o
      if f.reg then
        let s1 := s0.deliverRow o f.h.dst (fun i => xs.getD i 0)
        let s2 := match am, mg with
          | some (pa, false, rc), _ =>
            let m := s1.mergeAmax o pa rc core amax
            m.1.updGroup o.lead.g (fun g => m.1.noteWrite g m.2)
          | _, some x => s1.updGroup o.lead.g (fun g => s1.noteWrite g x)
          | _, _ => s1
        s2.opDone core n o
      else
        let w := s0.drainWrite o core k f xs
        let sw := mkWit 1 2 (s.genOf sl) (spHome core) w.2
        let m : State × W64 := match am, mg with
          | some (pa, false, rc), _ => w.1.mergeAmax o pa rc core amax
          | _, some x => (w.1, x)
          | _, none => (w.1, 0)
        (m.1.deliverPair o f.h.dst (m.1.joinPlain sl core sw m.2)).opDone core n o

/-- old performed (R353): a poisoned byte is copied as zero and the lowest passing thread parks with POISON (R335). -/
def State.performOld (s : State) (core n : Nat) (o : MOp) (f : FmtX) (sh : Share) : State :=
  let src (x : Nat) : Nat := oldRow o.src (x / 128) % 2 ^ 24 + x % 128
  let n128 := 128 * (f.row + 1)
  let s1 := { s with tiles := Store.upd s.tiles (tileKey core f.slota.toNat) (fun t =>
    { t with data := (List.range n128).foldl (fun d x =>
        Store.set 0 d x (if Store.get false sh.poison (src x) then 0 else Store.get 0 sh.mem (src x))) t.data }) }
  let s2 := if (List.range n128).any (fun x => Store.get false sh.poison (src x)) then s1.opImprecise o 0x13 0 none else s1
  s2.opDone core n o

/-- Zero the units an operation dissolves. -/
def State.zeroUnits (s : State) (blk core : Nat) (us : List Nat) : State :=
  us.foldl (fun t u => t.updUnit blk core u (fun x => { x with e := [], sc := {} })) s

/-- Perform an operation (R346: as one by one in queue order). -/
def State.performOp (s : State) (core n : Nat) (o : MOp) : State :=
  match s.shareAt o.blk core with
  | none => s.opGone core n o
  | some (k, sh) =>
    let tile := s.tileData core
    match o.instr with
    | .orel f => ({ s with tiles := Store.del s.tiles (tileKey core f.slota.toNat) }.wakeAll (.slot f.slota.toNat)).opDone core n o
    | .old f => s.performOld core n o f sh
    | .mma f =>
      let a := tile f.slota.toNat
      let b := tile f.slotb.toNat
      let acc := f.acc.toNat
      if f.gsz = 0 then
        if f.ety.isFloat then
          let r := mmaFloat f.ety a b (sh.unit acc).e
          ((s.updUnit o.blk core acc (fun u => { u with e := r.1 })).opFlags o r.2).opDone core n o
        else (s.updUnit o.blk core acc (fun u => { u with e := mmaInt f.ety a b u.e })).opDone core n o
      else
        ((List.range (planes f.ety f.gsz)).foldl (fun t g =>
          t.updUnit o.blk core (acc + g) (fun u => { u with e := mmaPlane f.ety f.gsz a b (tile f.qslot) g, sc := {} }))
          (s.zeroUnits o.blk core o.zero)).opDone core n o
    | .mzero f =>
      (s.zeroUnits o.blk core (o.zero ++ (if f.xflg.getLsbD 0 then [f.acc.toNat, f.acc.toNat + 1] else [f.acc.toNat]))).opDone core n o
    | .scacc f =>
      let r := scaccTile (tile f.qslot) ((unitsFrom f.pbase (planes f.ety f.gsz)).map (fun u => (sh.unit u).e)) (sh.unit f.acc.toNat).sc
      ((s.updUnit o.blk core f.acc.toNat (fun u => { u with sc := r.1 })).opFlags o r.2).opDone core n o
    | .mdrain f => s.performDrain core n o f k sh
    | .mrd f =>
      (s.deliverRow o f.h.dst (fun i => (Store.get 0 (sh.unit f.acc.toNat).e (64 * f.row + i)).toNat)).opDone core n o
    | _ => s.opDone core n o

/-- Does performing the operation commit writes, which stall while the stamp space of its slice is renewed (R239)? -/
def MOp.commits (o : MOp) : Bool := match o.instr with | .mdrain f => !f.reg || o.amax.isSome | _ => false

end Sys2Proof.Machine
end

