-- ==== Sys2Proof/Machine/Barrier.lean ====
section
/-! DEFINITION. The barrier instructions (R367–R374, opcodes 0x240–0x24F) and the events of witness arrivals. -/

namespace Sys2Proof.Machine

/-- The slot when it is Armed by the block of the group. -/
def State.heldBar (s : State) (gr : Group) (f : FmtS) : Option BarSlot :=
  (Store.find s.bars (s.slotKeyOf gr f)).filter (fun b => b.blk == gr.blk)

/-- BARBUSY (R368, R373). -/
def barBusy (f : FmtS) (pc : W64) : FaultInfo := preciseFault 0x40 (f.imm.zeroExtend 32) pc

/-- Arm a slot (R368); the phase that is complete from the start completes at once (R364). -/
def State.arm (s : State) (gr : Group) (key : Nat) (cfg : W32) : State :=
  let b : BarSlot := { blk := gr.blk, first := (cfg.extractLsb' 0 12).toNat, ng := (cfg.extractLsb' 12 12).toNat + 1,
                       eng := (cfg.extractLsb' 24 8).toNat, phase := 0, arrived := 0, live := 0, engarr := 0, pend := [] }
  ({ s with bars := Store.put s.bars key { b with live := s.barLive b key } }).testBar key

/-- bini (R368): `bwait` threads of a slot that is re-armed leave with BROKEN. -/
def execBini (f : FmtS) (s : State) : Host.Outcome State Fault Refusal :=
  issueWith (.bini f) true s (fun iss gr path ps s' =>
    let key := s'.slotKeyOf gr f
    let cfg := gr.src32 (ps.headD 0) f.a
    match Store.find s'.bars key with
    | none => (s'.arm gr key cfg).updGroup iss.g (fun g1 => g1.advance iss path)
    | some b =>
      if b.blk = gr.blk ∧ b.arrived = 0 ∧ b.pend = [] then
        ((s'.leaveBars b.blk key (fun w => if w.token.isSome then some (barStatus false true b.phase) else none)).arm gr key cfg).updGroup
          iss.g (fun g1 => g1.advance iss path)
      else s'.updGroup iss.g (fun g1 => g1.park ps (barBusy f iss.pc)))

/-- The path waits at a slot. -/
def Group.waitBar (gr : Group) (ps : List Nat) (b : BarWait) : Group :=
  gr.upd ps (fun _ l => { l with bar := some b, issued := l.issued + 1, exempt := false, wait := .none })

/-- A status is written at once and the path goes on. -/
def Group.barNow (gr : Group) (iss : Issue) (path ps : List Nat) (f : FmtS) (w : W32) : Group :=
  (gr.writeDst f.h.dst 1 ps (fun _ => w.zeroExtend 128)).advance iss path

/-- barr (R369). -/
def execBarr (f : FmtS) (s : State) : Host.Outcome State Fault Refusal :=
  issueWith (.barr f) true s (fun iss gr path ps s' =>
    match s'.heldBar gr f with
    | none => s'.updGroup iss.g (fun g1 => g1.barNow iss path ps f (barStatus true false 0))
    | some _ =>
      (s'.updGroup iss.g (fun g1 => g1.waitBar path { slot := f.imm.toNat, token := none, dst := f.h.dst })).barEvent
        (s'.slotKeyOf gr f) (fun b => { b with arrived := b.arrived + path.length }))

/-- bwait (R370). -/
def execBwait (f : FmtS) (s : State) : Host.Outcome State Fault Refusal :=
  issueWith (.bwait f) true s (fun iss gr path ps s' =>
    match s'.heldBar gr f with
    | none => s'.updGroup iss.g (fun g1 => g1.barNow iss path ps f (barStatus true false 0))
    | some b =>
      let t := (gr.src32 (ps.headD 0) f.a).extractLsb' 0 16
      if phaseDone b.phase t then s'.updGroup iss.g (fun g1 => g1.barNow iss path ps f (barStatus false false t))
      else s'.updGroup iss.g (fun g1 => g1.waitBar path { slot := f.imm.toNat, token := some t, dst := f.h.dst }))

/-- A dropped arrival: it counts in ORPHAN when its witness is satisfied (R371, R373). -/
def State.orphaned (s : State) (core : Nat) (now : Bool) (vf : Nat) (w : W64) : State :=
  s.updCore core (fun c => if now then { c with orphan := c.orphan + 1 } else { c with orphans := c.orphans ++ [(vf, w)] })

/-- PENDENG is full (R371). -/
def BarSlot.pendFull (b : BarSlot) : Bool := decide (255 ≤ b.pend.length)

/-- barw waits while PENDENG is full. -/
def State.barwWait (s : State) (f : FmtS) (gr : Group) (ps : List Nat) : Option WaitFor :=
  match s.sat gr true (gr.src64 (ps.headD 0) f.a), s.heldBar gr f with
  | .no, some b => if b.pendFull then some .barrier else none
  | _, _ => none

/-- barw (R371). -/
def execBarw (f : FmtS) (s : State) : Host.Outcome State Fault Refusal :=
  issueWith (.barw f) true s (fun iss gr path ps s' =>
    let w := gr.src64 (ps.headD 0) f.a
    let x := s'.sat gr true w
    match x.fault? with
    | some c => s'.updGroup iss.g (fun g1 => g1.park ps (preciseFault c 0 iss.pc))
    | none =>
      let go (t : State) : State := t.updGroup iss.g (fun g1 => g1.advance iss path)
      match s'.heldBar gr f with
      | none => go (s'.orphaned gr.core (x == .yes) (s'.jobVf gr) w)
      | some b =>
        if x = .yes then go (s'.barEvent (s'.slotKeyOf gr f) BarSlot.witArrived)
        else if b.pendFull then s'.putGroup iss.g (gr.stay path .barrier)
        else go { s' with bars := Store.put s'.bars (s'.slotKeyOf gr f) { b with pend := b.pend ++ [(s'.jobVf gr, w)] } })

/-- binv (R373). -/
def execBinv (f : FmtS) (s : State) : Host.Outcome State Fault Refusal :=
  issueWith (.binv f) true s (fun iss gr path ps s' =>
    match s'.heldBar gr f with
    | none => s'.updGroup iss.g (fun g1 => g1.advance iss path)
    | some b =>
      if f.sub = 0 ∧ ¬(b.arrived = 0 ∧ b.pend = []) then s'.updGroup iss.g (fun g1 => g1.park ps (barBusy f iss.pc))
      else ((s'.freeBar (s'.slotKeyOf gr f) gr.core).wakeAll .barrier).updGroup iss.g (fun g1 => g1.advance iss path))

/-- The word of `bqry` (R374). -/
def State.bqryWord (s : State) (gr : Group) (f : FmtS) : W32 :=
  let st := f.sub == 0
  match Store.find s.bars (s.slotKeyOf gr f) with
  | none => 0
  | some b =>
    if b.blk ≠ gr.blk then (if st then 0x80000000 else 0)
    else match f.sub.toNat with
      | 0 => BitVec.ofNat 32 (2 ^ 30 + min 63 b.pend.length * 2 ^ 24 + b.engarr % 256 * 2 ^ 16 + b.phase.toNat)
      | 1 => BitVec.ofNat 32 (min 0xFFFF b.live * 65536 + min 0xFFFF b.arrived)
      | 2 => BitVec.ofNat 32 (b.live % 2 ^ 18)
      | _ => BitVec.ofNat 32 (b.arrived % 2 ^ 18)

/-- bqry (R374). -/
def execBqry (f : FmtS) (s : State) : Host.Outcome State Fault Refusal :=
  issueWith (.bqry f) true s (fun iss gr path ps s' =>
    let w := s'.bqryWord gr f
    s'.updGroup iss.g (fun g1 => g1.barNow iss path ps f w))

/-! ### Witness arrivals -/

/-- Remove element i of a list. -/
def dropAt {α : Type} (l : List α) (i : Nat) : List α := l.take i ++ l.drop (i + 1)

/-- BARRIER_WITNESS_ARRIVAL: a pending arrival's witness is satisfied, while the block is pre-empted too (R375); a `barw` that waits for room looks again. -/
def execBarrierWitnessArrival (key i : Nat) (s : State) : Host.Outcome State Fault Refusal :=
  match Store.find s.bars key with
  | none => notEnabled "BARRIER_WITNESS_ARRIVAL"
  | some b =>
    match b.pend[i]? with
    | none => notEnabled "BARRIER_WITNESS_ARRIVAL"
    | some (vf, w) =>
      if s.satBy vf (barCore key) w = .yes then
        .next ((s.barEvent key (fun b => { b.witArrived with pend := dropAt b.pend i })).wakeAll .barrier)
      else notEnabled "BARRIER_WITNESS_ARRIVAL"

/-- ORPHAN_ARRIVAL: a dropped arrival's witness is satisfied. -/
def execOrphanArrival (core i : Nat) (s : State) : Host.Outcome State Fault Refusal :=
  match (s.core core).orphans[i]? with
  | none => notEnabled "ORPHAN_ARRIVAL"
  | some (vf, w) =>
    if s.satBy vf core w = .yes then
      .next (s.updCore core (fun c => { c with orphans := dropAt c.orphans i, orphan := c.orphan + 1 }))
    else notEnabled "ORPHAN_ARRIVAL"

end Sys2Proof.Machine
end

