-- ==== Sys2Proof/Machine/Sched.lean ====
section
/-! DEFINITION. The group scheduler: paths (R174–R179), what their next instructions wait for (R299), the issue cycle with its tenant shares
(R304–R306), swaps of the active set and `yield` (R197, R298–R302), the fetch of a line, the entry to a handler and the arrival of a register
line. -/

namespace Sys2Proof.Machine

/-! ### Paths (R174–R178) -/

/-- Has a running thread issued an instruction that holds it: at a barrier, at a rendezvous or for an operation (R347, R349, R369)? -/
def Lane.arrived (l : Lane) : Bool :=
  l.bar.isSome || (!l.inHandler && l.barLate != []) || (match l.wait with | .gang | .drain _ => true | _ => false)

/-- The path of lane i: the running threads with its PC. Threads that an instruction holds make a path of their own: those that come to it later
have still to issue it (log 115). -/
def Group.pathOf (gr : Group) (i : Nat) : BitVec 32 :=
  laneMask ((List.range 32).filter (fun k => (gr.lane k).run == .running && (gr.lane k).arrived == (gr.lane i).arrived && (gr.lane k).pc == (gr.lane i).pc))

/-- The lowest lane of a mask, 32 for the empty one. -/
def lowLane (m : BitVec 32) : Nat := ((List.range 32).find? (fun i => m.getLsbD i)).getD 32

/-- The live paths, by their lowest lane; between the instructions of a pair its threads alone are served (R69). -/
def Group.paths (gr : Group) : List (Nat × BitVec 32) :=
  let one (ls : List Nat) : List (Nat × BitVec 32) := match ls with | [] => [] | i :: _ => [(i, laneMask ls)]
  if gr.between ≠ 0 then one ((List.range 32).filter (fun i => gr.between.getLsbD i))
  else (((List.range 32).filter (fun i => (gr.lane i).run == .running)).map (fun i => (i, gr.pathOf i))).filter (fun p => lowLane p.2 == p.1)

/-- What the group's fetch would find at `pc`: the word there, whether a pair joins the next, and that one; a line to come; or a line that
faults. -/
inductive Peeked where
  | word (w : W96) (pair : Bool) (other : W96)
  | ask
  | faults
  deriving DecidableEq, Repr

/-- The word at `pc` as the fetch of thread i would find it. -/
def State.peek (s : State) (gr : Group) (i : Nat) (pc : W64) : Peeked :=
  let k := (pc.extractLsb' 0 3).toNat
  match (s.issueLine gr i pc).2 with
  | .bad _ _ _ => .faults
  | .ask _ => .ask
  | .line d => if 4 < k then .faults else .word (lineSlot d k) (linePair d k) (lineSlot d (k + 1))

/-! ### What an instruction waits for (R214, R299) -/

/-- Global accesses, with their per-path forms marked. -/
def globalForm (i : Instr) : Option (FmtM × Bool) :=
  match i with
  | .ld f | .st f => some (f, false)
  | .sld f | .sst f => some (f, true)
  | .atomAdd f | .atomMin f | .atomMax f | .atomAnd f | .atomOr f | .atomXor f | .atomExch f | .atomCas f => some (f, false)
  | .redAdd f | .redMin f | .redMax f | .redAnd f | .redOr f | .redXor f => some (f, false)
  | _ => none

/-- What a global access is: a load, a store, an atomic or a reduction. -/
def globalKind (i : Instr) : ReqKind :=
  match i with
  | .ld _ | .sld _ => .load
  | .st _ | .sst _ => .store
  | .redAdd _ | .redMin _ | .redMax _ | .redAnd _ | .redOr _ | .redXor _ => .atom .add true
  | _ => .atom .add false

/-- Scratchpad accesses. -/
def scratchForm (i : Instr) : Option FmtE :=
  match i with
  | .lds f | .sts f => some f
  | .atomsAdd f | .atomsMin f | .atomsMax f | .atomsAnd f | .atomsOr f | .atomsXor f | .atomsExch f | .atomsCas f => some f
  | _ => none

/-- What a scratchpad access is: a load, a store or an atomic. -/
def scratchKind (i : Instr) : ReqKind := match i with | .lds _ => .load | .sts _ => .store | _ => .atom .add false

/-- Copies. -/
def copyForm (i : Instr) : Option (JobKind × FmtE) :=
  match i with
  | .cpy f => some (.cpy, f)
  | .cpyo f => some (.cpyo, f)
  | .cpyg f => some (.cpyg, f)
  | _ => none

/-- Instructions that execute once for a path whatever their destination is. -/
def oncePerPath (i : Instr) : Bool :=
  match i with
  | .sld _ | .sst _ | .wrlane _ | .cpy _ | .cpyo _ | .cpyg _ | .fmask _ | .engx _ | .strmx _ => true
  | .gang _ | .oclm _ | .orel _ | .old _ | .mma _ | .mzero _ | .scacc _ | .mdrain _ | .mrd _ => true
  | .bini _ | .barr _ | .bwait _ | .barw _ | .binv _ | .bqry _ => true
  | .wrcr _ | .sys _ | .halt _ | .tlbi _ | .ldio _ | .stio _ | .mbxw _ => true
  | _ => false

/-- Does the meaning of the instruction execute it once for the path (R25)? -/
def executesOnce (i : Instr) : Bool :=
  oncePerPath i ||
  ((globalForm i).isNone && (scratchForm i).isNone && (match i with | .wjoinr _ | .rdflt _ | .strm _ => false | _ => isScalSpec (use i).h.dst))

/-- The instructions that rendezvous in a ganged group (R349). -/
def rendezvous (i : Instr) : Bool :=
  match i with
  | .mma _ | .mzero _ | .scacc _ => true
  | .mdrain f => !f.reg
  | _ => false

/-- While the group awaits a coherent line it waits for a reply. -/
def State.askWait (s : State) (g : Nat) (ask : Bool) : Option WaitFor := if ask && s.unitBusy (grpG g) then some .reply else none

/-- What a witness instruction's threads wait for (R229, R230, R232). -/
def State.joinWait (s : State) (gr : Group) (ps : List Nat) (i : Instr) : Option WaitFor :=
  let ls := issuers (executesOnce i) ps
  let waits : Bool := match i with
    | .wjoin f => ls.any (fun l => wjoinRes f s gr ps l == .wait)
    | .wwait f => ls.any (fun l => wwaitRes f s gr ps l == .wait)
    | .wjoinr f => ps.any (fun l => wjoinrArg f s gr l == .wait)
    | _ => false
  if waits then some .witness else none

/-- What an operation of the matrix engine waits for at issue (R347, R349). -/
def State.matrixWait (s : State) (iss : Issue) (gr : Group) (path ps : List Nat) (i : Instr) : Option WaitFor :=
  if rendezvous i && gangMask gr.gang != 0 then (if !s.gangApart gr && s.noLatch gr then some .engine else none)
  else
    match s.enterOp gr i [iss.opIssuer gr path] (matSrc i gr (ps.headD 0)) iss.pc with
    | .wait w => some w
    | .ask _ => s.askWait iss.g true
    | _ => none

/-- What the threads of a global access wait for: their witnesses, the line of a table, or an entry of the remote-wait table (R214, R299, R520). -/
def State.globalWait (s : State) (iss : Issue) (gr : Group) (ls : List Nat) (f : FmtM) (k : ReqKind) : Option WaitFor :=
  ((s.witWait gr ls f.c).or (s.askWait iss.g (ls.any (fun l => (s.effAsk f gr l).isSome)))).or
    (if ls.any (fun l => (s.sat gr true (gr.presented l f.c)).fault?.isNone && s.lacksEntry (s.globalReq iss gr (accSpec f k 0) s.nextSeq l (effAddr f gr l) 0 (gr.presented l f.c) []).2) then some .reply else none)

/-- What the passing threads of a path wait for in an instruction whose operands are there. -/
def State.issueWait (s : State) (iss : Issue) (gr : Group) (path ps : List Nat) (i : Instr) : Option WaitFor :=
  let lane := ps.headD 0
  match globalForm i, scratchForm i, copyForm i with
  | some (f, once), _, _ => s.globalWait iss gr (issuers once ps) f (globalKind i)
  | _, some f, _ => s.witWait gr ps f.c
  | _, _, some (k, f) =>
    (match s.copyIssue k f gr iss.g lane iss.pc with
     | .wait w => some w
     | .ask _ => s.askWait iss.g true
     | _ => none)
  | _, _, _ =>
    match i with
    | .wjoin _ | .wwait _ | .wjoinr _ => s.joinWait gr ps i
    | .pref f => s.askWait iss.g (ps.any (fun l => (s.effAsk f gr l).isSome))
    | .wrcr f => s.askWait iss.g (s.watchAsk gr f.imm ((gr.src lane f.a (crRegs f.imm)).setWidth 64)).isSome
    | .strm f => (s.witWait gr [lane] f.c).or (s.askWait iss.g (s.groupAsks iss.g gr (gr.src64 lane f.b) 64).isSome)
    | .engx f =>
      let a := gr.src64 lane f.a
      (match (s.groupRead iss.g gr iss.pc a 64).2 with
       | .ok _ => if a.toNat % 64 = 0 ∧ (s.freeSlot (gr.core / 49 * 24 + f.imm.toNat)).isNone then some .engine else none
       | .error _ => none)
    | .tlbi f =>
      if s.tlbBusy f.sub.toNat (if f.b = noneSpec then 0 else (gr.src32 lane f.b).toNat) (if f.a = noneSpec then 0 else gr.src64 lane f.a)
      then some .engine else none
    | .barw f => s.barwWait f gr ps
    | .oclm f =>
      if !f.try_ && (Store.find s.tiles (tileKey gr.core f.slota.toNat)).isSome then some (.slot f.slota.toNat) else none
    | .orel _ | .old _ | .mma _ | .mzero _ | .scacc _ | .mdrain _ | .mrd _ => s.matrixWait iss gr path ps i
    | _ => none

/-- A path as a pick. -/
def Group.pickOf (gr : Group) (g : Nat) (p : Nat × BitVec 32) : Issue :=
  { g := g, lanes := p.2, pc := (gr.lane p.1).pc, first := false, second := gr.between != 0, other := 0 }

/-- What the next instruction of a path waits for (R174, R299): nothing, when it is ready. A word that faults is ready to. A path that its
instruction holds waits for that to go on. -/
def State.pathWait (s : State) (g : Nat) (gr : Group) (p : Nat × BitVec 32) : Option WaitFor :=
  let iss := gr.pickOf g p
  if (gr.lane p.1).arrived then some .barrier else
  match s.peek gr p.1 iss.pc with
  | .faults => none
  | .ask => s.askWait g true
  | .word w pair other =>
    match decode w with
    | .error _ => none
    | .ok i =>
      let iss := { iss with first := pair && !iss.second, other := fld 10 86 other }
      let path := iss.path gr
      match prep iss gr i (executesOnce i) with
      | .stay w => some w
      | .again _ => none
      | .go _ [] => if rendezvous i && gangMask gr.gang != 0 && guardSkips iss gr i then s.matrixWait iss gr path [] i else none
      | .go gr' (q :: ps) => (s.putGroup g gr').issueWait iss gr path (q :: ps) i

/-- Is the path ready (R174)? A witness that a cycle has found unsatisfied is waited for until it is found satisfied. -/
def State.pathReady (s : State) (g : Nat) (gr : Group) (p : Nat × BitVec 32) : Bool :=
  (List.range 32).all (fun i => !p.2.getLsbD i || ((gr.lane i).wait != .witness && ((gr.lane i).wait != .reply || !s.unitBusy (grpG g)))) &&
  (s.pathWait g gr p).isNone

/-- May the group issue: its block is not ending (R264) and no service or event is awaited? -/
def State.mayIssue (s : State) (gr : Group) : Bool := !(s.blockEnding gr.blk || gr.sysq.isSome || gr.haltq.isSome)

/-- The ready paths of a group that may issue. -/
def State.readyPaths (s : State) (g : Nat) (gr : Group) : List (Nat × BitVec 32) :=
  if s.mayIssue gr then gr.paths.filter (s.pathReady g gr) else []

/-- The turn in which a path was last served: the earliest of its threads'. -/
def Group.servedAt (gr : Group) (m : BitVec 32) : Nat :=
  (maskLanes m).foldl (fun n i => min n (gr.lane i).served) gr.turnNo

/-- The path served next (R175): the current one while its quantum lasts, else of the ready ones that whose turn lies longest back, ties to the
lower lane (R178). -/
def Group.choose (gr : Group) (ready : List (Nat × BitVec 32)) : Option (Nat × BitVec 32) :=
  match ready.find? (fun p => p.2 == gr.turn && gr.quantum != 0) with
  | some p => some p
  | none => ready.foldl (fun o p => match o with
    | none => some p
    | some q => if gr.servedAt p.2 < gr.servedAt q.2 then some p else some q) none

/-! ### The issue cycle (R304, R305) -/

/-- The resource of an opcode: its class, by which `resCap` counts (R304). -/
def resClass (op : BitVec 10) : Nat :=
  let o := op.toNat
  if 0x90 ≤ o ∧ o ≤ 0x98 then 2
  else if 1 ≤ o ∧ o ≤ 0x7F then 0
  else if 0x80 ≤ o ∧ o ≤ 0xFF then 1
  else if (0x140 ≤ o ∧ o ≤ 0x1BF) ∨ (0x1F0 ≤ o ∧ o ≤ 0x20F) then 3
  else if 0x210 ≤ o ∧ o ≤ 0x23F then 4
  else 5

/-- Instructions of a class that a core issues in a cycle. -/
def resCap (k : Nat) : Nat := [2, 6, 1, 2, 1, 8].getD k 8

/-- The progress of one cycle: slots left, what each class has issued, and the picks with their places in the order of R365. -/
structure Cycle where
  s     : State
  slots : Nat
  used  : List Nat
  picks : List (Issue × Nat)

/-- Is the resource free? -/
def Cycle.free (c : Cycle) (core : Nat) (op : BitVec 10) : Bool :=
  let k := resClass op
  decide (0 < c.slots) && decide (c.used.getD k 0 < resCap k) && (k != 2 || (c.s.core core).trans == 0)

/-- Take a slot and the resource. -/
def Cycle.take (c : Cycle) (core : Nat) (op : BitVec 10) : Cycle :=
  let k := resClass op
  { c with s := if k = 2 then c.s.updCore core (fun x => { x with trans := 4 }) else c.s, slots := c.slots - 1,
           used := c.used.set k (c.used.getD k 0 + 1) }

/-- Do the registers of two specifiers overlap, at their numbers of registers? -/
def specMeets (x : BitVec 10) (n : Nat) (y : BitVec 10) (m : Nat) : Bool :=
  match Operand.ofSpec x, Operand.ofSpec y with
  | .vreg a, .vreg b => decide (a < b + m) && decide (b < a + n)
  | .sreg a, .sreg b => decide (a < b + m) && decide (b < a + n)
  | _, _ => false

/-- The registers that an instruction's first destination takes. -/
def dstRegs (i : Instr) : Nat := match (use i).ops.find? OpUse.isDst with | some o => o.regs | none => 0

/-- Does the second instruction of a pair read the first's result: its latch, its destination's registers, or a guard there (R69)? -/
def readsResult (w1 w2 : W96) : Bool :=
  match decode w1, decode w2 with
  | .ok i, .ok j =>
    let d := (use i).h.dst
    let n := dstRegs i
    let g := (use j).h.greg.toNat
    (producesResult i && (use j).ops.any (fun o => !o.isDst && Operand.ofSpec o.spec == .latch 0)) ||
    (use j).ops.any (fun o => (!o.isDst || keepsDst j) && specMeets d n o.spec o.regs) ||
    (decide (g < 384) && specMeets d n (BitVec.ofNat 10 g) 1)
  | _, _ => false

/-- Will the instruction of a path switch a lane off: a scratchpad range or an Uninit line (R265, R315, R324, R353, R358)? -/
def State.switchesOff (s : State) (gr : Group) (iss : Issue) (w : W96) : Bool :=
  match decode w with
  | .error _ => false
  | .ok i =>
    match prep iss gr i (executesOnce i) with
    | .go _ ps =>
      (match scratchForm i with
       | some f => ps.any (fun l => match (s.shareReq iss gr (spSpec f (scratchKind i) 0) 0 l (spEff f gr l) 0 0 []).2 with | .off => true | _ => false)
       | none =>
         if (match i with | .old _ => true | .mdrain f => gangMask gr.gang == 0 || f.reg | _ => false) then
           (match s.enterOp gr i [iss.opIssuer gr (iss.path gr)] (matSrc i gr (ps.headD 0)) iss.pc with | .off => ps != [] | _ => false)
         else false)
    | _ => false

/-- The place of an instruction in the order in which those of a cycle act on barrier slots (R365): exits, witness arrivals, thread arrivals, and
the rest. -/
def State.eventOrder (s : State) (gr : Group) (iss : Issue) (w : W96) : Nat :=
  let op := fld 10 86 w
  if op = 0x10A ∨ s.switchesOff gr iss w then 0 else if op = 0x243 then 1 else if op = 0x241 then 2 else 3

/-- A path's instruction is picked; the second of a pair issues with it, or first in the next cycle when it reads the first's result or finds no
slot or resource (R69, R305). -/
def Cycle.pickPath (c : Cycle) (core g : Nat) (gr : Group) (p : Nat × BitVec 32) : Cycle :=
  let iss := gr.pickOf g p
  let x : W96 × Bool × W96 := match c.s.peek gr p.1 iss.pc with
    | .word w pair other => (w, pair && !iss.second, other)
    | _ => (nopWord, false, nopWord)
  let op := fld 10 86 x.1
  if !c.free core op then c
  else
    let c1 := { c.take core op with picks := c.picks ++ [(iss, c.s.eventOrder gr iss x.1)] }
    let op2 := fld 10 86 x.2.2
    if !x.2.1 then c1
    else if !readsResult x.1 x.2.2 && c1.free core op2 then c1.take core op2
    else { c1 with s := c1.s.updCore core (fun k => { k with carry := k.carry ++ [(g, op2)] }) }

/-- A ready group's turn in the cycle; a group whose second instruction came first has had it. -/
def Cycle.pick (c : Cycle) (core g : Nat) : Cycle :=
  match c.s.group g with
  | none => c
  | some gr =>
    if c.picks.any (fun x => x.1.g == g) then c
    else match gr.choose (c.s.readyPaths g gr) with
      | none => c
      | some p => c.pickPath core g gr p

/-- The picks of a cycle in the order of R365. -/
def inEventOrder (l : List (Issue × Nat)) : List Issue :=
  ((List.range 4).flatMap (fun k => l.filter (fun x => x.2 == k))).map Prod.fst

/-- Insert a tenant by descending counter, ties by lower slot. -/
def insTenant (t : Tenant) : List Tenant → List Tenant
  | [] => [t]
  | u :: us => if u.c < t.c ∨ (u.c = t.c ∧ t.slot < u.slot) then t :: u :: us else u :: insTenant t us

/-- Insert a group by age, oldest first. -/
def insAge (s : State) (g : Nat) : List Nat → List Nat
  | [] => [g]
  | h :: hs =>
    let age (x : Nat) : Nat := match s.group x with | some gr => gr.age | none => 0
    if age g < age h then g :: h :: hs else h :: insAge s g hs

/-- Active groups of a tenant on the core that are ready, oldest first. -/
def State.readyOf (s : State) (core vf : Nat) : List Nat :=
  ((s.core core).active.filter (fun g => match s.group g with
    | some gr => s.tenantOf gr == vf && s.readyPaths g gr != []
    | none => false)).foldl (fun l g => insAge s g l) []

/-- Does a wait count in STALLC and towards a swap: is it one that R299 lists? A claimed operand slot is not among them. -/
def WaitFor.counts : WaitFor → Bool
  | .none => false
  | .slot _ => false
  | _ => true

/-- Does the group wait in the sense of R299: it is not halted, none of its live paths is ready, and a thread waits for what R299 lists? -/
def State.groupWaits (s : State) (g : Nat) (gr : Group) : Bool :=
  !s.blockEnding gr.blk && gr.haltq.isNone && (s.readyPaths g gr).isEmpty &&
  ((gr.sysq.isSome && gr.lanes.any (fun l => l.run == .running)) ||
   gr.lanes.any (fun l => l.run == .running && l.arrived) ||
   gr.paths.any (fun p => match s.pathWait g gr p with
     | some w => w.counts
     | none => (maskLanes p.2).any (fun i => (gr.lane i).wait == .witness || (gr.lane i).wait == .reply)))

/-- The threads of paths whose next instruction presents a witness that is not satisfied wait for it (R214). -/
def State.markWitness (s : State) (g : Nat) (gr : Group) : Group :=
  if s.mayIssue gr then
    gr.paths.foldl (fun x p => if s.pathWait g gr p = some .witness then x.stay (maskLanes p.2) .witness else x) gr
  else gr

/-- A current path that is not ready ends its turn (R175, R179). -/
def State.endTurn (s : State) (g : Nat) (gr : Group) : Group :=
  if (s.readyPaths g gr).any (fun p => p.2 == gr.turn) then gr else { gr with quantum := 0 }

/-- The cycle's effect on a group of the core: STALLC (R42), consecutive waited cycles (R300), the end of a turn (R175), waits for witnesses (R214),
a home-watch notice that waited for a thread (R378). -/
def State.tickGroup (s : State) (core : Nat) (g : Nat) (gr : Group) : Group :=
  if gr.core ≠ core ∨ (gr.st ≠ .active ∧ gr.st ≠ .pending) then gr
  else
    let w := s.groupWaits g gr
    let g0 := s.endTurn g (s.markWitness g gr)
    let g1 := { g0 with stallc := if w then gr.stallc + 1 else gr.stallc, waited := if w && gr.st == GState.active then gr.waited + 1 else 0 }
    match g1.notices with
    | [] => g1
    | (n, cls, line) :: rest => { g1 with notices := rest }.watchNotice n cls line

/-- DEFICIT_REFILL (R305). -/
def State.refillTenants (s : State) (ts : List Tenant) : List Tenant :=
  ts.map (fun t => { t with c := min (t.c + s.weightOf t.vf) (s.weightOf t.vf) })

/-- The second instructions of the last cycle's pairs issue first (R69, R305); one whose operands are still to come is a path's next instruction
like any other (log 132). -/
def Cycle.carried (c : Cycle) (core : Nat) (l : List (Nat × BitVec 10)) : Cycle :=
  l.foldl (fun c e => match c.s.group e.1 with
    | some gr => if gr.between = 0 ∨ gr.core ≠ core then c else c.pick core e.1
    | none => c) { c with s := c.s.updCore core (fun x => { x with carry := [] }) }

/-- The corrected SRAM errors that the accesses of a cycle meet (R379, R381): a free choice. -/
def metCe (n : Nat) : W32 := if Config.freeNat n % 2 = 1 then 1 else 0

/-- Does the core run at 1.9 GHz: a slice with BOOST that is not protected holds it, and module power does not limit it (R459)? -/
def State.boosted (s : State) (core : Nat) : Bool :=
  let cl := core / 49 * 12 + core % 49 / 4
  !s.capped && core % 49 != 48 &&
    s.slices.any (fun e => e.2.st == .running && e.2.boost && !e.2.prot && (e.2.clusters.getLsbD cl && !e.2.lent.getLsbD cl || e.2.borrowed.getLsbD cl))

/-- One cycle of one core (R305): the state after it, and its picks. -/
def State.coreCycle (s : State) (core : Nat) : State × List (Issue × Nat) :=
  let k := s.core core
  let ready : List Tenant := k.tenants.filter (fun t => s.readyOf core t.vf != [])
  let s1 := if ready.all (fun t => decide (t.c ≤ 0)) then s.updCore core (fun x => { x with tenants := s.refillTenants x.tenants }) else s
  let order := ((s1.core core).tenants.filter (fun t => s.readyOf core t.vf != [])).foldl (fun l t => insTenant t l) []
  let c0 : Cycle := { s := s1, slots := 8, used := [0, 0, 0, 0, 0, 0], picks := [] }
  let c2 := order.foldl (fun c t => (s.readyOf core t.vf).foldl (fun c g => c.pick core g) c) (c0.carried core k.carry)
  let s2 := { c2.s with groups := c2.s.groups.map (fun (e : Nat × Group) => (e.1, s.tickGroup core e.1 e.2)) }
  let s3 := ((s2.core core).tenants.foldl (fun t x => t.meterAdd x.vf 1 1) s2).updCore core (fun x =>
    { x with cycle := x.cycle + 1, ticks := x.ticks + (if s.boosted core then 16 else 19), trans := x.trans - 1 })
  ({ s3 with time := max s3.time ((s3.core core).ticks / 19), free := s3.free + 1 }.updCore core (fun x => { x with sramce := x.sramce + metCe s3.free }),
   c2.picks)

/-- Is the clock of the core's cluster gated: does the cluster hold no admitted group (R459)? -/
def State.gated (s : State) (core : Nat) : Bool :=
  core % 49 != 48 && !s.groups.any (fun e => clusterOf e.2.core == clusterOf core && e.2.core % 49 != 48 && e.2.st != .preempted && e.2.st != .retired)

/-- May the core run a cycle? -/
def State.running (s : State) (core : Nat) : Bool :=
  decide (core < 196) && s.powered && (s.core core).online && !(s.core core).halted && !s.gated core

/-- The cores that take a cycle with a core: a co-operative block on its cluster makes the cluster's cores take theirs together, so that the events
of one cycle on its slots have one order (R365, R392, log 117). -/
def State.inStep (s : State) (core : Nat) : List Nat :=
  let cl := core - core % 49 % 4
  if core % 49 ≠ 48 ∧ s.blocks.any (fun e => decide (1024 < e.2.ngroups) && e.2.placed && e.2.shares.any (fun sh => clusterOf sh.core == clusterOf core))
  then ([cl, cl + 1, cl + 2, cl + 3]).filter s.running
  else [core]

/-- ISSUE_CYCLE (R305): one cycle of a core, and of those in step with it; the picks issue next, in the order of R365. -/
def execIssueCycle (core : Nat) (s : State) : Host.Outcome State Fault Refusal :=
  if !s.running core then notEnabled "ISSUE_CYCLE"
  else
    let r := (s.inStep core).foldl (fun (a : State × List (Issue × Nat)) c => let b := a.1.coreCycle c; (b.1, a.2 ++ b.2)) (s, [])
    .next { r.1 with issueQ := r.1.issueQ ++ inEventOrder r.2 }

/-- PATH_QUANTUM_EXPIRED (R175): the next ready path is served with a fresh quantum. -/
def execPathQuantumExpired (g : Nat) (s : State) : Host.Outcome State Fault Refusal :=
  match s.group g with
  | none => notEnabled "PATH_QUANTUM_EXPIRED"
  | some gr =>
    if gr.quantum ≠ 0 ∨ gr.turn = 0 ∨ gr.between ≠ 0 then notEnabled "PATH_QUANTUM_EXPIRED"
    else match gr.choose (s.readyPaths g gr) with
      | none => notEnabled "PATH_QUANTUM_EXPIRED"
      | some p => .next (s.putGroup g (gr.serve p.2))

/-! ### Swaps and yield (R197, R298, R300–R302) -/

/-- Has the core a swap to spare in this cycle (R298)? -/
def Core.maySwap (c : Core) : Bool := c.lastSwap != some c.cycle.toNat

/-- Pending groups of a core that are ready. -/
def State.pendingReady (s : State) (core : Nat) (g : Nat) (gr : Group) : Bool :=
  gr.core == core && gr.st == .pending && s.readyPaths g gr != []

/-- The oldest ready pending group of a group's tenant (R197). -/
def State.heir (s : State) (gr : Group) : Option Nat :=
  s.oldest (fun g x => s.pendingReady gr.core g x && s.tenantOf x == s.tenantOf gr)

/-- A group leaves its active place, which stays empty for 4 cycles (R298). -/
def State.swapAway (s : State) (g core : Nat) : State :=
  (s.swapOut g).updCore core (fun c =>
    { c with vacated := (c.cycle.toNat + 4) :: c.vacated.filter (fun n => decide (c.cycle.toNat < n)), lastSwap := some c.cycle.toNat })

/-- GROUP_SWAP_OUT (R300): the group that has waited longest leaves, ties to the oldest, while some pending group is ready. -/
def execGroupSwapOut (g : Nat) (s : State) : Host.Outcome State Fault Refusal :=
  match s.group g with
  | none => notEnabled "GROUP_SWAP_OUT"
  | some gr =>
    let first (h : Nat) : Bool := match s.group h with
      | some x => x.between != 0 || decide (x.waited < gr.waited) || (x.waited == gr.waited && decide (gr.age ≤ x.age))
      | none => true
    if gr.st ≠ .active ∨ gr.waited < 16 ∨ gr.between ≠ 0 ∨ !(s.groups.any (fun e => s.pendingReady gr.core e.1 e.2)) ∨
        !(s.core gr.core).active.all first ∨ !(s.core gr.core).maySwap ∨ s.issueQ.any (fun x => x.g == g) then notEnabled "GROUP_SWAP_OUT"
    else .next (s.swapAway g gr.core)

/-- What `yield` does for its group (R197, R300): the turn ends; a group with no other live path leaves its place to the oldest ready pending group of
its tenant when the core may begin a swap, and goes on with a fresh quantum otherwise. -/
def State.yielded (s : State) (g : Nat) : State :=
  match s.group g with
  | none => s
  | some gr =>
    match s.heir gr with
    | some h =>
      if gr.paths.length ≤ 1 ∧ gr.st = .active ∧ (s.core gr.core).maySwap then
        (s.swapAway g gr.core).updCore gr.core (fun c => { c with offers := c.offers ++ [h] })
      else s.putGroup g { gr with quantum := 0 }
    | none => s.putGroup g { gr with quantum := 0 }

/-- yield (R197). -/
def execYield (f : FmtG) (s : State) : Host.Outcome State Fault Refusal :=
  issueWith (.yield f) false s (fun iss _ path _ s' => (s'.updGroup iss.g (fun gr => gr.advance iss path)).yielded iss.g)

/-- The oldest ready pending group of each tenant of a core (R301). -/
def State.fillers (s : State) (core : Nat) : List Nat :=
  let ts := (s.core core).tenants.foldl (fun l t => insTenant t l) []
  ts.filterMap (fun t => s.oldest (fun g gr => s.pendingReady core g gr && s.tenantOf gr == t.vf))

/-- The swaps that have passed a group (R302). -/
def State.skippedOf (s : State) (g : Nat) : Nat := match s.group g with | some gr => gr.skipped | none => 0

/-- Must a group that has been passed most often enter now, for each to enter within 64 swaps (R302)? -/
def State.mustFill (s : State) (gs : List Nat) : Bool :=
  (List.range 8).any (fun k => decide (k + 1 ≤ (gs.filter (fun g => decide (63 ≤ s.skippedOf g + k))).length))

/-- The group a core takes into a free place: the one that a `yield` has offered it to (R197), else that of the tenant with the highest counter
(R301), unless the bound of R302 demands the one passed most often (log 116). -/
def State.fillChoice (s : State) (core : Nat) : Option Nat :=
  let gs := s.fillers core
  if s.mustFill gs then gs.foldl (fun o g => match o with
    | none => some g
    | some h => if s.skippedOf h < s.skippedOf g then some g else some h) none
  else
    match (s.core core).offers.find? (fun g => match s.group g with | some gr => s.pendingReady core g gr | none => false) with
    | some g => some g
    | none => gs.head?

/-- The groups that the choice has passed count it (R302). -/
def State.passOver (s : State) (core g : Nat) : State :=
  let gs := s.fillers core
  { s with groups := s.groups.map (fun e =>
      (e.1, if e.2.core = core ∧ e.2.st = .pending then { e.2 with skipped := if gs.contains e.1 && e.1 != g then e.2.skipped + 1 else 0 } else e.2)) }

/-- ACTIVE_PLACE_FILL (R301). -/
def execActivePlaceFill (core : Nat) (s : State) : Host.Outcome State Fault Refusal :=
  let k := s.core core
  if 8 ≤ k.active.length + (k.vacated.filter (fun n => decide (k.cycle.toNat < n))).length ∨ k.halted ∨ !k.online then notEnabled "ACTIVE_PLACE_FILL"
  else match s.fillChoice core with
    | none => notEnabled "ACTIVE_PLACE_FILL"
    | some g => .next (((s.passOver core g).swapIn g).updCore core (fun c => { c with offers := c.offers.filter (· != g) }))

/-- TRAP_HANDLER_ENTRY (R262). -/
def execTrapHandlerEntry (g : Nat) (s : State) : Host.Outcome State Fault Refusal :=
  match s.group g with
  | none => notEnabled "TRAP_HANDLER_ENTRY"
  | some gr =>
    if !gr.mayEnter || s.blockEnding gr.blk || (gr.st != .active && gr.st != .pending) then notEnabled "TRAP_HANDLER_ENTRY"
    else .next (s.enterHandler g gr)

/-- FETCH_LINE (R48): a running thread's line is fetched ahead of its issue; a failed fetch parks the thread. -/
def execFetchLine (g lane : Nat) (s : State) : Host.Outcome State Fault Refusal :=
  match s.group g with
  | none => notEnabled "FETCH_LINE"
  | some gr =>
    let l := gr.lane lane
    if 32 ≤ lane ∨ l.run ≠ .running ∨ l.bar.isSome ∨ l.wait ≠ .none then notEnabled "FETCH_LINE"
    else
      let r := s.fetch gr l.pc
      .next (match r.2 with
        | .line d => r.1.putGroup g (gr.hold l.pc d)
        | .bad c x e => r.1.putGroup g (gr.park [lane] (fetchFault c x e l.pc))
        | .ask fa => r.1.awaitLine g gr [lane] fa)

/-- Register lines of a context image (R291): scalar and vector registers, and the convergence stacks. -/
def Group.regLines (gr : Group) : List Nat :=
  List.range ((gr.sgran + 3) / 4) ++ (List.range (8 * gr.vgran)).map (fun j => 24 + j) ++
  (List.range (4 * gr.divd)).map (fun j => gr.stackLine + j)

/-- REGISTER_LINE_FETCH (R292): an absent line arrives in the pool and its waiters look again. -/
def execRegisterLineFetch (g line : Nat) (s : State) : Host.Outcome State Fault Refusal :=
  match s.group g with
  | none => notEnabled "REGISTER_LINE_FETCH"
  | some gr =>
    if !gr.absent.contains line ∨ (gr.st ≠ .active ∧ gr.st ≠ .pending) then notEnabled "REGISTER_LINE_FETCH"
    else .next (s.putGroup g ({ gr with absent := gr.absent.filter (· != line) }.wake .line))

end Sys2Proof.Machine
end

