-- ==== Sys2Proof/Machine/Blocks.lean ====
section
/-! DEFINITION. Blocks and groups that end: the end of a block by a fault (R264), the retirement of a group (R196, R250), what a block
gives back (R320, R361, R366, R296), and fine-grained pre-emption (R303). -/

namespace Sys2Proof.Machine

/-- Is the block admitted (R296)? -/
def Block.admitted (b : Block) : Bool := b.placed && !b.done

/-- Has the block a share on the core? -/
def Block.on (b : Block) (core : Nat) : Bool := b.shares.any (fun sh => sh.core == core)

/-- A tenant whose last admitted block has left the core leaves its slot (R305). -/
def State.dropTenant (s : State) (vf core : Nat) : State :=
  if s.blocks.any (fun e => e.2.vf == vf && e.2.admitted && e.2.on core) then s
  else s.updCore core (fun c => { c with tenants := c.tenants.filter (fun t => t.vf != vf) })

/-- A block has left its cores: the tenants of its VF that hold nothing more leave. -/
def State.dropTenants (s : State) (b : Block) : State := b.shares.foldl (fun t sh => t.dropTenant b.vf sh.core) s

/-- Change a launch. -/
def State.updLaunch (s : State) (l : Nat) (f : Launch → Launch) : State := { s with launches := Store.upd s.launches l f }

/-- Join a witness into a launch's completion witness, at the command processor (R250, R532). -/
def State.joinLaunch (s : State) (l : Nat) (w : W64) : State :=
  s.updLaunch l (fun x => { x with wit := s.joinPlain x.slice (fwCore (x.cp / 4)) x.wit w })

/-- Has the block queued matrix operations (R361)? -/
def State.blockOps (s : State) (b : Nat) : Bool := s.cores.any (fun e => e.2.mq.any (fun m => m.2.blk == b))

/-- Free the tile slots of a block; waiters for a slot look again (R338, R361). -/
def State.freeTiles (s : State) (b : Nat) : State :=
  let mine := s.tiles.filter (fun e => e.2.blk == b)
  mine.foldl (fun t e => t.wakeAll (.slot (e.1 % 64))) { s with tiles := s.tiles.filter (fun e => e.2.blk != b) }

/-- Free the barrier slots of a block: pending witness arrivals become orphans of the slot's core (R366, R373). -/
def State.freeBars (s : State) (b : Nat) : State :=
  ((s.bars.filter (fun e => e.2.blk == b)).map Prod.fst).foldl (fun t key => t.freeBar key (barCore key)) s

/-- The last group of a block has retired: the block ends, its slots and units are freed; its scratchpad goes with its last job
(R320, R361, R366), and its launch counts it (R264, R294). -/
def State.endBlock (s : State) (b : Nat) : State :=
  match s.block b with
  | none => s
  | some x =>
    let s1 := (((s.freeTiles b).freeBars b).updBlock b (fun y => { y with done := true })).dropTenants x
    let s2 := (if s.blockJobs b then s1 else s1.updBlock b (fun y => { y with shares := [] })).gainRoom (x.shares.map Share.core)
    match x.launch with
    | none => s2
    | some l => s2.updLaunch l (fun y => { y with retired := y.retired + 1, failed := y.failed || x.failed })

/-- The records of the parked threads of a block, by group and lane (R264 step 5). -/
def State.blockRecords (s : State) (b : Nat) : List FaultRec :=
  (s.groups.filter (fun e => e.2.blk == b)).flatMap (fun e => (e.2.lanes.filter (fun l => l.run == .parked)).map Lane.flt)

/-- A group of an ended block: it issues nothing more, and what it waits for no longer holds it. -/
def Group.ended (gr : Group) : Group :=
  { gr with st := .retiring, latch := [], oq := [{}, {}, {}, {}], sysq := none, haltq := none, notices := [], hwatch := [], spend := [],
            lanes := gr.lanes.map (fun l => { l with run := .exited, inHandler := false, wait := .none, bar := none, barLate := [], pend := [], fatal := false }) }

/-- The block ends under the steps of R264: its groups stop issuing, load replies to come are discarded, stores and atomics issued are
still performed, jobs run on, records and masks pass to the command processor. -/
def State.endByFault (s : State) (b : Nat) : State :=
  let mine (g : Nat) : Bool := match s.group g with | some gr => gr.blk == b | none => false
  let recs := s.blockRecords b
  let s1 := s.updBlock b (fun x => { x with failed := true, records := x.records ++ recs, placed := true })
  { s1 with
    groups := s1.groups.map (fun e => if e.2.blk = b then (e.1, e.2.ended) else e),
    reqs := s1.reqs.filter (fun e => !(mine e.2.g && e.2.kind == .load)),
    issueQ := s1.issueQ.filter (fun x => !mine x.g),
    gangs := s1.gangs.filter (fun l => l.blk != b),
    cores := s1.cores.map (fun e => (e.1, { e.2 with active := e.2.active.filter (fun g => !mine g) })) }

/-- BLOCK_END (R264): a thread of the block parked while TRAPVEC was zero, or by a double fault. -/
def execBlockEnd (b : Nat) (s : State) : Host.Outcome State Fault Refusal :=
  if s.blockEnding b ∧ (s.block b).isSome then .next (s.endByFault b) else notEnabled "BLOCK_END"

/-- May the group retire: every thread has exited and every reply has arrived (R196)? -/
def State.mayRetire (s : State) (g : Nat) (gr : Group) : Bool :=
  gr.allExited && gr.st != .preempted && gr.sysq.isNone && !(s.reqs.any (fun e => e.2.g == g)) &&
  !((s.core gr.core).mq.any (fun m => m.2.issuers.any (fun i => i.g == g)))

/-- A block whose remaining groups are all pre-empted is no longer admitted: it waits to be placed again (R296, R298, R398). -/
def State.unplaced (s : State) (blk : Nat) : State :=
  let mine := s.groups.filter (fun e => e.2.blk == blk)
  if mine.isEmpty || mine.any (fun e => e.2.st != .preempted) then s
  else match s.block blk with
    | some b => if b.placed then ((s.updBlock blk (fun x => { x with placed := false })).dropTenants b).gainRoom (b.shares.map Share.core) else s
    | none => s

/-- GROUP_RETIRE (R196, R250): the group forms its retirement witness, its FLTMASK is kept, and its resources are freed. -/
def execGroupRetire (g : Nat) (s : State) : Host.Outcome State Fault Refusal :=
  match s.group g with
  | none => notEnabled "GROUP_RETIRE"
  | some gr =>
    if !s.mayRetire g gr ∨ (s.blockOps gr.blk ∧ (s.groups.filter (fun e => e.2.blk == gr.blk)).length = 1) then notEnabled "GROUP_RETIRE"
    else
      let w := s.joinPlain (s.sliceOf gr) gr.core gr.obs gr.writes
      let s1 : State := match s.block gr.blk with
        | some b =>
          let s0 := s.updBlock gr.blk (fun x => { x with fltmasks := Store.put x.fltmasks gr.groupid gr.fltmask })
          (match b.launch with | some l => s0.joinLaunch l w | none => s0)
        | none => s
      let s2 := s1.updCore gr.core (fun c => { c with active := c.active.filter (· != g) })
      let s3 := { s2 with groups := Store.del s2.groups g }
      .next (if s3.groups.any (fun e => e.2.blk == gr.blk) then s3.unplaced gr.blk else s3.endBlock gr.blk)

/-! ### Pre-emption (R303) -/

/-- A group's arrivals at rendezvous latches are withdrawn and will be made again (R361), the first instruction of a pair with its second; a latch
left without one is free (R349). -/
def State.withdraw (s : State) (g : Nat) : State :=
  let left := (s.gangs.map (fun (l : GangLatch) => { l with arrivals := l.arrivals.filter (fun a => a.g != g) })).filter (fun l => l.arrivals != [])
  let s1 : State := { s with gangs := left }
  let s2 := if left.length = s.gangs.length then s1 else s1.wakeAll .engine
  s2.updGroup g (fun gr => { gr.wake .gang with mid := gr.mid &&& ~~~ laneMask ((List.range 32).filter (fun i => (gr.lane i).wait == .gang)) })

/-- Write a group's state to its image (R303 steps 1–4); when every group of the block is pre-empted the block waits to be placed again
(R296, R298). Nothing that the second of a pair reads is lost between the two (R69): when a whole block leaves its core there, the latches stay
with the group (log 100). -/
def State.preempt (s : State) (g : Nat) (gr : Group) : State :=
  let s1 := (s.withdraw g).swapOut g
  let s2 := s1.updGroup g (fun x => { x with st := .preempted, absent := x.regLines, ilines := [],
                                             latch := if x.between = 0 then [] else gr.latch, path := if x.between = 0 then 0 else gr.path })
  (({ s2 with issueQ := s2.issueQ.filter (fun x => x.g != g) }).writeImage g).unplaced gr.blk

/-- Pre-empt every group of the blocks that a condition names. -/
def State.preemptBlocks (s : State) (p : Nat → Bool) : State :=
  (s.groups.filter (fun e => p e.2.blk && !e.2.priv && (e.2.st == .active || e.2.st == .pending))).foldl
    (fun t e => match t.group e.1 with | some gr => t.preempt e.1 gr | none => t) s

/-- PREEMPT_GROUP (R303): latches cleared, the group's state rests in its image, its lines may be evicted, its streams pause. When every
group of the block is pre-empted the block waits to be placed again (R296, R298). -/
def execPreemptGroup (g : Nat) (s : State) : Host.Outcome State Fault Refusal :=
  match s.group g with
  | none => notEnabled "PREEMPT_GROUP"
  | some gr =>
    if gr.priv ∨ (gr.st ≠ .active ∧ gr.st ≠ .pending) ∨ gr.between ≠ 0 ∨ s.issueQ.any (fun x => x.g == g) then notEnabled "PREEMPT_GROUP"
    else .next (s.preempt g gr)

end Sys2Proof.Machine
end

