-- ==== Sys2Proof/Machine/Place.lean ====
section
/-! DEFINITION. The block distributor (R385–R399): the placement set, admission (R289, R295–R297), placing a block and its groups,
the turns of launches, and blocks held for want of a candidate. -/

namespace Sys2Proof.Machine

/-! ### The placement set (R385) -/

/-- Core b of cluster k (die × 12 + CLUSTER.ID). -/
def coreAt (k b : Nat) : Nat := k / 12 * 49 + k % 12 * 4 + b

/-- The clusters a slice may place on, with their slice numbers: owned ones that are not lent out, then borrowed ones (R385, R455). -/
def Slice.numbered (sl : Slice) : List (Nat × Nat) :=
  let own := clustersOf sl.clusters
  let mine := (List.range own.length).map (fun c => (c, own.getD c 0))
  let bor := clustersOf sl.borrowed
  (mine.filter (fun x => !sl.lent.getLsbD x.2)) ++ (List.range bor.length).map (fun c => (own.length + c, bor.getD c 0))

/-- A member of a placement set: its slice index and its cores. -/
structure Member where
  idx   : Nat
  cores : List Nat
  deriving DecidableEq, Repr

/-- Is the core being lent or recalled, so that nothing more is placed on it (R462, R463)? -/
def State.leaving (s : State) (core : Nat) : Bool :=
  s.recalls.any (fun r => decide (core / 49 * 12 + core % 49 / 4 = r.cluster) && decide (core % 49 < 48)) ||
  match s.cmd with
  | some c => c.op == 0x25 && decide (core / 49 * 12 + core % 49 / 4 = c.cl) && decide (core % 49 < 48)
  | none => false

/-- The name, for a block whose pool image has left the core, of that core: the image stands in the Gourd or in the context region (R461). -/
def awayCore (bid c : Nat) : Nat := c % 4096 + 4096 * (1 + bid)

/-- Is the core of the slice index online? -/
def State.coreUp (s : State) (sl : Slice) (idx core : Nat) : Bool := (s.core core).online && !sl.offline.getLsbD idx && !s.leaving core

/-- The placement set for a block of at most 1024 groups, or for a co-operative one. -/
def State.placeSet (s : State) (i : Nat) (coop : Bool) : List Member :=
  let sl := s.slice i
  let cls := sl.numbered
  if coop then
    (cls.filter (fun x => (List.range 4).all (fun b => s.coreUp sl (4 * x.1 + b) (coreAt x.2 b)))).map
      (fun x => { idx := 4 * x.1, cores := (List.range 4).map (coreAt x.2) })
  else
    (cls.flatMap (fun x => (List.range 4).map (fun b => ({ idx := 4 * x.1 + b, cores := [coreAt x.2 b] } : Member)))).filter
      (fun m => s.coreUp sl m.idx (m.cores.headD 0))

/-- The unit of a placing tier's domain that holds a member (R394). -/
def Member.unit (m : Member) (dom : Nat) : Nat :=
  let c := m.cores.headD 0
  if dom = 0 then c else if dom = 1 then clusterOf c else c / 49

/-- The placing tier and S of it, if there is one (R393, R394). -/
def placingTier (ts : List Tier) : Option (Tier × Nat) :=
  (List.range ts.length).findSome? (fun k =>
    let t := ts.getD k { count := 1, domain := 4, scope := 0 }
    if t.domain ≤ 2 then some (t, ((ts.take (k + 1)).map Tier.count).foldl (· * ·) 1) else none)

/-- The candidate set of a block (R394). -/
def Launch.candidates (l : Launch) (p : List Member) (i : Nat) : List Member :=
  match placingTier l.tiers with
  | none => p
  | some (t, n) =>
    let us := firsts (p.map (fun m => m.unit t.domain))
    match us[i / n % us.length]? with
    | some u => p.filter (fun m => m.unit t.domain == u)
    | none => []

/-- home(i) of R395. -/
def Launch.home (l : Launch) (p : List Member) (i : Nat) : Option Member :=
  let cs := l.candidates p i
  let j := match placingTier l.tiers with | some (_, n) => i % n | none => i
  cs[j % cs.length]?

/-! ### Admission (R289, R295, R296, R388) -/

/-- Groups of the block's share i (R387). -/
def Block.shareGroups (b : Block) (i : Nat) : Nat :=
  if b.ngroups ≤ 1024 then b.ngroups
  else
    let q := (b.ngroups + 3) / 4
    min b.ngroups ((i + 1) * q) - i * q

/-- The needs of share i: groups, KiB of registers, 4 KiB units of scratchpad, accumulator units (R295). -/
def Block.need (b : Block) (i : Nat) : List Nat :=
  let g := b.shareGroups i
  [g, g * (b.vgran + (b.divd + 1) / 2 + 3), (b.scratch + 4095) / 4096, b.accu]

/-- The fields of a partition word (R287). -/
def partRF (w : W32) : Nat := (w.extractLsb' 0 7).toNat
def partSP (w : W32) : Nat := (w.extractLsb' 8 12).toNat
def partACC (w : W32) : Nat := (w.extractLsb' 20 7).toNat

/-- The capacities of a core with a partition (R295). -/
def capacity (w : W32) : List Nat := [1024, 64 * partRF w, partSP w, partACC w]

/-- Sum of two need vectors. -/
def addNeed (a b : List Nat) : List Nat := (List.range 4).map (fun k => a.getD k 0 + b.getD k 0)

/-- What a block uses of a core (R296): an admitted one its needs, one that has ended its scratchpad, until its last job is done (R320). -/
def Block.uses (b : Block) (core : Nat) : List Nat :=
  match b.shareOn core with
  | some i => if b.admitted then b.need i else if b.done then [0, 0, (b.need i).getD 2 0, 0] else [0, 0, 0, 0]
  | none => [0, 0, 0, 0]

/-- What the blocks of a core use. -/
def State.coreLoad (s : State) (core : Nat) : List Nat := s.blocks.foldl (fun n e => addNeed n (e.2.uses core)) [0, 0, 0, 0]

/-- Does the block keep the core from being empty: does it hold scratchpad or accumulator units there, or does a group of it stand admitted there,
neither pre-empted nor retired (R289)? -/
def State.fills (s : State) (bid : Nat) (b : Block) (core : Nat) : Bool :=
  b.on core && (b.scratch != 0 || (!b.done && b.accu != 0) ||
    s.groups.any (fun e => e.2.blk == bid && e.2.core == core && !e.2.priv && e.2.st != .preempted))

/-- Is the core empty (R289)? -/
def State.coreEmpty (s : State) (core : Nat) : Bool :=
  s.blocks.all (fun e => !s.fills e.1 e.2 core) && s.tiles.all (fun e => e.1 / 64 != core) && s.bars.all (fun e => e.1 / 64 != core)

/-- Does core `c` admit share i of the block (R289, R296)? -/
def State.coreFits (s : State) (b : Block) (i c : Nat) : Bool :=
  let k := s.core c
  (k.partw == b.partw || s.coreEmpty c) &&
  (k.tenants.any (fun t => t.vf == b.vf) || decide (k.tenants.length < 8)) &&
  (let n := addNeed (s.coreLoad c) (b.need i)
   (List.range 4).all (fun r => decide (n.getD r 0 ≤ (capacity b.partw).getD r 0)))

/-- The core on which share i of the block stands. -/
def Block.shareCore (b : Block) (i : Nat) : Nat := ((b.shares[i]?).map Share.core).getD 0

/-- A slot number that a pre-empted block holds on a core stays its own on the member (R361, R366, R392, R395). -/
def State.slotsFit (s : State) (bid : Nat) (b : Block) (m : Member) : Bool :=
  (List.range m.cores.length).all (fun i =>
    let c := m.cores.getD i 0
    let o := b.shareCore i
    s.bars.all (fun e => e.2.blk != bid || e.1 / 64 != o || decide (16384 ≤ e.1 % 262144) ||
      (match Store.find s.bars (c * 64 + e.1 % 64) with | some x => x.blk == bid | none => true)) &&
    s.tiles.all (fun e => e.2.blk != bid || e.1 / 64 != o ||
      (match Store.find s.tiles (c * 64 + e.1 % 64) with | some x => x.blk == bid | none => true))) &&
  s.bars.all (fun e => e.2.blk != bid || decide (e.1 % 262144 < 16384) ||
    (match Store.find s.bars (16384 + clusterOf (m.cores.headD 0) * 16 + e.1 % 16) with | some x => x.blk == bid | none => true))

/-- fits for a new block (R395). -/
def State.fitsNew (s : State) (b : Block) (m : Member) : Bool := (List.range m.cores.length).all (fun i => s.coreFits b i (m.cores.getD i 0))

/-- fits for a pre-empted block. -/
def State.fitsBack (s : State) (bid : Nat) (b : Block) (m : Member) : Bool := s.fitsNew b m && s.slotsFit bid b m

/-- May the distributor place on the member for the VF now: its cores are not halted (R460) and no other VF's time slice runs (R458)? -/
def State.open_ (s : State) (b : Block) (m : Member) : Bool := !s.vfAway b.slice b.vf && m.cores.all (fun c => !(s.core c).halted)

/-- May a pre-empted block move to the member: before it moves, its jobs and queued operations have completed (R320, R361)? -/
def State.movable (s : State) (bid : Nat) (b : Block) (m : Member) : Bool :=
  !b.inGourd && !b.swapped && (m.cores == b.shares.map Share.core || (!s.blockJobs bid && !s.blockOps bid))

/-! ### Placing -/

/-- A VF takes a tenant slot of a core with its counter at its weight (R305). -/
def State.addTenant (s : State) (vf core : Nat) : State :=
  s.updCore core (fun c =>
    if c.tenants.any (fun t => t.vf == vf) then c
    else
      let slot := ((List.range 8).find? (fun n => c.tenants.all (fun t => t.slot != n))).getD 0
      { c with tenants := c.tenants ++ [{ slot := slot, vf := vf, c := (s.weightOf vf : Int) }] })

/-- The next name. -/
def State.takeId (s : State) : State × Nat := ({ s with nextId := s.nextId + 1 }, s.nextId)

/-- A share of a block on a core takes the core (R289): an empty core takes the block's partition; a clock that was
gated goes on from the time there is (R459). -/
def State.takeCore (s : State) (b : Block) (core : Nat) : State :=
  let e := s.coreEmpty core
  (s.updCore core (fun c => { c with partw := if e then b.partw else c.partw, ticks := max c.ticks (19 * s.time) })).addTenant b.vf core

/-- The lanes of a new group: surplus lanes start Exited (R293). -/
def startLanes (b : Block) (gid : Nat) : List Lane :=
  (List.range 32).map (fun i => if 32 * gid + i < b.bthreads then { run := .running, pc := b.entry, flt := FaultRec.atReset i }
    else { run := .exited, pc := b.entry, flt := FaultRec.atReset i })

/-- A new group of the block: sd0 holds the argument area's address (R24); PARTW, the trap vector and the writer tag are set (R256, R269). -/
def newGroup (b : Block) (bid gid core : Nat) (age : Nat) (tag : BitVec 12) (gen : BitVec 4) : Group :=
  { blk := bid, groupid := gid, core := core, age := age, tag := tag, vgran := b.vgran, sgran := b.sgran, divd := b.divd,
    lanes := startLanes b gid, trapvec := b.trapvec, obs := nullObs gen,
    s := Store.set 0 (Store.set 0 [] 0 (b.args.extractLsb' 0 32)) 1 (b.args.extractLsb' 32 32) }

/-- Start a group, with a place for its context image (R290): its first fetch is checked as a transfer to ENTRY (R48, R85); where step 2 of R48 fails, no instruction has transferred, and
the record's PC is ENTRY (log 17). -/
def State.startGroup (s : State) (bid gid core : Nat) (b : Block) : State :=
  let r := s.takeId
  let sl := s.slice b.slice
  let gr := { newGroup b bid gid core (s.core core).nextAge (BitVec.ofNat 12 sl.nextTag) sl.gen with
    image := s.ctxPlace b.slice (ctxBytes b.vgran b.divd b.quota) }
  let s1 := ((r.1.updCore core (fun c => { c with nextAge := c.nextAge + 1 })).updSlice b.slice (fun x => { x with nextTag := (x.nextTag + 1) % 0xFFE })).putGroup r.2 gr
  let e := s1.enter gr b.entry false
  let run := (List.range 32).filter (fun i => (gr.lane i).run == .running)
  match e.2 with
  | .ok d => e.1.putGroup r.2 (gr.hold b.entry d)
  | .badTarget => e.1.putGroup r.2 (gr.park run (preciseFault 0x03 0 b.entry))
  | .bad c x ex => e.1.putGroup r.2 (gr.park run (fetchFault c x ex b.entry))
  | .ask fa => e.1.awaitLine r.2 gr run fa

/-- A core drops its L1 lines of the launch record's 256 bytes before it places the launch's first group (R249). -/
def State.dropRecordLines (s : State) (l core : Nat) : State :=
  match Store.find s.launches l with
  | none => s
  | some x =>
    if x.seen.contains core then s
    else
      let s1 := s.updLaunch l (fun y => { y with seen := core :: y.seen })
      let s2 := s1.walkReads x.vf x.record
      match s.walk x.vf x.record with
      | .error _ => s2
      | .ok t => { s2 with l1 := s1.l1.filter (fun e => !(e.core == core && e.vf == x.vf && e.coh == t.coh && e.line / 2 == t.pa / 256)) }

/-- A block that was held is placed: its queue reports CAPACITY while another waits (R399, R444). -/
def State.unhold (s : State) (l i : Nat) : State :=
  match Store.find s.launches l with
  | none => s
  | some x =>
    let s1 := s.updLaunch l (fun y => { y with held := Store.set false y.held i false, caps := y.caps.filter (· != i) })
    let still := s1.launches.any (fun e => e.2.cp == x.cp && e.2.q == x.q && e.2.caps != [])
    s1.updQueue x.cp x.q (fun q => { q with cap := q.cap && still })

/-- Place new block `i` of launch l on the member. -/
def State.placeNew (s : State) (l : Nat) (x : Launch) (i : Nat) (m : Member) : State :=
  let r := s.takeId
  let b : Block := { x.tmpl with launch := some l, blockid := i, shares := m.cores.map (fun c => { core := c }), placed := true }
  let s1 := m.cores.foldl (fun t c => (t.dropRecordLines l c).takeCore b c) r.1
  let s2 := { s1 with blocks := Store.put s1.blocks r.2 b }
  let s3 := (s2.updLaunch l (fun y => { y with placed := Store.put y.placed i true })).unhold l i
  (List.range m.cores.length).foldl (fun t k =>
    let q := if b.ngroups ≤ 1024 then 0 else (b.ngroups + 3) / 4
    (List.range (b.shareGroups k)).foldl (fun u n => u.startGroup r.2 (k * q + n) (m.cores.getD k 0) b) t) s3

/-- The new key of a barrier slot that moves with its block. -/
def moveKey (old new : List Nat) (key : Nat) : Nat :=
  if key % 262144 < 16384 then
    match old.findIdx? (· == key / 64) with
    | some i => new.getD i 0 * 64 + key % 64
    | none => key
  else 16384 + clusterOf (new.headD 0) * 16 + key % 16

/-- Move the slots of a block with it. -/
def State.moveSlots (s : State) (bid : Nat) (old new : List Nat) : State :=
  let mvB := s.bars.filter (fun e => e.2.blk == bid)
  let mvT := s.tiles.filter (fun e => e.2.blk == bid)
  { s with
    bars := mvB.foldl (fun st e => Store.put st (moveKey old new e.1) e.2) (s.bars.filter (fun e => e.2.blk != bid)),
    tiles := mvT.foldl (fun st e => Store.put st (moveKey old new e.1) e.2) (s.tiles.filter (fun e => e.2.blk != bid)) }

/-- A core drops its L1 lines of a VF. -/
def State.l1Forget (s : State) (core vf : Nat) : State := { s with l1 := s.l1.filter (fun e => !(e.core == core && e.vf == vf)) }

/-- Place a pre-empted block again (R296, R298, R320): its shares, slots and groups move to the member. A core to which it moves drops the VF's L1
lines: they may be older than what the block's threads have written and read elsewhere (R243). -/
def State.placeBack (s : State) (bid : Nat) (b : Block) (m : Member) : State :=
  let old := b.shares.map (fun sh => sh.core % 4096)
  let s0 : State := match b.launch with
    | some l => m.cores.foldl (fun t c => State.dropRecordLines t l c) (s.unhold l b.blockid)
    | none => s
  let sA := m.cores.foldl (fun t c => if old.contains c then t else t.l1Forget c b.vf) s0
  let s1 := ((m.cores.foldl (fun t c => t.takeCore b c) sA).moveSlots bid (b.shares.map Share.core) m.cores).gainRoom (old.filter (fun c => !m.cores.contains c))
  let s2 := s1.updBlock bid (fun x => { x with placed := true, shares := (List.range x.shares.length).map (fun i =>
    { x.shares.getD i { core := 0 } with core := m.cores.getD i 0 }) })
  (s2.groups.filter (fun e => e.2.blk == bid)).foldl (fun t e =>
    let c := match old.findIdx? (fun o => o == e.2.core) with | some i => m.cores.getD i 0 | none => e.2.core
    (t.updGroup e.1 (fun gr => { gr with core := c, st := .pending, age := (t.core c).nextAge })).updCore c (fun k => { k with nextAge := k.nextAge + 1 })) s2

/-! ### U and the passes (R395, R396) -/

/-- A block of U: a pre-empted one by its name, or a new one by its BLOCKID. -/
inductive UBlock where
  | back (bid i : Nat)
  | new (i : Nat)
  deriving DecidableEq, Repr

/-- BLOCKID. -/
def UBlock.id : UBlock → Nat
  | .back _ i => i
  | .new i => i

/-- Insert by BLOCKID. -/
def insBack (x : Nat × Nat) : List (Nat × Nat) → List (Nat × Nat)
  | [] => [x]
  | y :: ys => if x.2 < y.2 then x :: y :: ys else y :: insBack x ys

/-- Pre-empted blocks of a launch, by BLOCKID. -/
def State.backs (s : State) (l : Nat) : List UBlock :=
  ((s.blocks.filter (fun e => e.2.launch == some l && !e.2.placed && !e.2.done)).foldl (fun xs e => insBack (e.1, e.2.blockid) xs) []).map
    (fun x => .back x.1 x.2)

/-- The first new block from `i` on that is not placed and meets a condition. -/
def Launch.nextNew (x : Launch) (ok : Nat → Bool) : Nat → Nat → Option Nat
  | 0, _ => none
  | n + 1, i =>
    if x.nblocks ≤ i ∨ x.cut then none
    else if !Store.get false x.placed i && ok i then some i
    else Launch.nextNew x ok n (i + 1)

/-- The first block of U with the member in its candidate set. -/
def State.firstU (s : State) (l : Nat) (x : Launch) (p : List Member) (m : Member) : Option UBlock :=
  let ok (i : Nat) : Bool := (x.candidates p i).contains m
  match (s.backs l).find? (fun u => ok u.id) with
  | some u => some u
  | none => (x.nextNew ok (x.nblocks + 1) 0).map .new

/-- fits for a block of U. -/
def State.fits (s : State) (x : Launch) (u : UBlock) (m : Member) : Bool :=
  match u with
  | .new _ => s.fitsNew x.tmpl m
  | .back bid _ => match s.block bid with | some b => s.fitsBack bid b m | none => false

/-- Is nothing but room in question for the block of U on the member? -/
def State.mayTake (s : State) (x : Launch) (u : UBlock) (m : Member) : Bool :=
  s.open_ x.tmpl m && (match u with
    | .new _ => true
    | .back bid _ => match s.block bid with | some b => s.movable bid b m | none => false)

/-- place(b, p). -/
def State.place_ (s : State) (l : Nat) (x : Launch) (u : UBlock) (m : Member) : State :=
  match u with
  | .new i => s.placeNew l x i m
  | .back bid _ => match s.block bid with | some b => s.placeBack bid b m | none => s

/-- Has the member room that the launch has not been refused (R395, log 118)? -/
def Launch.roomy (x : Launch) (m : Member) : Bool := !x.refused.contains (m.cores.headD 0)

/-- Offer a member's room to the launch until its first block does not fit; `n` bounds the blocks a member can hold. -/
def State.offer (l : Nat) (p : List Member) (m : Member) : Nat → State → State
  | 0, s => s
  | n + 1, s =>
    match Store.find s.launches l with
    | none => s
    | some x =>
      match s.firstU l x p m with
      | none => s
      | some u =>
        if !s.mayTake x u m then s
        else if s.fits x u m then State.offer l p m n (s.place_ l x u m)
        else s.updLaunch l (fun y => { y with refused := m.cores.headD 0 :: y.refused })

/-- The placement set of a launch. -/
def State.setOf (s : State) (x : Launch) : List Member := s.placeSet x.slice (decide (1024 < x.tmpl.ngroups))

/-- Has the launch a block in U? -/
def State.hasU (s : State) (l : Nat) (x : Launch) : Bool := s.backs l != [] || (x.nextNew (fun _ => true) (x.nblocks + 1) 0).isSome

/-- The launch is live: accepted and not complete. -/
def Launch.live (x : Launch) : Bool := (x.status.extractLsb' 0 3) == 1

/-- As `roomy`, for a launch by its name. -/
def State.roomyFor (s : State) (l : Nat) (m : Member) : Bool := match Store.find s.launches l with | some x => x.roomy m | none => false

/-- One cycle of the distributor for a launch whose turn has begun. -/
def State.distribute (s : State) (l : Nat) : State :=
  match Store.find s.launches l with
  | none => s
  | some x =>
    if !x.turn then s
    else
      let p := s.setOf x
      p.foldl (fun t m => if t.roomyFor l m then State.offer l p m 1025 t else t) s

/-- Can some member take its first block of the launch now? -/
def State.canPlace (s : State) (l : Nat) (x : Launch) : Bool :=
  let p := s.setOf x
  x.live && x.turn && p.any (fun m => x.roomy m && (match s.firstU l x p m with | some u => s.mayTake x u m && s.fits x u m | none => false))

/-- BLOCK_PLACE (R395, R396): one cycle of the distributor, the launches of the slice in the order of acceptance. -/
def execBlockPlace (slice : Nat) (s : State) : Host.Outcome State Fault Refusal :=
  if s.launches.any (fun e => e.2.slice == slice && s.canPlace e.1 e.2) then
    .next (((s.launches.filter (fun e => e.2.slice == slice && e.2.live)).map Prod.fst).foldl State.distribute s)
  else notEnabled "BLOCK_PLACE"

/-- The initial pass (R395): it ends at the first block that does not fit at its home. -/
def State.initialPass (l : Nat) (p : List Member) : Nat → State → State
  | 0, s => s
  | n + 1, s =>
    match Store.find s.launches l with
    | none => s
    | some x =>
      let u := match s.backs l with
        | u :: _ => some u
        | [] => (x.nextNew (fun _ => true) (x.nblocks + 1) 0).map .new
      match u with
      | none => s
      | some u =>
        match x.home p u.id with
        | none => s
        | some m => if s.mayTake x u m && s.fits x u m then State.initialPass l p n (s.place_ l x u m) else s

/-- LAUNCH_TURN_BEGIN (R396): no earlier launch of the slice has a block in U; the initial pass is made, and the loop of its cycle. -/
def execLaunchTurnBegin (l : Nat) (s : State) : Host.Outcome State Fault Refusal :=
  match Store.find s.launches l with
  | none => notEnabled "LAUNCH_TURN_BEGIN"
  | some x =>
    if x.turn ∨ !x.live ∨ s.launches.any (fun e => decide (e.1 < l) && e.2.slice == x.slice && e.2.live && s.hasU e.1 e.2) then
      notEnabled "LAUNCH_TURN_BEGIN"
    else
      let s1 := s.updLaunch l (fun y => { y with turn := true })
      .next ((State.initialPass l (s1.setOf x) (x.nblocks + 1) s1).distribute l)

/-- Could the member hold a block of the launch when empty (R297, R399)? -/
def Launch.couldHold (x : Launch) : Bool :=
  (List.range 4).all (fun r => decide ((x.tmpl.need 0).getD r 0 ≤ (capacity x.tmpl.partw).getD r 0))

/-- Must the block be held: no member of its candidate set could hold it (R399)? -/
def State.mustHold (s : State) (x : Launch) (i : Nat) : Bool := (x.candidates (s.setOf x) i).isEmpty || !x.couldHold

/-- CAPACITY_HOLD (R399, R444): a block with no candidate is held and its queue reports CAPACITY; a block held before that has a candidate
again returns to waiting, and CAP stands until it is placed. -/
def execCapacityHold (l blockid : Nat) (s : State) : Host.Outcome State Fault Refusal :=
  match Store.find s.launches l with
  | none => notEnabled "CAPACITY_HOLD"
  | some x =>
    let held := Store.get false x.held blockid
    let back := (s.backs l).any (fun u => u.id == blockid)
    if !x.live ∨ (!back ∧ (x.nblocks ≤ blockid ∨ Store.get false x.placed blockid ∨ x.cut)) then notEnabled "CAPACITY_HOLD"
    else if !held && s.mustHold x blockid then
      .next (((s.updLaunch l (fun y => { y with held := Store.set false y.held blockid true, caps := if y.caps.contains blockid then y.caps else blockid :: y.caps })).updQueue x.cp x.q
        (fun q => { q with cap := true, index := BitVec.ofNat 16 x.n })).notice (x.cp / 4) 2 x.q (x.cp % 4))
    else if held && !s.mustHold x blockid then
      .next (s.updLaunch l (fun y => { y with held := Store.set false y.held blockid false }))
    else notEnabled "CAPACITY_HOLD"

end Sys2Proof.Machine
end

