-- ==== Sys2Proof/Machine/Turn.lean ====
section
/-! DEFINITION. Whose turn it is at a pseudo-channel of HBM4E (R418, R420): the requests, the jobs and the streams that wait for it; and the events
that produce and spill the entries of a stream, which take such turns (R309–R311). -/

namespace Sys2Proof.Machine

/-- Is the request of an engine, a stream or a matrix operation? -/
def Req.ofUnit (r : Req) : Bool := decide (2 ^ 40 ≤ r.g)

/-- The channel and channel-local address at which a request goes to HBM4E, if it does (R410). -/
def State.atHbm (s : State) (r : Req) : Option (Nat × Nat) := if r.sp.isSome || r.coh then none else s.toHbm r.vf r.pa

/-- Could the request be served at its home, its bank and its turn apart (R205, R239, R324)? -/
def State.ripe (s : State) (key : Nat) (r : Req) : Bool :=
  r.fab == .unsent && !s.reqBlocked key r && !s.reqEmpty r && !(r.kind.writes && s.stalled r.slice)

/-- May the request be served at its home now, its turn apart (R420)? -/
def State.servable (s : State) (key : Nat) (r : Req) : Bool := s.ripe key r && !(r.sp.isNone && !r.coh && s.hbmWaits r.vf r.pa)

/-- Does a matrix operation that can be performed merge its amax into device memory, and at what address (R359)? -/
def MOp.merges (o : MOp) : Bool := match o.amax with | some (_, false, _) => true | _ => false
def MOp.mergeAt (o : MOp) : Nat := match o.amax with | some (pa, _, _) => pa | none => 0

/-- The access to HBM4E for which a matrix operation waits for its VF's turn (R418). -/
def State.matHbm (s : State) (core n : Nat) (o : MOp) : Option (Nat × Nat) :=
  if o.merges && o.started && !s.unitBusy (matG core n) && !s.stalled (s.opSlice o) && (s.amaxNeeds core o).isNone && !s.hbmWaits (s.opVf o) o.mergeAt then
    s.toHbm (s.opVf o) o.mergeAt
  else none

/-- Does an access go to the pseudo-channel of a bank? -/
def atPc (ch bank : Nat) (x : Option (Nat × Nat)) : Bool := match x with | some (c, a) => c == ch && bankOf a / 16 == bank / 16 | none => false

/-- The requests that wait for service in the pseudo-channel of a bank, oldest first: also those whose bank is being refreshed (R418). -/
def State.queueAt (s : State) (ch bank : Nat) : List (Nat × Req) := s.reqs.filter (fun e => s.ripe e.1 e.2 && atPc ch bank (s.atHbm e.2))

/-- Does the row of the request stand open? -/
def State.pageHit (s : State) (ch a : Nat) : Bool := ((s.chan ch).bank (bankOf a)).row == some (rowOf a)

/-- Is none of its VF's older requests in the way of a request: a page hit may pass an older miss 16 times (R418)? -/
def State.hbmFirst (s : State) (key : Nat) (r : Req) : Bool :=
  match s.atHbm r with
  | none => true
  | some (ch, a) => (s.queueAt ch (bankOf a)).all (fun e => e.2.vf != r.vf || decide (key ≤ e.1) ||
      (s.pageHit ch a && decide (e.2.passed < 16) && (match s.atHbm e.2 with | some (_, x) => !s.pageHit ch x | none => false)))

/-- The VFs of which something waits that the pseudo-channel of a bank could serve now: a request, a job's next step, a stream's next
entry, or an amax merge. -/
def State.hbmVfs (s : State) (ch bank : Nat) : List Nat :=
  firsts (((s.queueAt ch bank).filter (fun e => s.servable e.1 e.2 && s.hbmFirst e.1 e.2)).map (fun e => e.2.vf) ++
    (s.jobs.filter (fun e => atPc ch bank (s.jobHbm e.1 e.2))).map (fun e => e.2.vf) ++
    (s.groups.filter (fun e => (List.range 4).any (fun k => atPc ch bank (s.streamHbm e.1 k e.2)))).map (fun e => s.jobVf e.2) ++
    s.cores.flatMap (fun c => (c.2.mq.filter (fun e => atPc ch bank (s.matHbm c.1 e.1 e.2))).map (fun e => s.opVf e.2)))

/-- When no VF that waits at a pseudo-channel has credit left, each is given its quantum (R418). -/
def State.hbmRefill (s : State) (ch bank : Nat) : State :=
  let vs := s.hbmVfs ch bank
  if vs.all (fun v => decide ((s.chan ch).credit bank v ≤ 0)) then
    s.updChan ch (fun c => vs.foldl (fun c v =>
      { c with deficit := Store.set 0 c.deficit (bank / 16 * 512 + v) (min (c.credit bank v + s.quantumOf v) (s.quantumOf v)) }) c)
  else s

/-- As `hbmRefill`, where an access goes to HBM4E. -/
def State.hbmRefillFor (s : State) (x : Option (Nat × Nat)) : State := match x with | some (ch, a) => s.hbmRefill ch (bankOf a) | none => s

/-- Is it a VF's turn for an access (R418): it has the highest credit of the VFs that wait, ties to the lower VF? -/
def State.vfTurn (s : State) (x : Option (Nat × Nat)) (vf : Nat) : Bool :=
  match x with
  | none => true
  | some (ch, a) =>
    let c := s.chan ch
    let b := bankOf a
    (s.hbmVfs ch b).all (fun v => v == vf || decide (c.credit b v < c.credit b vf) || (c.credit b v == c.credit b vf && decide (vf < v)))

/-- Is it the request's turn (R418)? -/
def State.hbmTurn (s : State) (key : Nat) (r : Req) : Bool := s.hbmFirst key r && s.vfTurn (s.atHbm r) r.vf

/-- The older requests of its VF that a request passes count it (R418). -/
def State.hbmPass (s : State) (key : Nat) (r : Req) : State :=
  match s.atHbm r with
  | none => s
  | some (ch, a) =>
    let old := ((s.queueAt ch (bankOf a)).filter (fun e => e.2.vf == r.vf && decide (e.1 < key))).map Prod.fst
    { s with reqs := s.reqs.map (fun e => if old.contains e.1 then (e.1, { e.2 with passed := e.2.passed + 1 }) else e) }

/-- A read of HBM4E may find an error that ECC corrects: whether it does is a free value (R425, R428, log 131). -/
def State.eccMet (s : State) (x : Option (Nat × Nat)) : State :=
  match x with
  | some (ch, a) => if Config.hbmCorrected s.time (ch * 2 ^ 40 + a) then s.corrected ch a else s
  | none => s

/-! ### Matrix operations -/

/-- MATRIX_OP_COMPLETE (R347): a merge through the fabric, or a line that its check needs, comes first; one in device memory takes its turn there
(R418). -/
def execMatrixOpComplete (core n : Nat) (s : State) : Host.Outcome State Fault Refusal :=
  match Store.find (s.core core).mq n with
  | none => notEnabled "MATRIX_OP_COMPLETE"
  | some o =>
    if !o.started || s.unitBusy (matG core n) || (o.commits && s.stalled (s.opSlice o)) then notEnabled "MATRIX_OP_COMPLETE"
    else
      match o.merged, s.amaxNeeds core o with
      | none, some fa => .next (s.pushUnit { unitReq s (matG core n) (s.opVf o) .load o.src fa [] 0 with slice := s.opSlice o, pc := o.lead.pc })
      | _, _ =>
        let s0 := s.hbmRefillFor (s.matHbm core n o)
        if o.merges && s.hbmWaits (s.opVf o) o.mergeAt || !s0.vfTurn (s.matHbm core n o) (s.opVf o) then notEnabled "MATRIX_OP_COMPLETE"
        else .next ((s0.performOp core n o).eccMet (s.matHbm core n o))

/-! ### The entries of a stream -/

/-- One step of a walk (R309): it asks for the first line that is still to come, or, when its VF's turn has come (R418), reads one entry and puts
it where `ring` says. -/
def State.streamStep (s : State) (g k : Nat) (gr : Group) (ring : Bool) (ev : String) (put : OpQueue → QEntry → OpQueue) :
    Host.Outcome State Fault Refusal :=
  let q := gr.oq.getD k {}
  match s.streamAsks gr q with
  | some x => if s.streamBusy g k q then notEnabled ev else .next (s.streamAsk g k gr q x)
  | none =>
    let x := s.streamHbm g k gr
    let s0 := s.hbmRefillFor x
    if (s.streamPas gr q).any (s.hbmWaits (s.jobVf gr)) ∨ !s0.vfTurn x (s.jobVf gr) then notEnabled ev
    else
      let e := s.streamEntry gr q
      let s1 := q.lanes.foldl (fun t i => t.streamTouch g gr q i) s0
      .next (((s1.updGroup g (fun g1 =>
        let g2 := g1.updQ k (fun q => put q e)
        if ring then g2 else g2.wake .stream)).dropAside (streamG g k true)).eccMet x)

/-- STREAM_ENTRY_PRODUCE (R309): the walk of queue k reads one entry and appends it; those that wait for an entry look again. -/
def execStreamEntryProduce (g k : Nat) (s : State) : Host.Outcome State Fault Refusal :=
  match s.group g with
  | none => notEnabled "STREAM_ENTRY_PRODUCE"
  | some gr =>
    let q := gr.oq.getD k {}
    if gr.st ≠ .active ∨ q.st ≠ .walking ∨ q.total ≤ q.next ∨ 64 ≤ q.entries.length ∨ q.spilled ≠ [] then notEnabled "STREAM_ENTRY_PRODUCE"
    else s.streamStep g k gr false "STREAM_ENTRY_PRODUCE" (fun q e => q.produced e false)

/-- STREAM_SPILL (R311): with SPILL an entry beyond 64 goes to the spill ring; when it does not fit in the ring, which the group's four queues share (R83), the lowest lane of the mask raises
QQUOTA and the queue is Paused. -/
def execStreamSpill (g k : Nat) (s : State) : Host.Outcome State Fault Refusal :=
  match s.group g with
  | none => notEnabled "STREAM_SPILL"
  | some gr =>
    let q := gr.oq.getD k {}
    if gr.st ≠ .active ∨ q.st ≠ .walking ∨ q.total ≤ q.next ∨ !q.spill ∨ (q.entries.length < 64 ∧ q.spilled = []) then notEnabled "STREAM_SPILL"
    else if ringCap (s.quotaOf gr) ≤ ringHeld gr.oq then
      .next (s.updGroup g (fun g1 =>
        (g1.updQ k (fun q => { q with st := .paused })).upd [q.lanes.headD 0]
          (fun i l => l.imprecise i gr.trapvec 0x50 (BitVec.ofNat 32 k) q.pc none q.issued)))
    else s.streamStep g k gr true "STREAM_SPILL" (fun q e => q.produced e true)

end Sys2Proof.Machine
end

