-- ==== Sys2Proof/Machine/Home.lean ====
section
/-! DEFINITION. The homes and the stamp ring: accesses in flight are performed (R205–R207, R217, R235, R236, R245), waits for a witness
end (R214), L1 fills (R202), home watches are accepted (R378), counters are published and heard (R237, R411–R414), the stamp space is
renewed (R239, R415), and the scrubber reads the core's SRAM (R379). -/

namespace Sys2Proof.Machine

/-! ### Accesses in flight -/

/-- The bytes with which L1 answers a load: the line covers every passing thread's witness (R202, R203). A group of firmware, which has no VF key,
neither hits nor fills L1 (log 152). -/
def State.l1Bytes (s : State) (r : Req) : Option (List Byte) :=
  match s.group r.g with
  | none => none
  | some gr =>
    if r.sp.isSome || r.hint != 0 || gr.priv || s.racing r.slice r.rchk then none
    else
      match s.l1Find gr.core r.vf r.coh (r.pa / 128) with
      | some l =>
        if l.valid.getLsbD (r.pa / 32 % 4) && r.wits.all l.covers then some ((l.data.drop (r.pa % 128)).take r.bytes) else none
      | none => none

/-- A request of a thread or a command processor is performed at its home when it may be served and its turn has come (R418); a shadow word on a coherent line that is not
held comes first (R255). -/
def State.serve (s : State) (key : Nat) (r : Req) (ev : String) (f : State → State) : Host.Outcome State Fault Refusal :=
  if !s.servable key r then notEnabled ev
  else
    match (match s.reqCore r with
           | some core => if r.sp.isSome then none else s.shadowAsk r.vf r.slice core r.va r.rchk
           | none => none) with
    | some fa =>
      if s.unitBusy (shadowG r.vf) then notEnabled ev
      else .next (s.pushUnit { unitReq s (shadowG r.vf) r.vf .load (s.shadowVa r.vf r.va) fa [] 0 with slice := r.slice })
    | none =>
      let s1 := s.hbmRefillFor (s.atHbm r)
      if s1.hbmTurn key r then .next ((f (s1.hbmPass key r)).eccMet (s.atHbm r)) else notEnabled ev

/-- A unit's request for a line that the package holds by now has nothing to ask for: the unit, or the group, looks again. -/
def State.unitHeld (s : State) (key : Nat) (r : Req) : State :=
  let s1 := s.dropReq key
  if 2 ^ 44 ≤ r.g ∧ r.g < 2 ^ 45 then s1.updGroup (r.g - 2 ^ 44) (fun gr => gr.wake .reply) else s1

/-- LOAD_REPLY (R207, R217): a load is performed, in L1 or at its home, with those of its instruction in the same sector, and the replies arrive. -/
def execLoadReply (r : Nat) (fromL1 : Bool) (s : State) : Host.Outcome State Fault Refusal :=
  match Store.find s.reqs r with
  | none => notEnabled "LOAD_REPLY"
  | some q =>
    if q.kind ≠ .load ∨ q.fab ≠ .unsent then notEnabled "LOAD_REPLY"
    else if q.ofUnit then
      if !fromL1 && (s.fabLine q.slice q.vf q.pa).isSome then .next (s.unitHeld r q) else notEnabled "LOAD_REPLY"
    else if fromL1 then
      if s.reqBlocked r q then notEnabled "LOAD_REPLY"
      else
        match s.l1Bytes q with
        | some _ => .next ((s.sameRead r q).foldl (fun t e => match s.l1Bytes e.2 with
            | some bs => t.loadDone e.1 e.2 (loadValue e.2.width (leNat bs))
            | none => t) s)
        | none => notEnabled "LOAD_REPLY"
    else if (s.homeBytes q).isNone then notEnabled "LOAD_REPLY"
    else s.serve r q "LOAD_REPLY" (fun t => t.perform r q)

/-- HOME_COMMIT (R236): a store commits at its home. -/
def execHomeCommit (r : Nat) (s : State) : Host.Outcome State Fault Refusal :=
  match Store.find s.reqs r with
  | none => notEnabled "HOME_COMMIT"
  | some q => if q.kind ≠ .store ∨ q.coh then notEnabled "HOME_COMMIT" else s.serve r q "HOME_COMMIT" (fun t => t.perform r q)

/-- ATOMIC_PERFORM (R245). -/
def execAtomicPerform (r : Nat) (s : State) : Host.Outcome State Fault Refusal :=
  match Store.find s.reqs r with
  | none => notEnabled "ATOMIC_PERFORM"
  | some q => if !q.kind.atomic ∨ q.coh then notEnabled "ATOMIC_PERFORM" else s.serve r q "ATOMIC_PERFORM" (fun t => t.perform r q)

/-- WITNESS_SATISFIED (R214): the threads that waited for a witness go on when each passing thread's of their path is satisfied. -/
def execWitnessSatisfied (g : Nat) (s : State) : Host.Outcome State Fault Refusal :=
  match s.group g with
  | none => notEnabled "WITNESS_SATISFIED"
  | some gr =>
    let ok := (gr.paths.filter (fun p => (maskLanes p.2).any (fun i => (gr.lane i).wait == .witness) && s.pathWait g gr p != some .witness)).flatMap
      (fun p => maskLanes p.2)
    if ok = [] then notEnabled "WITNESS_SATISFIED"
    else .next (s.putGroup g (gr.upd ok (fun _ l => if l.wait = .witness then { l with wait := .none } else l)))

/-- L1_FILL (R202, R238): the line of an outstanding `.keep` load is filled, with the counter and frontier heard. -/
def execL1Fill (core vf line : Nat) (s : State) : Host.Outcome State Fault Refusal :=
  let want := s.reqs.find? (fun e => e.2.kind == .load && e.2.sp.isNone && e.2.hint == (0 : BitVec 3) && e.2.vf == vf && e.2.pa / 128 == line &&
    !s.racing e.2.slice e.2.rchk && !e.2.ofUnit && !s.barred e.2 && (match s.group e.2.g with | some gr => gr.core == core && !gr.priv | none => false) &&
    (!e.2.coh || (s.fabLine e.2.slice e.2.vf e.2.pa).isSome))
  match want with
  | none => notEnabled "L1_FILL"
  | some (_, r) =>
    let base := line * 128
    let hb := if r.coh then [] else (List.range 4).filterMap (fun k => s.toHbm vf (base + 32 * k))
    let s0 := s.hbmRefillFor hb.head?
    if !r.coh && (List.range 4).any (fun k => s.hbmWaits vf (base + 32 * k)) || !s0.vfTurn hb.head? vf then notEnabled "L1_FILL"
    else
      let s1 := if r.coh then s0 else s0.readSectors vf base 128 0
      .next ((s1.l1Put core vf r.slice base r.coh r.home 15).eccMet hb.head?)

/-- Armed home watches of a bank. -/
def State.bankWatches (s : State) (home : Nat) : Nat :=
  s.groups.foldl (fun n e => n + (e.2.hwatch.filter (fun w => decide (w.1 < 4) && s.homeOf (w.2 * 128) == home)).length) 0

/-- HOME_WATCH_ACCEPT (R378): a bank that holds fewer than 16 watches accepts it and ARMED becomes 1. -/
def execHomeWatchAccept (g n : Nat) (s : State) : Host.Outcome State Fault Refusal :=
  match s.group g with
  | none => notEnabled "HOME_WATCH_ACCEPT"
  | some gr =>
    match Store.find gr.hwatch (4 + n) with
    | none => notEnabled "HOME_WATCH_ACCEPT"
    | some line =>
      let h := Store.del gr.hwatch (4 + n)
      if 3 < n then notEnabled "HOME_WATCH_ACCEPT"
      else if s.bankWatches (s.homeOf (line * 128)) < 16 then
        .next (s.putGroup g { gr with hwatch := Store.put h n line, watch := gr.watch.set n (gr.watch.getD n 0 ||| (1 <<< 59)) })
      else .next (s.putGroup g { gr with hwatch := h })

/-! ### The stamp ring (R411–R414) -/

/-- The slice number of a message: 16 for the package counter (R412). -/
def RingMsg.sl (m : RingMsg) : Nat := if m.pkg then 16 else m.slice

/-- The 64-bit word of a message (R412). -/
def RingMsg.word (m : RingMsg) : W64 :=
  BitVec.ofNat 64 (m.slice * 2 ^ 60 + m.home * 2 ^ 50 + m.kind.toNat * 2 ^ 48 + (if m.pkg then 2 ^ 47 else 0) + m.value % 2 ^ 45)

/-- Put a message on the ring. Every receiver hears it; of the counter messages of one home and slice the newest stands for those
before it, since a receiver ignores a lower value (R413). -/
def State.ringSend (s : State) (sl home : Nat) (kind : BitVec 2) (value : Nat) : State :=
  let m : RingMsg := { slice := if sl = 16 then 0 else sl, pkg := sl == 16, home := home, kind := kind, value := value }
  { s with ring := s.ring.filter (fun x => !(x.sl == sl && x.home == home && x.kind == kind)) ++ [m] }

/-- The value a home publishes: an idle home first raises its counter to the highest it has heard (R237); a directory's is the counter
the agent has heard, less BASE (R522). -/
def State.toPublish (s : State) (sl home : Nat) : Nat :=
  if 0x200 ≤ home ∧ home < 0x300 then s.counter sl home else max (s.counter sl home) (s.highest (homeRcv home) sl)

/-- Publish a counter. -/
def State.publish (s : State) (sl home : Nat) : State :=
  let v := s.toPublish sl home
  let k := sl * 1024 + home
  { s with ctr := Store.set 0 s.ctr k v, pub := Store.set 0 s.pub k v }.ringSend sl home 0 v

/-- COUNTER_PUBLISH (R413): a changed counter. -/
def execCounterPublish (slice home : Nat) (s : State) : Host.Outcome State Fault Refusal :=
  if 16 < slice ∨ !isHome home ∨ s.toPublish slice home = Store.get 0 s.pub (slice * 1024 + home) then notEnabled "COUNTER_PUBLISH"
  else .next (s.publish slice home)

/-- COUNTER_REPUBLISH (R413): the counter again. -/
def execCounterRepublish (slice home : Nat) (s : State) : Host.Outcome State Fault Refusal :=
  if 16 < slice ∨ !isHome home then notEnabled "COUNTER_REPUBLISH" else .next (s.publish slice home)

/-- The die of a receiver: of a core or of a home. -/
def rcvDie (rcv : Nat) : Nat :=
  if rcv < 196 then rcv / 49
  else
    let h := rcv - 256
    if h < 0xC0 then h / 48 else if h < 0x184 then (h - 0xC0) / 49 else 0

/-- UNIT of a receiver in a log entry: its core, also where it is a scratchpad home, or its L2 bank (R429). -/
def rcvUnit (rcv : Nat) : Nat := if rcv < 196 then rcv % 49 else if rcv - 256 < 0xC0 then (rcv - 256) % 48 else (rcv - 256 - 0xC0) % 49

/-- Apply a counter: the largest value heard stands (R413). -/
def State.hear (s : State) (rcv : Nat) (m : RingMsg) : State :=
  let k := rcv * 32768 + m.sl * 1024 + m.home
  { s with heard := Store.set 0 s.heard k (max (Store.get 0 s.heard k) m.value) }

/-! ### Slice rows (R454) -/

/-- The STATE byte. -/
def SliceSt.code : SliceSt → Nat
  | .free => 0
  | .running => 1
  | .quiescing => 2
  | .exported => 3
  | .importing => 4

/-- The 64 bytes of a slice row. -/
def Slice.row (sl : Slice) : List Byte :=
  leBytes 8 sl.clusters.toNat ++ leBytes 8 sl.borrowed.toNat ++ leBytes 8 sl.lent.toNat ++ leBytes 8 sl.apbase ++ leBytes 24 sl.offline.toNat ++
  [BitVec.ofNat 8 sl.st.code, sl.cpn.zeroExtend 8,
   (if sl.prot then 1 else 0) ||| (if sl.boost then 2 else 0) ||| (sl.race.zeroExtend 8 <<< 2), sl.gen.zeroExtend 8] ++ leBytes 2 sl.tslice ++ [0, 0]

/-- The slice controller writes the row of slice i, under that slice's counter (R530); where there is no memory nothing is written. -/
def State.putRow (s : State) (i : Nat) : State :=
  let a := s.sltbase + 64 * i
  if s.backed a && !s.partPoison a 64 then (s.commitBy (fun t => t.writeBytes a (s.slice i).row) i fwVf a 64 0 0 1).1 else s

/-! ### Renewal (R239, R415) -/

/-- Mark the start of a renewal of a slice's stamp space. -/
def State.startRenewal (s : State) (sl : Nat) : State :=
  if sl = 16 then { s with pkgRenewing := true, pkgDrained := [] } else s.updSlice sl (fun x => { x with renewing := true, drained := [] })

/-- RENEWAL_REQUEST (R239, R415): a home's counter has passed the threshold. -/
def execRenewalRequest (slice home : Nat) (s : State) : Host.Outcome State Fault Refusal :=
  if 16 < slice ∨ s.stalled slice ∨ s.counter slice home ≤ 2 ^ 45 - 2 ^ 40 then notEnabled "RENEWAL_REQUEST"
  else .next ((s.ringSend slice home 1 (s.counter slice home)).startRenewal slice)

/-- Homes that have drained. -/
def State.drainedOf (s : State) (sl : Nat) : List Nat := if sl = 16 then s.pkgDrained else (s.slice sl).drained

/-- The homes of a slice that drain: the package's, the host's and the directories that it uses (R239, R415, R522). -/
def State.renewHomes (s : State) (sl : Nat) : List Nat := s.scopeHomes sl 0 5 ++ [hostHome] ++ s.dirsOf sl

/-- Has a home of a slice drained: is no write of the slice on its way to a directory (R415)? -/
def State.drainedAt (s : State) (sl home : Nat) : Bool :=
  !s.reqs.any (fun e => e.2.slice == sl && e.2.home == home && (match e.2.fab with | .sent _ k => decide (3 ≤ k) | .unsent => false))

/-- RENEWAL_DRAINED (R415): a home has stalled and drained, and sends its counter with KIND 2. -/
def execRenewalDrained (slice home : Nat) (s : State) : Host.Outcome State Fault Refusal :=
  if 16 < slice ∨ !s.stalled slice ∨ !(s.renewHomes slice).contains home ∨ (s.drainedOf slice).contains home ∨ !s.drainedAt slice home then
    notEnabled "RENEWAL_DRAINED"
  else
    let s1 := s.ringSend slice home 2 (s.counter slice home)
    .next (if slice = 16 then { s1 with pkgDrained := home :: s1.pkgDrained } else s1.updSlice slice (fun x => { x with drained := home :: x.drained }))

/-- A failover whose slices have all renewed ends: FAILED is set, the routes lead to the secondary, and FAILDONE goes out (R524). -/
def State.failOver (s : State) (n tag : Nat) : State :=
  let way := s.fab.routes.find? (fun r => r.ndir == n)
  let s1 := { s with fab := { s.fab with
    failed := s.fab.failed ||| (1 <<< n), routes := s.fab.routes.map (fun r => if r.ndir = n then { r with ndir := r.ndir2 } else r) } }
  match way with
  | some rt => s1.sendCrit fwVf rt (s1.fabMsg 12 n 0 tag 0 (Store.get 0 s1.fab.heard n))
  | none => s1

/-- A slice has renewed: the failovers that waited for it alone go on (R524). -/
def State.failRenewed (s : State) (sl : Nat) : State :=
  let l := s.fab.failing.map (fun f => { f with slices := f.slices.filter (· != sl) })
  (l.filter (fun f => f.slices == [])).foldl (fun t f => t.failOver f.dir f.tag) { s with fab := { s.fab with failing := l.filter (fun f => f.slices != []) } }

/-- The new generation takes effect (R239, R415): WGEN advances, counters restart at 0, L1 lines are invalidated and every OBS is null. -/
def State.newGen (s : State) (sl : Nat) : State :=
  let g := s.genOf sl + 1
  let s1 := if sl = 16 then { s with pkgGen := g, pkgRenewing := false, pkgDrained := [] }
    else (s.updSlice sl (fun x => { x with gen := g, renewing := false, drained := [] })).putRow sl
  State.failRenewed { s1 with
    ctr := s1.ctr.filter (fun e => e.1 / 1024 != sl), pub := s1.pub.filter (fun e => e.1 / 1024 != sl),
    heard := s1.heard.filter (fun e => e.1 % 32768 / 1024 != sl),
    ring := s1.ring.filter (fun m => m.sl != sl),
    l1 := s1.l1.filter (fun l => l.slice != sl),
    genHeard := s1.genHeard.filter (fun k => k % 32 != sl),
    fab := { s1.fab with base := Store.set 0 s1.fab.base sl (1 + ((s1.dirsOf sl).map (fun h => Store.get 0 s1.fab.heard (h - 0x200))).foldl max 0) },
    groups := s1.groups.map (fun e => if s.sliceOf e.2 = sl then (e.1, { e.2 with obs := nullObs g }) else e) } sl

/-- Is the generation message of the slice's renewal on the ring? -/
def State.genSent (s : State) (sl : Nat) : Bool := s.ring.any (fun m => m.sl == sl && m.kind == 3)

/-- GENERATION_MESSAGE (R412, R415): every home has sent KIND 2, and the slice controller sends the new generation. -/
def execGenerationMessage (slice : Nat) (s : State) : Host.Outcome State Fault Refusal :=
  if 16 < slice ∨ !s.stalled slice ∨ s.genSent slice ∨ !(s.renewHomes slice).all (fun h => (s.drainedOf slice).contains h) then
    notEnabled "GENERATION_MESSAGE"
  else .next (s.ringSend slice 0x3FF 3 (s.genOf slice + 1).toNat)

/-- A core hears the generation message (R239, R415): its WGEN advances, its heard counters and L1 lines of the slice go, and the OBS of its groups
is null. When the last core has, the homes restart and commits resume (log 120). -/
def State.hearGen (s : State) (core sl : Nat) : State :=
  let g := s.genOf sl + 1
  let s1 := { s with
    genHeard := (core * 32 + sl) :: s.genHeard,
    heard := s.heard.filter (fun e => !(e.1 / 32768 == core && e.1 % 32768 / 1024 == sl)),
    l1 := s.l1.filter (fun l => !(l.core == core && l.slice == sl)),
    groups := s.groups.map (fun e => if s.sliceOf e.2 = sl ∧ e.2.core = core then (e.1, { e.2 with obs := nullObs g }) else e) }
  if (List.range 196).all (fun c => s1.genHeard.contains (c * 32 + sl)) then
    (s1.newGen sl).wakeAll .witness
  else s1

/-- RING_MESSAGE_RECEIVE (R413, R414): a receiver applies a message on the ring, or drops and logs one with an uncorrectable error. -/
def execRingMessageReceive (rcv : Nat) (msg : W64) (bad : Bool) (s : State) : Host.Outcome State Fault Refusal :=
  if !(decide (rcv < 196) || (decide (256 ≤ rcv) && isHome (rcv - 256))) then notEnabled "RING_MESSAGE_RECEIVE"
  else
    match s.ring.find? (fun m => m.word == msg) with
    | none => notEnabled "RING_MESSAGE_RECEIVE"
    | some m =>
      if bad then .next (s.logErr (rcvDie rcv) 0x30 (rcvUnit rcv) 0x1FF 0 msg)
      else if m.kind ≠ 3 then .next (s.hear rcv m)
      else if rcv < 196 then (if s.genHeard.contains (rcv * 32 + m.sl) then notEnabled "RING_MESSAGE_RECEIVE" else .next (s.hearGen rcv m.sl))
      else .next s

/-! ### The scrubber (R379) -/

/-- Lines of a core's pool, operand memory and queue buffer, its barrier slots, and its L1. -/
def scrubLines : Nat := 65536 + 8192 + 2048 + 64 + l1Lines

/-- SCRUB_READ (R379, R381): the scrubber reads its next line; whether it found and corrected an error is a free choice. -/
def execScrubRead (core line : Nat) (s : State) : Host.Outcome State Fault Refusal :=
  if 196 ≤ core ∨ (s.core core).scrubpos ≠ line ∨ !s.powered then notEnabled "SCRUB_READ"
  else
    let last := decide (scrubLines ≤ line + 1)
    let fixed : W32 := if Config.freeNat s.free % 2 = 1 then 1 else 0
    .next ({ s with free := s.free + 1 }.updCore core (fun c =>
      { c with scrubpos := if last then 0 else line + 1, scrubpass := if last then c.scrubpass + 1 else c.scrubpass, sramce := c.sramce + fixed }))

end Sys2Proof.Machine
end

