-- ==== Sys2Proof/Machine/Queue.lean ====
section
/-! DEFINITION. Queues of a command processor: rows, the guest page, states and stops, refills, entries and their selection
(R431–R439), and what the device reads and writes in a VF's space. -/

namespace Sys2Proof.Machine

/-! ### Accesses of the device in a VF's space -/

/-- `n` bytes at a virtual address of a VF, each translated: none when a page fails, is not readable or a byte is poisoned. -/
def State.devBytes (s : State) (who vf : Nat) (va : W64) : Nat → Option (List Byte)
  | 0 => some []
  | n + 1 =>
    match s.devRead who vf va 1, s.devBytes who vf (va + 1) n with
    | some [b], some bs => some (b :: bs)
    | _, _ => none

/-- The core at which a command processor's accesses are judged (R532). -/
def cpCore (g : Nat) : Nat := (g - 2 ^ 43) / 512 / 4 * 49 + 48

/-- A coherent line that a read of the range waits for: one of its pages, an entry of their translation, or a shadow word (R255, R270, R519). -/
def State.devAsks (s : State) (who vf : Nat) (va : W64) (n : Nat) : Option Nat :=
  (List.range (n / 128 + 2)).findSome? (fun i =>
    let o := 128 * i
    if o < n + va.toNat % 128 then
      match s.walk vf (if i = 0 then va else (va &&& ~~~(127 : W64)) + BitVec.ofNat 64 o) with
      | .ok t => if t.coh && t.r && (s.unitLine who (s.vf vf).slice vf t.pa).isNone then some t.pa
        else s.shadowAsk vf (s.vf vf).slice (cpCore who) (if i = 0 then va else (va &&& ~~~(127 : W64)) + BitVec.ofNat 64 o) t.rchk
      | .error x => x.ask
    else none)

/-- A coherent line that a write waits for: an entry of its translation. -/
def State.devWaits (s : State) (vf : Nat) (va : W64) : Option Nat :=
  match s.walk vf va with
  | .ok _ => none
  | .error x => x.ask

/-- Of a coherent line that an access of a queue waits for: one that the fabric could not give is no longer asked for, and the access fails. -/
def State.notLost (s : State) (c q : Nat) (fa : Option Nat) : Option Nat := fa.filter (fun a => !(s.queue c q).lost.contains (a / 128))

/-- Ask for a coherent line, once. -/
def State.devAsk (s : State) (g vf fa : Nat) : State := if s.unitBusy g then s else s.pushUnit (unitReq s g vf .load 0 fa [] 0)

/-- What the device's read of a range does beside giving its bytes: the walks and the data are read at their homes, and each sector is checked for a
race (R257, R270, R410, R469). -/
def State.devTouch (s : State) (g vf : Nat) (va : W64) (n : Nat) : State :=
  (List.range (n / 32 + 2)).foldl (fun t i =>
    let a := if i = 0 then va else (va &&& ~~~(31 : W64)) + BitVec.ofNat 64 (32 * i)
    if 32 * i < n + va.toNat % 32 then
      let t1 := if i = 0 ∨ a.toNat % 4096 = 0 then t.walkReads vf a else t
      match t1.walk vf a with
      | .error _ => t1
      | .ok p =>
        let t2 := if p.coh then t1 else t1.homeRead vf p.pa 0
        t2.raceUnit vf (s.vf vf).slice (cpCore g) 0 a (if p.coh then t2.dirHome vf p.pa else t2.homeOf p.pa) p.rchk none
    else t) s

/-- Does a store of the device have to wait: its page is coherent, its slice's stores stall, or a shadow word is not held (R239, R255, R519)? -/
def State.devLater (s : State) (g vf : Nat) (va : W64) (t : Tr) : Bool :=
  t.coh || s.stalled (s.vf vf).slice || (s.shadowAsk vf (s.vf vf).slice (cpCore g) va t.rchk).isSome

/-- Put a store or an atomic of the device in flight. -/
def State.devPush (s : State) (g vf : Nat) (kind : ReqKind) (va : W64) (t : Tr) (bs : List Byte) (w : W64) : State :=
  s.pushUnit { unitReq s g vf kind va t.pa bs w with coh := t.coh, rchk := t.rchk, home := if t.coh then s.dirHome vf t.pa else s.homeOf t.pa }

/-- A list in pieces of eight. -/
def pieces8 {α : Type} (l : List α) : List (List α) := (List.range ((l.length + 7) / 8)).map (fun k => (l.drop (8 * k)).take 8)

/-- A write of the device to several sectors of a page is checked in each (R257). -/
def State.raceWrites (s : State) (g vf : Nat) (w va : W64) (pa n : Nat) (rchk : Bool) (stamp : Nat) : State :=
  (List.range (n / 32 + 2)).foldl (fun t i =>
    let o := if i = 0 then 0 else 32 * i - va.toNat % 32
    if o < n then t.raceUnit vf (s.vf vf).slice (cpCore g) w (va + BitVec.ofNat 64 o) (t.homeOf (pa + o)) rchk (some (5, stamp)) else t) s

/-- Store bytes of the device (a status word, a completion word, the guest page), 8-byte aligned or at most four: committed at their home, or put
in flight eight at a time where they have to wait; `w` is the witness the store presents. None when the page fails translation or permission. -/
def State.devStore (s : State) (g vf : Nat) (va : W64) (bs : List Byte) (w : W64) : Option State :=
  match s.devWrite? vf va with
  | none => none
  | some t =>
    if s.devLater g vf va t then
      some ((List.range (pieces8 bs).length).foldl (fun u k =>
        u.devPush g vf .store (va + BitVec.ofNat 64 (8 * k)) { t with pa := t.pa + 8 * k } ((pieces8 bs).getD k []) w) s)
    else
      let c := s.commitGlobal (s.vf vf).slice vf t.pa bs (s.presentedStamp (s.vf vf).slice w) 0 1
      some ((c.1.raceWrites g vf w va t.pa bs.length t.rchk c.2).walkReads vf va)

/-! ### Rows (R432) -/

/-- A queue row as read. -/
structure QRow where
  qcb     : W64
  vf      : Nat
  owner   : Nat
  weight  : Nat
  quota   : Nat
  enable  : Nat
  timeout : Nat
  deriving DecidableEq, Repr

/-- A VF row as read. -/
structure VRow where
  nring  : Nat
  nsize  : Nat
  weight : Nat
  deriving DecidableEq, Repr

/-- Is the number a power of two from 2^a to 2^b? -/
def pow2In (n a b : Nat) : Bool := (List.range (b + 1)).any (fun k => decide (a ≤ k) && n == 2 ^ k)

/-- Read a VF row at its home: none when it breaks a range. -/
def State.vrow (s : State) (c vf : Nat) : Option VRow :=
  let a := (s.cp c).vtbase.toNat + 16 * (s.vf vf).local_
  let bs := s.bytes a 16
  let r : VRow := { nring := field bs 0 8, nsize := field bs 8 4, weight := field bs 12 1 }
  if s.backed a && pow2In r.nsize 4 12 && decide (1 ≤ r.weight ∧ r.weight ≤ 64) && zeroRange bs 13 3 && decide (hostBase ≤ r.nring) &&
      r.nring % 8 == 0 then some r else none

/-- Read a queue row at its home: none when it breaks a range. -/
def State.qrow (s : State) (c q : Nat) : Option QRow :=
  let a := (s.cp c).qtbase.toNat + 32 * q
  let bs := s.bytes a 32
  let r : QRow := { qcb := BitVec.ofNat 64 (field bs 0 8), vf := field bs 8 2, owner := field bs 10 2, weight := field bs 12 1,
                    quota := field bs 13 1, enable := field bs 14 1, timeout := field bs 16 4 }
  if s.backed a && decide (q < (s.cp c).nq) && r.qcb.toNat % 4096 == 0 && decide (r.vf < 384) && (s.vf r.vf).enabled && (s.vf r.vf).slice == s.cpSlice c &&
      (r.owner == r.vf || r.owner == 0x1FF) && decide (1 ≤ r.weight ∧ r.weight ≤ 64) && decide (1 ≤ r.quota ∧ r.quota ≤ 64) &&
      decide (r.enable ≤ 1) && zeroRange bs 15 1 && decide (r.timeout ≤ 65535) && zeroRange bs 20 12 then some r else none

/-! ### The guest page (R433, R434) -/

/-- STATUS. -/
def Queue.status (x : Queue) : W32 :=
  let st : Nat := match x.st with
    | .idle => 0 | .ready => 1 | .active => 2 | .waiting => 3 | .spilled => 4 | .stopped => 5
  BitVec.ofNat 32 (x.index.toNat * 65536 + x.err.toNat * 256 + (if x.failed then 64 else 0) + (if x.timedout then 32 else 0) +
    (if x.cap then 16 else 0) + st)

/-- The bytes that the device writes from 0x18 to 0x3F of the guest page. -/
def Queue.pageBytes (x : Queue) : List Byte :=
  leBytes 8 x.rdptr ++ leBytes 8 x.done ++ leBytes 4 x.status.toNat ++ [0, 0, 0, 0] ++
  leBytes 8 x.echo0.toNat ++ leBytes 8 x.echo1.toNat

/-- Write the guest page; none when it is not translated or not permitted. -/
def State.writePage (s : State) (c q : Nat) : Option State :=
  let x := s.queue c q
  (s.devStore (cpG c q) x.vf (x.qcb + 0x18) x.pageBytes 0).map (fun t => t.updQueue c q (fun y => { y with pageDue := false }))

/-- Write the guest page of a queue that stops, or leave it to be written when its translation has been read. -/
def State.stopPage (s : State) (c q : Nat) : State :=
  let x := s.queue c q
  match s.notLost c q (s.devWaits x.vf (x.qcb + 0x18)) with
  | some fa => (s.devAsk (cpG c q) x.vf fa).updQueue c q (fun y => { y with pageDue := true })
  | none => (s.writePage c q).getD s

/-! ### Stops (R436) -/

/-- CAP stands while a block of one of the queue's launches that was held is not placed (R434, R444). -/
def State.capNow (s : State) (c q : Nat) : State :=
  let still := s.launches.any (fun e => e.2.cp == c && e.2.q == q && e.2.caps != [])
  s.updQueue c q (fun x => { x with cap := x.cap && still })

/-- End the running launches of a queue (R436): their blocks end under R264 and nothing more is placed. -/
def State.cutLaunches (s : State) (c q : Nat) : State :=
  ((s.launches.filter (fun e => e.2.cp == c && e.2.q == q && e.2.live)).map Prod.fst).foldl (fun t l =>
    let t1 := (t.updLaunch l (fun x => { x with cut := true, failed := true, held := [], caps := [] })).capNow c q
    ((t1.blocks.filter (fun e => e.2.launch == some l && !e.2.done)).map Prod.fst).foldl (fun u b =>
      let u1 := u.endByFault b
      if u1.groups.any (fun e => e.2.blk == b) then u1 else u1.endBlock b) t1) s

/-- A wait slot is freed, and a spilled waiter leaves the list (R442). -/
def State.leaveWait (s : State) (c q : Nat) : State :=
  (s.updCp c (fun x => { x with slots := x.slots.filter (fun e => e.2 != q), spill := x.spill.filter (· != q) })).updQueue c q
    (fun x => { x with slot := none })

/-- Is the begun entry a WAIT? -/
def Begun.isWait (b : Begun) : Bool := b.e.ctl.extractLsb' 0 4 == 4

/-- Stop a queue with an error code (R436, R439, R444): `n` is the entry it concerns, `cmd` a stop by the host manager's command. With
ERR 4 its running launches end; the entry that failed is dropped; entries begun before run on. An entry that fails after the stop is dropped. -/
def State.stopQueue (s : State) (c q : Nat) (err : Byte) (n : Nat) (cmd : Bool) : State :=
  let x := s.queue c q
  if x.st = .stopped then
    if err = 3 ∨ err = 5 then s.updQueue c q (fun y => { y with begun := y.begun.filter (fun b => b.n != n) }) else s
  else
    let keep (b : Begun) : Bool := if err = 4 then !b.isWait && !b.fresh else b.n != n || !(err == 3 || err == 5)
    let s1 := if err = 4 ∧ (x.st = .active ∨ x.st = .waiting ∨ x.st = .spilled) then s.cutLaunches c q else s
    let s2 := s1.updQueue c q (fun y =>
      { y with st := .stopped, err := err, index := BitVec.ofNat 16 n, head := none, lost := [], begun := y.begun.filter keep, qc := 0 })
    let s3 := if (s2.queue c q).begun.any Begun.isWait then s2 else s2.leaveWait c q
    let others := (s3.cp c).queues.any (fun e => e.2.owner == x.owner && e.2.st != .stopped)
    let s4 := if others then s3 else s3.updCp c (fun y => { y with c := Store.del y.c x.owner })
    let s5 := s4.stopPage c q
    if cmd then s5 else s5.notice (c / 4) 3 q (c % 4)

/-! ### Entries (R437) -/

/-- TYPE. -/
def Entry.type (e : Entry) : Nat := (e.ctl.extractLsb' 0 4).toNat
/-- OVL. -/
def Entry.ovl (e : Entry) : Bool := e.ctl.getLsbD 4
/-- COND, SOP, WIT. -/
def Entry.cond (e : Entry) : Nat := (e.ctl.extractLsb' 8 2).toNat
def Entry.sop (e : Entry) : Bool := e.ctl.getLsbD 10
def Entry.wit (e : Entry) : Bool := e.ctl.getLsbD 11

/-- Is the entry bad (R437)? `bs` are its 64 bytes. -/
def Entry.bad (e : Entry) (bs : List Byte) : Bool :=
  let t := e.type
  t == 0 || decide (5 < t) || e.ctl.extractLsb' 5 3 != 0 || e.ctl.extractLsb' 13 3 != 0 || !zeroRange bs 4 4 || !zeroRange bs 0x18 40 ||
  (e.ovl && t != 1 && t != 5) || (e.cond != 0 && t != 4) || ((e.sop || e.wit) && t != 3) ||
  ((t == 1 || t == 5) && e.value != 0) || (t == 2 && decide (65536 ≤ e.value.toNat)) ||
  (t == 3 && e.wit && (e.sop || e.value != 0)) || (t == 4 && e.cond == 3 && e.value != 0)

/-- Is it the entry of index n, by SEQ and LAP? -/
def Entry.valid (e : Entry) (n : Nat) : Bool :=
  e.ctl.extractLsb' 16 16 == BitVec.ofNat 16 n && e.ctl.getLsbD 12 == (n / 65536 % 2 == 1)

/-- The entry in 64 bytes. -/
def entryOf (bs : List Byte) : Entry :=
  { ctl := BitVec.ofNat 32 (field bs 0 4), addr := BitVec.ofNat 64 (field bs 8 8), value := BitVec.ofNat 64 (field bs 16 8) }

/-! ### Refills (R435) -/

/-- What a refill takes from the rows. -/
def State.takeRows (s : State) (c q : Nat) (r : QRow) (v : VRow) : State :=
  (s.updVf r.vf (fun x => { x with weight := v.weight, nring := v.nring, nsize := v.nsize })).updQueue c q (fun x =>
    { x with qcb := r.qcb, vf := r.vf, owner := r.owner, weight := r.weight, quota := r.quota, enable := r.enable, timeout := r.timeout })

/-- A queue whose row names another owner than before is the new owner's: an owner without a counter starts with its weight, and one without a queue
that is not Stopped loses its own (R439). -/
def State.takeOwner (s : State) (c old new : Nat) : State :=
  if old = new then s
  else s.updCp c (fun y =>
    let m := if y.queues.any (fun e => e.2.owner == old && e.2.st != .stopped) then y.c else Store.del y.c old
    { y with c := if (Store.find m new).isSome then m else Store.put m new ((if new = 0x1FF then 64 else (s.vf new).weight) : Int) })

/-- The row of a queue is read at its home, and the guest page's ECHO fields show it (R433, R435). -/
def State.readRow (s : State) (c q : Nat) : State :=
  let a := (s.cp c).qtbase.toNat + 32 * q
  (s.homeRead fwVf a 0).updQueue c q (fun x => { x with echo0 := BitVec.ofNat 64 (s.nat (a + 8) 7), echo1 := BitVec.ofNat 64 (s.nat (a + 16) 4) })

/-- Has the row of a queue, and the row of the VF that it names, memory behind it (R530)? -/
def State.rowsBacked (s : State) (c q : Nat) : Bool :=
  let a := (s.cp c).qtbase.toNat + 32 * q
  s.backed a && s.backed ((s.cp c).vtbase.toNat + 16 * (s.vf (s.nat (a + 8) 2)).local_)

/-- The ERR code of a guest page or ring that cannot be reached: 3 where a stage-2 table has no memory behind it, else 2 (R434, R530). -/
def State.pageErr (s : State) (vf : Nat) (va : W64) : Byte :=
  match s.walk vf va with
  | .error x => if x.unbacked then 3 else 2
  | .ok _ => 2

/-- A coherent line that a refill waits for. -/
def State.refillAsk (s : State) (c q vf : Nat) (qcb ea : W64) : Option Nat :=
  s.notLost c q (((s.devAsks (cpG c q) vf (qcb + 0x10) 8).orElse (fun _ => s.devAsks (cpG c q) vf ea 64)).orElse (fun _ => s.devWaits vf ((s.queue c q).qcb + 0x18)))

/-- A queue whose last begun entry has completed is Idle until a valid entry is found (R436). -/
def Queue.settle (x : Queue) : Queue := if x.st = .active ∧ x.begun = [] then { x with st := if x.head.isSome then .ready else .idle } else x

/-- A refill: the rows and WRPTR are read, the entry at RDPTR is read until it is valid, and the guest page is rewritten. A row with nothing
behind it stops the queue with ERR 3 (R530). -/
def State.refill (s : State) (c q : Nat) : State :=
  let x := s.queue c q
  if !s.rowsBacked c q then s.stopQueue c q 3 x.rdptr false
  else
  let s := s.readRow c q
  match s.qrow c q with
  | none => s.stopQueue c q 6 x.rdptr false
  | some r =>
    match s.vrow c r.vf with
    | none => (s.updVf r.vf (fun y => { y with weight := 1 })).stopQueue c q 6 x.rdptr false
    | some v =>
      if r.enable = 0 then s.stopQueue c q 6 x.rdptr false
      else if s.tstate r.vf = 3 then s.stopQueue c q 4 x.rdptr false
      else
        let s1 := (s.takeRows c q r v).takeOwner c x.owner r.owner
        let ea := x.ring + BitVec.ofNat 64 (64 * (x.rdptr % x.size))
        match s1.refillAsk c q r.vf r.qcb ea with
        | some fa => s1.devAsk (cpG c q) r.vf fa
        | none =>
          match s1.devRead (cpG c q) r.vf (r.qcb + 0x10) 8, s1.devBytes (cpG c q) r.vf ea 64 with
          | none, _ => s1.stopQueue c q (s1.pageErr r.vf (r.qcb + 0x10)) x.rdptr false
          | _, none => s1.stopQueue c q (s1.pageErr r.vf ea) x.rdptr false
          | some _, some bs =>
            let t := ((s1.devTouch (cpG c q) r.vf (r.qcb + 0x10) 8).devTouch (cpG c q) r.vf ea 64).dropAside (cpG c q)
            let e := entryOf bs
            if x.head.isNone && e.valid x.rdptr && e.bad bs then t.stopQueue c q 1 x.rdptr false
            else
              let s2 := (t.updQueue c q Queue.settle).updQueue c q (fun y =>
                if y.head.isNone ∧ e.valid x.rdptr then { y with head := some e, st := if y.st = .idle then .ready else y.st } else y)
              ((s2.writePage c q).getD (s2.stopQueue c q (s2.pageErr r.vf (r.qcb + 0x18)) x.rdptr false)).updQueue c q (fun y => { y with lost := [] })

/-- May the queue be refilled: is it started? -/
def State.mayRefill (s : State) (c q : Nat) : Bool := decide (c < 16) && decide (q < 512) && (s.queue c q).st != .stopped && !(s.cp c).stopped

/-- QUEUE_REFILL (R435): a Stopped queue is not refilled. -/
def execQueueRefill (cp q : Nat) (s : State) : Host.Outcome State Fault Refusal :=
  if 16 ≤ cp ∨ 512 ≤ q then notEnabled "QUEUE_REFILL" else .next (if s.mayRefill cp q then s.refill cp q else s)

/-- REFILL_TIMER (R435): at least once every 100 µs; the page of a queue that has stopped is written if it is still due. -/
def execRefillTimer (cp q : Nat) (s : State) : Host.Outcome State Fault Refusal :=
  if s.mayRefill cp q then .next (s.refill cp q)
  else if (s.queue cp q).pageDue then .next ((s.updQueue cp q (fun x => { x with pageDue := false })).stopPage cp q)
  else notEnabled "REFILL_TIMER"

/-- The command processor that serves a VF (R431, R455). -/
def State.cpOf (s : State) (vf : Nat) : Nat := (s.slice (s.vf vf).slice).cpn.toNat

/-- DOORBELL (R435): a write to BAR0 + 8 × q of a VF; a Stopped queue and a queue of another VF are not refilled. -/
def execDoorbell (vf q : Nat) (s : State) : Host.Outcome State Fault Refusal :=
  let c := s.cpOf vf
  if (s.vf vf).enabled && decide (q < 512) then
    .next (if s.mayRefill c q && (s.queue c q).vf == vf && s.tstate vf != 3 then s.refill c q else s)
  else notEnabled "DOORBELL"

/-! ### Start and stop (R436, R448) -/

/-- A queue starts: false when the row or the guest page is not valid, or the VF is in ERROR (R486). A row, or a stage-2 table of the page, with
nothing behind it leaves the queue Stopped with ERR 3 (R530). -/
def State.startQueue (s : State) (c q : Nat) : State × Bool :=
  let nothing (t : State) : State × Bool := ((t.updQueue c q (fun x => { x with err := 3 })).notice (c / 4) 3 q (c % 4), false)
  if (s.queue c q).st ≠ .stopped then (s, false)
  else if !s.rowsBacked c q then nothing s
  else
    let s := s.readRow c q
    match s.qrow c q with
    | none => (s.notice (c / 4) 3 q (c % 4), false)
    | some r =>
      match s.vrow c r.vf with
      | none => ((s.updVf r.vf (fun y => { y with weight := 1 })).notice (c / 4) 3 q (c % 4), false)
      | some v =>
        match s.devBytes (cpG c q) r.vf r.qcb 0x18 with
        | none => if s.pageErr r.vf r.qcb = 3 then nothing s else (s, false)
        | some bs =>
          let size := field bs 8 4
          let wr := field bs 16 8
          if r.enable = 0 ∨ s.tstate r.vf = 3 ∨ !pow2In size 4 16 ∨ field bs 0 8 % 64 ≠ 0 then (s, false)
          else
            let o := s.queue c q
            let x : Queue := { begun := o.begun, wits := o.wits, echo0 := o.echo0, echo1 := o.echo1, st := .idle, qcb := r.qcb, vf := r.vf, owner := r.owner, weight := r.weight, quota := r.quota,
                               enable := r.enable, timeout := r.timeout, ring := BitVec.ofNat 64 (field bs 0 8), size := size, rdptr := wr,
                               done := wr, qc := (r.weight : Int) }
            let s1 := (((s.devTouch (cpG c q) r.vf r.qcb 0x18).dropAside (cpG c q)).takeRows c q r v).updQueue c q (fun _ => x)
            let w := if r.owner = 0x1FF then 64 else v.weight
            let s2 := s1.updCp c (fun y => if (Store.find y.c r.owner).isSome then y else { y with c := Store.put y.c r.owner (w : Int) })
            match s2.writePage c q with
            | some s3 => (s3, true)
            | none => (s, false)

/-- The host manager's reply to a command: the opcode, and bit 0 set on failure (R448). -/
def cmdReply (op : Nat) (ok : Bool) : W64 := BitVec.ofNat 64 (op * 2 ^ 56 + (if ok then 0 else 1))

/-- A command in mailbox 0 of a die is taken. Slice commands are taken in arrival order, over the four dies, and other commands in theirs; a RECALL
goes ahead of every waiting command (R457). -/
def State.takeCmd (s : State) (die op : Nat) (cmd : W64) : Option State :=
  let q := (s.mbox die 0).inb
  match q.findIdx? (· == cmd) with
  | some i =>
    if die < 4 ∧ (cmd.extractLsb' 56 8).toNat = op ∧
        (op = 0x26 ∨ ((q.take i).all (fun m => isSliceCmd m != isSliceCmd cmd) ∧ (isSliceCmd cmd = false ∨ s.arrivals.headD die = die))) then
      some ((s.arrivalTaken die cmd ((q.take i).countP isSliceCmd)).updMbox die 0 (fun x => { x with inb := x.inb.eraseIdx i }))
    else none
  | none => none

/-- A coherent line that the start of a queue waits for. -/
def State.startAsk (s : State) (c q : Nat) : Option (Nat × Nat) :=
  match s.qrow c q with
  | none => none
  | some r => (s.notLost c q ((s.devAsks (cpG c q) r.vf r.qcb 0x18).orElse (fun _ => s.devWaits r.vf (r.qcb + 0x18)))).map (fun fa => (r.vf, fa))

/-- QUEUE_START (R436, R448). -/
def execQueueStart (die : Nat) (cmd : W64) (s : State) : Host.Outcome State Fault Refusal :=
  let c := die * 4 + (cmd.extractLsb' 10 2).toNat
  let q := (cmd.extractLsb' 0 9).toNat
  match s.takeCmd die 0x10 cmd with
  | none => notEnabled "QUEUE_START"
  | some s1 =>
    match (if (s.queue c q).st = .stopped then s.startAsk c q else none) with
    | some (vf, fa) => if s.unitBusy (cpG c q) then notEnabled "QUEUE_START" else .next (s.devAsk (cpG c q) vf fa)
    | none =>
      let r := (s1.updQueue c q (fun x => { x with lost := [] })).startQueue c q
      .next (r.1.postReply die (cmdReply 0x10 r.2))

/-- QUEUE_STOP (R436, R448): the reply reports failure for a queue that is Stopped. -/
def execQueueStop (die : Nat) (cmd : W64) (s : State) : Host.Outcome State Fault Refusal :=
  match s.takeCmd die 0x11 cmd with
  | none => notEnabled "QUEUE_STOP"
  | some s1 =>
    let c := die * 4 + (cmd.extractLsb' 10 2).toNat
    let q := (cmd.extractLsb' 0 9).toNat
    let ok := (s1.queue c q).st != .stopped
    .next ((s1.stopQueue c q 4 (s1.queue c q).rdptr true).postReply die (cmdReply 0x11 ok))

/-! ### Selection (R439) -/

/-- May the head entry begin (R438)? -/
def Queue.mayBegin (x : Queue) : Bool :=
  match x.head with
  | none => false
  | some e => decide (x.begun.length < x.quota) && (x.begun == [] || e.ovl)

/-- Is the queue eligible? -/
def Queue.eligible (x : Queue) : Bool :=
  x.mayBegin && (match x.st with
    | .ready => true
    | .active | .waiting | .spilled => (match x.head with | some e => e.ovl | none => false)
    | _ => false)

/-- Is the number among the owners? -/
def insOwner (o : Nat) (l : List Nat) : List Nat := if l.contains o then l else l ++ [o]

/-- The order of owners under a tie: VF.LOCAL, the host manager's share last. -/
def State.ownerRank (s : State) (o : Nat) : Nat := if o = 0x1FF then 1000 else (s.vf o).local_

/-- The weight of an owner. -/
def State.ownerWeight (s : State) (o : Nat) : Nat := if o = 0x1FF then 64 else (s.vf o).weight

/-- The better of two candidates: higher counter, ties to the lower rank. -/
def better (a b : Int × Nat × Nat) : Int × Nat × Nat := if b.1 < a.1 ∨ (a.1 = b.1 ∧ a.2.1 ≤ b.2.1) then a else b

/-- The best of a list of counter, rank and name. -/
def best : List (Int × Nat × Nat) → Option (Int × Nat × Nat)
  | [] => none
  | x :: xs => some (xs.foldl better x)

/-- The counters after the refill of owners and of the chosen owner's queues, and the queue chosen (R439). -/
def State.selectQueue (s : State) (c : Nat) : Option (State × Nat) :=
  let el (t : State) : List (Nat × Queue) := (t.cp c).queues.filter (fun e => e.2.eligible)
  let owners := (el s).foldl (fun l e => insOwner e.2.owner l) []
  let cOf (t : State) (o : Nat) : Int := Store.get 0 (t.cp c).c o
  let s1 := if owners.all (fun o => decide (cOf s o ≤ 0)) then
      s.updCp c (fun x => { x with c := x.c.map (fun e => (e.1, min (e.2 + s.ownerWeight e.1) (s.ownerWeight e.1))) })
    else s
  match best (owners.map (fun o => (cOf s1 o, s1.ownerRank o, o))) with
  | none => none
  | some (_, _, v) =>
    let mine := (el s1).filter (fun e => e.2.owner == v)
    let s2 := if mine.all (fun e => decide (e.2.qc ≤ 0)) then
        s1.updCp c (fun x => { x with queues := x.queues.map (fun e =>
          (e.1, if e.2.owner = v ∧ e.2.st ≠ .stopped then { e.2 with qc := min (e.2.qc + e.2.weight) e.2.weight } else e.2)) })
      else s1
    match best (((el s2).filter (fun e => e.2.owner == v)).map (fun e => (e.2.qc, e.1, e.1))) with
    | none => none
    | some (_, _, q) => some (s2.updCp c (fun x => { x with c := Store.upd x.c v (· - 1) }), q)

/-- ENTRY_SELECT (R439): the head entry of the chosen queue begins. -/
def execEntrySelect (cp : Nat) (s : State) : Host.Outcome State Fault Refusal :=
  if (s.cp cp).stopped then notEnabled "ENTRY_SELECT"
  else
    match s.selectQueue cp with
    | none => notEnabled "ENTRY_SELECT"
    | some (s1, q) =>
      .next (s1.updQueue cp q (fun x => match x.head with
        | none => x
        | some e => { x with qc := x.qc - 1, head := none, rdptr := x.rdptr + 1, st := if x.st = .ready then .active else x.st,
                             begun := x.begun ++ [{ n := x.rdptr, e := e, fresh := true, timedout := false }] }))

/-- ENTRY_TIMEOUT (R444): a LAUNCH, GRAPH, WAIT or COPY has passed TIMEOUT; one notice for the entry. -/
def execEntryTimeout (cp q n : Nat) (s : State) : Host.Outcome State Fault Refusal :=
  let x := s.queue cp q
  if x.timeout ≠ 0 ∧ x.begun.any (fun b => b.n == n && !b.timedout && b.e.type != 3) then
    .next ((s.updQueue cp q (fun y =>
      { y with timedout := true, index := BitVec.ofNat 16 n, begun := y.begun.map (fun b => if b.n = n then { b with timedout := true } else b) })).notice
        (cp / 4) 1 q (cp % 4))
  else notEnabled "ENTRY_TIMEOUT"

end Sys2Proof.Machine
end

