-- ==== Sys2Proof/Machine/Launch.lean ====
section
/-! DEFINITION. What queue entries do: launches with the checks of the kernel header and the launch record (R83–R85, R293–R297,
R393), graphs (R445), signals (R438), waits (R440–R443), copies (R446), and how launches complete (R250). -/

namespace Sys2Proof.Machine

/-! ### The kernel header (R83–R85) -/

/-- Is a partition word legal (R287, R288)? -/
def partOk (w : W32) : Bool :=
  w.extractLsb' 27 5 == 0 && !w.getLsbD 7 && decide (partACC w ≤ 64) && decide (partSP w ≤ 2048) && decide (1 ≤ partRF w ∧ partRF w ≤ 96) &&
  decide (64 * partRF w + 4 * partSP w + 128 * partACC w ≤ 8192)

/-- A footprint entry with its base from the argument area; none when it breaks R84. -/
def footEntry (bs args : List Byte) : Option (Nat × Nat × Bool × Bool) :=
  let o := field bs 0 2
  let m := field bs 2 1
  if o % 8 = 0 ∧ o ≤ 0xB8 ∧ 1 ≤ m ∧ m ≤ 3 ∧ zeroRange bs 3 5 then some (field args o 8, field bs 8 8, m % 2 == 1, decide (2 ≤ m)) else none

/-- All entries of a list, or none. -/
def allSome {α : Type} : List (Option α) → Option (List α)
  | [] => some []
  | none :: _ => none
  | some x :: xs => (allSome xs).map (x :: ·)

/-- An instruction address at a signed offset from the header. -/
def atOff (hdr : W64) (bs : List Byte) (o : Nat) : W64 := hdr + BitVec.ofNat 64 (field bs o 8)

/-- Does a header break R85, its footprint list apart? -/
def headerBad (hdr : W64) (bs : List Byte) : Bool :=
  let vg := field bs 8 1
  let sg := field bs 9 1
  let d := field bs 10 1
  let tiers := field bs 11 1
  let prod := field bs 0x14 2
  let fn := field bs 0x16 2
  let entry := atOff hdr bs 0x28
  decide (hdr.toNat % 256 ≠ 0 ∨ field bs 0 4 ≠ 0x4F4C4B31 ∨ field bs 4 2 ≠ 1 ∨ !zeroRange bs 6 2 ∨ vg = 0 ∨ 32 < vg ∨ sg = 0 ∨ 16 < sg ∨ d = 0 ∨ 64 < d ∨
      tiers < 3 ∨ 8 < tiers ∨ !partOk (BitVec.ofNat 32 (field bs 12 4)) ∨ (4095 < prod ∧ prod ≠ 0xFFFF) ∨ 256 < fn ∨ !zeroRange bs 0x1C 4 ∨
      (fn = 0 ∧ field bs 0x30 8 ≠ 0) ∨ !zeroRange bs 0x38 200 ∨ entry.extractLsb' 3 3 ≠ 0 ∨ 4 < (entry.extractLsb' 0 3).toNat)

/-- The block template that a header and a record give, with TIERS; none for a header that R85 refuses. -/
def header (hdr : W64) (bs foot rec : List Byte) (slice vf : Nat) (record : W64) : Option (Block × Nat) :=
  let fn := field bs 0x16 2
  let fs := allSome ((List.range fn).map (fun k => footEntry ((foot.drop (16 * k)).take 16) (rec.drop 0x40)))
  if headerBad hdr bs then none
  else
    fs.map (fun f =>
      ({ launch := none, blockid := 0, slice := slice, vf := vf, ngroups := (field rec 0x14 4 + 31) / 32, bthreads := field rec 0x14 4,
         vgran := field bs 8 1, sgran := field bs 9 1, divd := field bs 10 1, scratch := field bs 0x10 4, producer := field bs 0x14 2,
         quota := field bs 0x18 4, accu := field rec 0x18 1, partw := BitVec.ofNat 32 (field bs 12 4),
         trapvec := if field bs 0x20 8 = 0 then 0 else atOff hdr bs 0x20, entry := atOff hdr bs 0x28, args := record + 0x40, foot := f, shares := [],
         placed := false, failed := false, done := false, fltmasks := [], records := [], inGourd := false }, field bs 11 1))

/-! ### The launch record (R293, R294, R393) -/

/-- A tier entry: none when it breaks a range. -/
def tierOf (v : Nat) : Option Tier :=
  let t : Tier := { count := v % 2 ^ 24, domain := v / 2 ^ 24 % 8, scope := v / 2 ^ 27 % 8 }
  if t.count = 0 ∨ 4 < t.domain ∨ v / 2 ^ 30 ≠ 0 then none else some t

/-- The tier rules of R393: scopes no narrower than domains, domains that do not narrow upwards, at most one placing tier. -/
def tiersOk (own : Nat) (ts : List Tier) : Bool :=
  ts.all (fun t => decide (t.domain + 2 ≤ t.scope)) &&
  (List.range ts.length).all (fun k => decide ((if k = 0 then own else (ts.getD (k - 1) ⟨1, 0, 0⟩).domain) ≤ (ts.getD k ⟨1, 0, 0⟩).domain) &&
    decide (own ≤ (ts.getD k ⟨1, 0, 0⟩).domain)) &&
  decide ((ts.filter (fun t => decide (t.domain ≤ 2))).length ≤ 1)

/-- The declared tiers of a record; none when a field of the record breaks its range (REASON 2). -/
def recordOk (rec : List Byte) (tiers : Nat) : Option (List Tier) :=
  let nb := field rec 0x10 4
  let bt := field rec 0x14 4
  let decl := (List.range (tiers - 3)).map (fun k => tierOf (field rec (0x20 + 4 * k) 4))
  let own := if 1024 < (bt + 31) / 32 then 1 else 0
  if field rec 8 8 % 8 ≠ 0 ∨ nb = 0 ∨ bt = 0 ∨ 131072 < bt ∨ 64 < field rec 0x18 1 ∨ !zeroRange rec 0x19 3 ∨ !zeroRange rec 0x34 12 ∨
      !zeroRange rec (0x20 + 4 * (tiers - 3)) (4 * (8 - tiers)) then none
  else
    match allSome decl with
    | none => none
    | some ts =>
      if tiersOk own ts && (ts == [] || (ts.map Tier.count).foldl (· * ·) 1 == nb) then some ts else none

/-- BPC and LIMIT of a block (R297): the smallest quotient of an empty core's capacities, the first resource on a tie. -/
def fit (b : Block) : Nat × Nat :=
  let need := b.need 0
  let cap := capacity b.partw
  (List.range 4).foldl (fun best r =>
    if need.getD r 0 = 0 then best
    else
      let q := cap.getD r 0 / need.getD r 0
      if q < best.1 then (q, r) else best) (2 ^ 32, 0)

/-- STATUS (R294). -/
def launchStatus (bpc limit reason st : Nat) : W32 := BitVec.ofNat 32 (min bpc 2047 * 65536 + limit * 4096 + reason * 256 + st)

/-- What becomes of a launch record. -/
inductive Launched where
  | ask (s : State)
  | unreadable
  | refused (s : State)
  | accepted (s : State)

/-- The template of a launch: the header, then its footprint list, which is read only where the header stands (R85, log 122). -/
inductive Template where
  | ask (fa : Nat)
  | bad (s : State)
  | ok (s : State) (b : Block) (tiers : Nat)

/-- Read the header that a record names, and its footprint list. -/
def State.template (s : State) (c q vf sl : Nat) (record : W64) (rec : List Byte) : Template :=
  let hdr := BitVec.ofNat 64 (field rec 0 8)
  if hdr.toNat % 256 ≠ 0 then .bad s
  else
    match s.notLost c q (s.devAsks (cpG c q) vf hdr 256) with
    | some fa => .ask fa
    | none =>
      match s.devBytes (cpG c q) vf hdr 256 with
      | none => .bad s
      | some bs =>
        let t := s.devTouch (cpG c q) vf hdr 256
        if headerBad hdr bs then .bad t
        else
          let fa := atOff hdr bs 0x30
          let n := 16 * field bs 0x16 2
          match s.notLost c q (s.devAsks (cpG c q) vf fa n) with
          | some a => .ask a
          | none =>
            match (s.devBytes (cpG c q) vf fa n).bind (fun foot => header hdr bs foot rec sl vf record) with
            | some (b, tiers) => .ok (t.devTouch (cpG c q) vf fa n) b tiers
            | none => .bad (t.devTouch (cpG c q) vf fa n)

/-- The launch that a record makes. -/
def launchOf (c q n : Nat) (node : Option Nat) (vf sl : Nat) (record : W64) (rec : List Byte) (b : Block) (ts : List Tier) (st : W32) : Launch :=
  { cp := c, q := q, n := n, node := node, slice := sl, vf := vf, record := record, compl := BitVec.ofNat 64 (field rec 8 8),
    nblocks := field rec 0x10 4, bthreads := b.bthreads, accu := b.accu, tiers := ts, tmpl := b, status := st, turn := false,
    placed := [], retired := 0, held := [], caps := [], refused := [], seen := [], failed := false, wit := 0, cut := false, sent := false }

/-- Launch a record for an entry, or for a node of a graph (R293–R297). -/
def State.launchAt (s : State) (c q n : Nat) (node : Option Nat) (record : W64) : Launched :=
  let vf := (s.queue c q).vf
  let sl := s.cpSlice c
  if record.toNat % 256 ≠ 0 then .unreadable
  else
    match s.notLost c q ((s.devAsks (cpG c q) vf record 256).orElse (fun _ => s.devWaits vf (record + 0x1C))) with
    | some fa => .ask (s.devAsk (cpG c q) vf fa)
    | none =>
      match s.devBytes (cpG c q) vf record 256 with
      | none => .unreadable
      | some rec =>
        let put (w : W32) (t : State) : State := (t.devStore (cpG c q) vf (record + 0x1C) (leBytes 4 w.toNat) 0).getD t
        match s.template c q vf sl record rec with
        | .ask fa => .ask (s.devAsk (cpG c q) vf fa)
        | .bad t => .refused (put (launchStatus 0 0 1 4) (t.devTouch (cpG c q) vf record 256))
        | .ok t b tiers =>
          let s := t.devTouch (cpG c q) vf record 256
          match recordOk rec tiers with
          | none => .refused (put (launchStatus 0 0 2 4) s)
          | some ts =>
            let f := fit b
            if f.1 = 0 then .refused (put (launchStatus 0 f.2 3 4) s)
            else
              let st := launchStatus f.1 f.2 0 1
              .accepted (put st { s with launches := Store.put s.launches s.nextId (launchOf c q n node vf sl record rec b ts st), nextId := s.nextId + 1 })

/-- The begun entry of a TYPE whose effect is still to be carried out. -/
def State.freshEntry (s : State) (c q ty : Nat) : Option Begun := (s.queue c q).begun.find? (fun b => b.fresh && b.e.type == ty)

/-- Mark an entry's effect as carried out. -/
def State.begunCarried (s : State) (c q n : Nat) : State :=
  (s.dropAside (cpG c q)).updQueue c q (fun x => { x with lost := [], begun := x.begun.map (fun b => if b.n = n then { b with fresh := false } else b) })

/-- LAUNCH (R438). -/
def execLaunch (cp q : Nat) (s : State) : Host.Outcome State Fault Refusal :=
  match s.freshEntry cp q 1 with
  | none => notEnabled "LAUNCH"
  | some b =>
    match s.launchAt cp q b.n none b.e.addr with
    | .ask t => .next t
    | .unreadable => .next (s.stopQueue cp q 3 b.n false)
    | .refused t => .next (t.entryDone cp q b.n true false 0)
    | .accepted t => .next (t.begunCarried cp q b.n)

/-! ### Graphs (R445) -/

/-- A node of the table: none when a zero field is not zero or a successor is out of range. -/
def nodeOf (bs : List Byte) (n : Nat) : Option GNode :=
  let ns := field bs 9 1
  let succ := (List.range ns).map (fun k => field bs (12 + 2 * k) 2)
  if 6 < ns ∨ !zeroRange bs 10 2 ∨ !zeroRange bs (12 + 2 * ns) (12 - 2 * ns) ∨ !zeroRange bs 0x18 8 ∨ succ.any (fun k => decide (n ≤ k)) then none
  else some { lrec := BitVec.ofNat 64 (field bs 0 8), npred := field bs 8 1, succ := succ, left := field bs 8 1, launched := false, done := false }

/-- Times node k is listed as a successor. -/
def predCount (ns : List GNode) (k : Nat) : Nat := (ns.map (fun x => (x.succ.filter (· == k)).length)).foldl (· + ·) 0

/-- The nodes reached by removing, `fuel` times, nodes whose predecessors have all been removed. -/
def removable (ns : List GNode) : Nat → List Nat → List Nat
  | 0, r => r
  | n + 1, r => removable ns n ((List.range ns.length).filter (fun k =>
      (List.range ns.length).all (fun i => r.contains i || !((ns.getD i ⟨0, 0, [], 0, false, false⟩).succ.contains k))))

/-- Is the table legal: NPRED as listed, no cycle? -/
def graphOk (ns : List GNode) : Bool :=
  (List.range ns.length).all (fun k => (ns.getD k ⟨0, 0, [], 0, false, false⟩).npred == predCount ns k) &&
  (removable ns ns.length []).length == ns.length

/-- Change the graph of an entry. -/
def State.updGraph (s : State) (c q n : Nat) (f : Graph → Graph) : State :=
  s.updCp c (fun x => { x with graphs := x.graphs.map (fun g => if g.q = q ∧ g.n = n then f g else g) })

/-- Change a node. -/
def Graph.updNode (g : Graph) (k : Nat) (f : GNode → GNode) : Graph := { g with nodes := g.nodes.modify k f }

/-- The graph of an entry. -/
def State.graphOf (s : State) (c q n : Nat) : Option Graph := (s.cp c).graphs.find? (fun g => g.q == q && g.n == n)

/-- A graph whose launched nodes have all completed completes its entry (R445). -/
def State.graphDone (s : State) (c q n : Nat) : State :=
  match s.graphOf c q n with
  | none => s
  | some g =>
    if g.nodes.all (fun x => !x.launched || x.done) && !g.nodes.any (fun x => !x.launched && x.left == 0) then
      (s.updCp c (fun x => { x with graphs := x.graphs.filter (fun h => !(h.q == q && h.n == n)) })).entryDone c q n false false g.wit
    else s

/-- Launch node k; a refused node has ended with STATE 4, and one whose record cannot be read stops the queue (R294, R445). After a stop with ERR 4
no node is launched any more (R436). The answer says whether the node waits for a coherent line. -/
def State.launchNode (s : State) (c q n k : Nat) : State × Bool :=
  match s.graphOf c q n with
  | none => (s, false)
  | some g =>
    match g.nodes[k]? with
    | none => (s, false)
    | some x =>
      if x.launched ∨ x.left ≠ 0 then (s, false)
      else
        let cut := (s.queue c q).st == .stopped && (s.queue c q).err == 4
        let ended (t : State) : State :=
          (t.updGraph c q n (fun g => g.updNode k (fun y => { y with launched := true, done := true }))).updQueue c q (fun y => { y with failed := true, lost := [] })
        if cut then (ended s, false)
        else match s.launchAt c q n (some k) x.lrec with
        | .ask t => (t, true)
        | .unreadable => (ended (s.stopQueue c q 3 (n + 65536) false), false)
        | .refused t => (ended t, false)
        | .accepted t => ((t.updGraph c q n (fun g => g.updNode k (fun y => { y with launched := true }))).updQueue c q (fun y => { y with lost := [] }), false)

/-- Launch, in ascending index, every node whose counter is 0: none goes before a lower one that waits for a coherent line. -/
def State.launchNodes (s : State) (c q n : Nat) : State :=
  match s.graphOf c q n with
  | none => s
  | some g => (((List.range g.nodes.length).foldl (fun (t : State × Bool) k => if t.2 then t else t.1.launchNode c q n k) (s, false)).1).graphDone c q n

/-- GRAPH (R445): the table is checked and copied while there is room; then the nodes without predecessors launch. A graph with a node
still to be launched goes on. -/
def execGraph (cp q : Nat) (s : State) : Host.Outcome State Fault Refusal :=
  match s.freshEntry cp q 2 with
  | some b =>
    let vf := (s.queue cp q).vf
    let n := b.e.value.toNat
    (if n = 0 ∨ 1024 < n ∨ b.e.addr.toNat % 32 ≠ 0 then .next (s.stopQueue cp q 3 b.n false)
     else
       match s.notLost cp q (s.devAsks (cpG cp q) vf b.e.addr (32 * n)) with
       | some fa => .next (s.devAsk (cpG cp q) vf fa)
       | none =>
         match s.devBytes (cpG cp q) vf b.e.addr (32 * n) with
         | none => .next (s.stopQueue cp q 3 b.n false)
         | some bs =>
           match allSome ((List.range n).map (fun k => nodeOf ((bs.drop (32 * k)).take 32) n)) with
           | none => .next (s.stopQueue cp q 3 b.n false)
           | some ns =>
             if !graphOk ns then .next (s.stopQueue cp q 3 b.n false)
             else if 4096 < ((s.cp cp).graphs.map (fun g => g.nodes.length)).foldl (· + ·) n then notEnabled "GRAPH"
             else .next ((((s.devTouch (cpG cp q) vf b.e.addr (32 * n)).begunCarried cp q b.n).updCp cp (fun x => { x with graphs := x.graphs ++ [{ q := q, n := b.n, nodes := ns, wit := 0 }] })).launchNodes
                    cp q b.n))
  | none =>
    match (s.cp cp).graphs.find? (fun g => g.q == q && g.nodes.any (fun x => !x.launched && x.left == 0)) with
    | some g => .next (s.launchNodes cp q g.n)
    | none => notEnabled "GRAPH"

/-! ### Completion of a launch (R250, R294) -/

/-- Has every block of the launch retired? -/
def State.launchOver (s : State) (l : Nat) (x : Launch) : Bool :=
  x.live && (s.backs l == []) &&
  (if x.cut then s.blocks.all (fun e => e.2.launch != some l || e.2.done) else x.retired == x.nblocks)

/-- A launch whose completion word has committed, or could not be stored, ends: STATUS takes STATE 2 or 3, and its entry completes (R438). -/
def State.launchEnd (s : State) (l : Nat) (x : Launch) : State :=
  let bad := x.failed || x.cut
  let w : W32 := (x.status &&& 0xFFFFFFF8) ||| (if bad then 3 else 2)
  let s1 := (s.devStore (cpG x.cp x.q) x.vf (x.record + 0x1C) (leBytes 4 w.toNat) 0).getD s
  match x.node with
  | some _ => s1.updLaunch l (fun y => { y with status := w })
  | none => ({ s1 with launches := Store.del s1.launches l }.capNow x.cp x.q).entryDone x.cp x.q x.n bad false x.wit

/-- LAUNCH_COMPLETE (R250, R294): the completion witness is stored, and once that store has committed STATUS takes STATE 2 or 3 and the entry
completes; the launch of a graph's node is left for GRAPH_NODE_COMPLETE. -/
def execLaunchComplete (l : Nat) (s : State) : Host.Outcome State Fault Refusal :=
  match Store.find s.launches l with
  | none => notEnabled "LAUNCH_COMPLETE"
  | some x =>
    let g := cpG x.cp x.q
    if !s.launchOver l x ∨ s.unitBusy g then notEnabled "LAUNCH_COMPLETE"
    else if x.sent then .next (s.launchEnd l x)
    else
      match s.notLost x.cp x.q ((s.devWaits x.vf x.compl).orElse (fun _ => s.devWaits x.vf (x.record + 0x1C))) with
      | some fa => .next (s.devAsk g x.vf fa)
      | none =>
        let st := s.devStore g x.vf x.compl (leBytes 8 x.wit.toNat) x.wit
        let y := { x with failed := x.failed || st.isNone, sent := true }
        let s1 := (st.getD s).updLaunch l (fun _ => y)
        .next (if s1.unitBusy g then s1 else s1.launchEnd l y)

/-- GRAPH_NODE_COMPLETE (R445): a node's launch has completed; after STATE 2 its successors' counters drop and those at 0 launch. -/
def execGraphNodeComplete (l : Nat) (s : State) : Host.Outcome State Fault Refusal :=
  match Store.find s.launches l with
  | none => notEnabled "GRAPH_NODE_COMPLETE"
  | some x =>
    match x.node with
    | none => notEnabled "GRAPH_NODE_COMPLETE"
    | some k =>
      if x.live then notEnabled "GRAPH_NODE_COMPLETE"
      else
        let ok := x.status.extractLsb' 0 3 == 2
        let s1 := { s with launches := Store.del s.launches l }.capNow x.cp x.q
        let s2 := s1.updGraph x.cp x.q x.n (fun g =>
          let succ := match g.nodes[k]? with | some y => y.succ | none => []
          let g1 := g.updNode k (fun y => { y with done := true })
          let g2 := if ok then succ.foldl (fun h i => h.updNode i (fun y => { y with left := y.left - 1 })) g1 else g1
          { g2 with wit := s.joinPlain x.slice (fwCore (x.cp / 4)) g.wit x.wit })
        let s3 := if ok then s2 else s2.updQueue x.cp x.q (fun y => { y with failed := true })
        .next (s3.launchNodes x.cp x.q x.n)

/-! ### Signals (R438) -/

/-- The wait slots of the command processor whose word a SIGNAL has written read it at once: in the steps that follow (R442). -/
def State.pollWord (s : State) (c : Nat) (t : Tr) : State :=
  let hit (q : Nat) : Bool := match (s.queue c q).begun.find? (fun b => b.isWait && !b.fresh) with
    | some b => (match s.walk (s.queue c q).vf b.e.addr with | .ok u => u.pa / 8 == t.pa / 8 && u.coh == t.coh | .error _ => false)
    | none => false
  { s with inbox := ((s.cp c).slots.filter (fun e => hit e.2)).map (fun e => Instr.waitSlotPoll c e.1) ++ s.inbox }

/-- SIGNAL (R438): one atomic write of the word at its home; the entry completes once it has committed. -/
def execSignal (cp q : Nat) (s : State) : Host.Outcome State Fault Refusal :=
  match s.freshEntry cp q 3 with
  | some b =>
    let x := s.queue cp q
    let a := b.e.addr
    let v := if b.e.wit then x.wits else b.e.value
    let sent (t : State) : State := if b.e.wit then t.updQueue cp q (fun y => { y with wits := 0 }) else t
    (match s.walk x.vf a with
     | .error e =>
       (match s.notLost cp q e.ask with
        | some fa => .next (s.devAsk (cpG cp q) x.vf fa)
        | none => .next (s.stopQueue cp q 3 b.n false))
     | .ok t =>
       let host := decide (hostBase ≤ t.pa) && !t.coh
       if a.toNat % 8 ≠ 0 ∨ !t.w ∨ (host ∧ s.tstate x.vf = 3) ∨ (b.e.sop ∧ (!t.r ∨ host)) then .next (s.stopQueue cp q 3 b.n false)
       else if !t.coh && b.e.sop && s.poisoned t.pa 8 then .next (s.stopQueue cp q 3 b.n false)
       else if b.e.sop ∨ s.devLater (cpG cp q) x.vf a t then
         .next ((sent ((s.walkReads x.vf a).begunCarried cp q b.n)).devPush (cpG cp q) x.vf (if b.e.sop then .atom .add true else .store) a t (leBytes 8 v.toNat) 0)
       else .next (((sent ((s.devStore (cpG cp q) x.vf a (leBytes 8 v.toNat) 0).getD s)).entryDone cp q b.n false false 0).pollWord cp t))
  | none =>
    match (s.queue cp q).begun.find? (fun b => !b.fresh && b.e.type == 3) with
    | some b =>
      if s.unitBusy (cpG cp q) then notEnabled "SIGNAL"
      else if (s.queue cp q).lost ≠ [] then .next (s.stopQueue cp q 3 b.n false)
      else
        let s1 := s.entryDone cp q b.n false false 0
        .next (match s.walk (s.queue cp q).vf b.e.addr with | .ok t => s1.pollWord cp t | .error _ => s1)
    | none => notEnabled "SIGNAL"

/-! ### Waits (R440–R443) -/

/-- What a read of a WAIT's word finds. -/
inductive Waited where
  | met
  | not
  | err (code : Byte)
  | ask (fa : Nat)

/-- Read the word of a WAIT and judge its condition (R440, R532). -/
def State.waitRead (s : State) (c q : Nat) (e : Entry) : Waited :=
  let vf := (s.queue c q).vf
  if e.addr.toNat % 8 ≠ 0 then .err 3
  else
    match s.notLost c q (s.devAsks (cpG c q) vf e.addr 8) with
    | some fa => .ask fa
    | none =>
      match s.devRead (cpG c q) vf e.addr 8 with
      | none => .err 3
      | some bs =>
        let w := leNat bs
        match e.cond with
        | 0 => if e.value.toNat ≤ w then .met else .not
        | 1 => if w = e.value.toNat then .met else .not
        | 2 => if w ≠ e.value.toNat then .met else .not
        | _ =>
          let x := BitVec.ofNat 64 w
          if wKind x = 0 then .not
          else match s.satAt vf (s.vf vf).slice (fwCore (c / 4)) x with
            | .yes => .met
            | .no => .not
            | _ => .err 5

/-- A WAIT that has not been met takes the lowest free wait slot, or joins the spilled waiters (R436, R442). -/
def State.takeSlot (s : State) (c q : Nat) : State :=
  match (List.range 64).find? (fun k => (Store.find (s.cp c).slots k).isNone) with
  | some k => (s.updCp c (fun x => { x with slots := Store.put x.slots k q })).updQueue c q (fun x =>
      { x with slot := some k, st := if x.st = .stopped then .stopped else .waiting })
  | none => (s.updCp c (fun x => { x with spill := x.spill ++ [q] })).updQueue c q (fun x => { x with st := if x.st = .stopped then .stopped else .spilled })

/-- One read of a WAIT: what follows from it. -/
def State.waitStep (s : State) (c q : Nat) (b : Begun) (stay : State → State) : State :=
  match s.waitRead c q b.e with
  | .met => (((s.devTouch (cpG c q) (s.queue c q).vf b.e.addr 8).leaveWait c q).entryDone c q b.n false true 0).dropAside (cpG c q)
  | .not => stay ((s.devTouch (cpG c q) (s.queue c q).vf b.e.addr 8).dropAside (cpG c q))
  | .err code => ((s.leaveWait c q).stopQueue c q code b.n false)
  | .ask fa => stay (s.devAsk (cpG c q) (s.queue c q).vf fa)

/-- WAIT (R440, R442): the word is read at once. -/
def execWait (cp q : Nat) (s : State) : Host.Outcome State Fault Refusal :=
  match s.freshEntry cp q 4 with
  | none => notEnabled "WAIT"
  | some b => .next (s.waitStep cp q b (fun t => (t.begunCarried cp q b.n).takeSlot cp q))

/-- The begun WAIT of a queue. -/
def State.waiting (s : State) (c q : Nat) : Option Begun := (s.queue c q).begun.find? (fun b => b.isWait && !b.fresh)

/-- WAIT_SLOT_POLL (R442): a slot reads its word. -/
def execWaitSlotPoll (cp slot : Nat) (s : State) : Host.Outcome State Fault Refusal :=
  match Store.find (s.cp cp).slots slot with
  | none => notEnabled "WAIT_SLOT_POLL"
  | some q => match s.waiting cp q with
    | none => notEnabled "WAIT_SLOT_POLL"
    | some b => .next (s.waitStep cp q b (fun t => t))

/-- SPILLED_WAIT_POLL (R442): the word of the next spilled waiter in list order is read; one that waits on goes to the end of the list. -/
def execSpilledWaitPoll (cp q : Nat) (s : State) : Host.Outcome State Fault Refusal :=
  if (s.cp cp).spill.head? ≠ some q then notEnabled "SPILLED_WAIT_POLL"
  else match s.waiting cp q with
    | none => notEnabled "SPILLED_WAIT_POLL"
    | some b =>
      let rests := match s.waitRead cp q b.e with | .ask _ => false | _ => true
      .next (s.waitStep cp q b (fun t => if rests then t.updCp cp (fun x => { x with spill := x.spill.filter (· != q) ++ [q] }) else t))

/-- HOLDT_EXPIRED (R436, R442): the slot is freed and the queue is Spilled. -/
def execHoldtExpired (cp q : Nat) (s : State) : Host.Outcome State Fault Refusal :=
  if (s.queue cp q).slot.isNone then notEnabled "HOLDT_EXPIRED"
  else .next (((s.leaveWait cp q).updCp cp (fun x => { x with spill := x.spill ++ [q] })).updQueue cp q
    (fun x => { x with st := if x.st = .stopped then .stopped else .spilled }))

/-! ### Copies (R446) -/

/-- The bulk engines of a slice: those of the clusters it owns, which stay with it while a cluster is lent (R4, R455, R462). -/
def State.sliceEngines (s : State) (i : Nat) : List Nat :=
  (clustersOf (s.slice i).clusters).flatMap (fun k => [k / 12 * 24 + 2 * (k % 12), k / 12 * 24 + 2 * (k % 12) + 1])

/-- The engine with the fewest accepted jobs, ties to the lower ENGINE number. -/
def State.leastBusy (s : State) : List Nat → Option Nat
  | [] => none
  | e :: es => some (es.foldl (fun b x => if s.engJobs x < s.engJobs b ∨ (s.engJobs x = s.engJobs b ∧ x < b) then x else b) e)

/-- Does the translation stand? -/
def JTr.isOk (t : JTr) : Bool := match t with | .ok _ => true | _ => false

/-- The coherent line it waits for. -/
def JTr.ask? (t : JTr) : Option Nat := match t with | .ask fa => some fa | _ => none

/-- COPY (R446): the descriptor is checked and its job is accepted by the slice's least busy bulk engine. -/
def execCopy (cp q : Nat) (s : State) : Host.Outcome State Fault Refusal :=
  match s.freshEntry cp q 5 with
  | none => notEnabled "COPY"
  | some b =>
    let vf := (s.queue cp q).vf
    let bad (code : Byte) : Host.Outcome State Fault Refusal := .next (s.stopQueue cp q code b.n false)
    let ask (fa : Nat) : Host.Outcome State Fault Refusal := .next (s.devAsk (cpG cp q) vf fa)
    if b.e.addr.toNat % 64 ≠ 0 then bad 3
    else match s.notLost cp q (s.devAsks (cpG cp q) vf b.e.addr 64) with
    | some fa => ask fa
    | none =>
      match s.leastBusy (s.sliceEngines (s.cpSlice cp)) with
      | none => notEnabled "COPY"
      | some eng =>
          match (s.devBytes (cpG cp q) vf b.e.addr 64).bind (fun bs => bulkJob bs true eng vf (s.cpSlice cp) (fwCore (eng / 24)) 0 0 0) with
          | none => bad 3
          | some j =>
            let ts := j.readRows.flatMap (s.pageTrs j false) ++ j.writeRows.flatMap (s.pageTrs j true)
            match s.notLost cp q (ts.findSome? JTr.ask?) with
            | some fa => ask fa
            | none =>
              if !ts.all JTr.isOk then bad 3
              else
                match s.satAt vf j.slice j.judge j.wit with
                | .future => bad 5
                | .stale => bad 5
                | _ =>
                  match s.freeSlot eng with
                  | none => notEnabled "COPY"
                  | some slot => .next (((s.devTouch (cpG cp q) vf b.e.addr 64).begunCarried cp q b.n).accept slot { j with cp := some (cp, q, b.n) }).1

end Sys2Proof.Machine
end

