-- ==== Sys2Proof/Machine/Jobs.lean ====
section
/-! DEFINITION. The steps of copy jobs: a bulk engine starts one (R447), one element is written (R331, R446), a job completes (R334) and
stops (R335, R446). -/

namespace Sys2Proof.Machine

/-- The VF that a log entry names: 0x1FF for firmware's jobs (R429). -/
def Job.logVf (j : Job) : Nat := if j.vf = fwVf then 0x1FF else j.vf

/-- The type 0x40 log entry of a bulk job that ended by a fault (R429): its data is the job's future. -/
def State.logJob (s : State) (j : Job) : State :=
  s.logErr (j.eng / 24) 0x40 (j.eng % 24) j.logVf 0 (mkFuture j.scope (s.genOf j.slice) (engCode j.eng) j.slot j.seq)

/-- Bulk jobs that run on an engine. -/
def State.engBusy (s : State) (eng : Nat) : Nat := (s.jobs.filter (fun e => e.2.eng == eng && e.2.started)).length

/-- May the engine start the job: a place is free, its edges are met (R447)? -/
def State.startable (s : State) (jk : Nat) (j : Job) : Bool := !j.started && !s.hasEdge jk j

/-- The witness of a job that has not started, judged (R532); that of a `cpyg` was when it issued (R214). -/
def State.jobSat (s : State) (x : Job) : Sat := if x.isBulk then s.satAt x.vf x.slice x.judge x.wit else .yes

/-- ENGINE_JOB_START (R446, R447): the oldest startable job of a bulk engine whose witness is satisfied starts; a rejected witness ends
the job, and stops the queue of a COPY entry. -/
def execEngineJobStart (j : Nat) (s : State) : Host.Outcome State Fault Refusal :=
  match Store.find s.jobs j with
  | none => notEnabled "ENGINE_JOB_START"
  | some x =>
    if !x.onBulk ∨ !s.startable j x ∨ 4 ≤ s.engBusy x.eng ∨
        s.jobs.any (fun e => decide (e.1 < j) && e.2.eng == x.eng && s.startable e.1 e.2 && s.jobSat e.2 != .no) then
      notEnabled "ENGINE_JOB_START"
    else
      match s.jobSat x with
      | .no => notEnabled "ENGINE_JOB_START"
      | .yes => .next (s.updJob j (fun y => { y with started := true, wit := s.standAt x.vf x.wit }))
      | _ =>
        match x.cp with
        | some (c, q, n) =>
          let key := slotKey (engCode x.eng) x.slot
          let s1 : State := { s with jobs := Store.del s.jobs j, slots := Store.upd s.slots key (fun y => { y with comp := some 0 }) }
          .next (s1.stopQueue c q 5 n false)
        | none => .next ((s.finishJob j).logJob x)

/-- COPY_ELEMENT_WRITE (R331, R446, R447): the next element of a streamer's job, or the next bytes of a bulk job of the VF whose turn it is, are
read and written; a coherent line that the step needs is asked for first (R519). -/
def execCopyElementWrite (j : Nat) (s : State) : Host.Outcome State Fault Refusal :=
  match Store.find s.jobs j with
  | none => notEnabled "COPY_ELEMENT_WRITE"
  | some x =>
    let k := x.piece x.next
    if !s.jobMoves j x then notEnabled "COPY_ELEMENT_WRITE"
    else
      match s.jobNeeds x x.next k with
      | some fa => .next (s.jobAsk j x fa)
      | none =>
        match s.jobSrc j x x.next k with
        | .lost => notEnabled "COPY_ELEMENT_WRITE"
        | .ask fa => .next (s.jobAsk j x fa)
        | .bytes bs =>
          let s0 := (if x.onBulk then s.engRefill x.eng else s).hbmRefillFor (s.jobHbm j x)
          if !s.jobReady j x ∨ (x.onBulk && !s0.engTurn x.eng x.vf) ∨ !s0.vfTurn (s.jobHbm j x) x.vf then notEnabled "COPY_ELEMENT_WRITE"
          else
            let s1 : State := if x.onBulk then { s0 with engCredit := Store.set 0 s0.engCredit (x.eng * 512 + x.vf) (s0.engCr x.eng x.vf - k * x.w) } else s0
            match s1.jobPut j x x.next k bs with
            | some t => .next ((t.dropAside (engG j)).eccMet (s.jobHbm j x))
            | none => notEnabled "COPY_ELEMENT_WRITE"

/-- COPY_JOB_COMPLETE (R334, R336, R438): every write that was sent has committed; the future is satisfied and a COPY entry completes. -/
def execCopyJobComplete (j : Nat) (s : State) : Host.Outcome State Fault Refusal :=
  match Store.find s.jobs j with
  | none => notEnabled "COPY_JOB_COMPLETE"
  | some x =>
    if x.stopped ∨ (x.next < x.total ∧ !x.ended) ∨ s.jobAsks j then notEnabled "COPY_JOB_COMPLETE"
    else
      let s1 := s.finishJob j
      .next (match x.cp with
        | some (c, q, n) => s1.entryDone c q n false false x.wits
        | none => s1)

/-- A block is marked failed, and its launch with it (R335): a launch whose blocks have all retired but that has not completed ends with STATE 3
too. -/
def State.failBlock (s : State) (b : Nat) : State :=
  match s.block b with
  | none => s
  | some x =>
    let s1 := s.updBlock b (fun y => { y with failed := true })
    match x.launch with
    | some l => s1.updLaunch l (fun y => { y with failed := true })
    | none => s1

/-- COPY_JOB_STOP (R335, R446): a page of the job no longer translates or permits: a streamer's job poisons what it has not written and marks
its block failed; a bulk engine's is logged, and its COPY entry fails. -/
def execCopyJobStop (j : Nat) (s : State) : Host.Outcome State Fault Refusal :=
  match Store.find s.jobs j with
  | none => notEnabled "COPY_JOB_STOP"
  | some x =>
    if !s.jobLost x ∨ (x.onBulk ∧ !x.started) ∨ s.hasEdge j x ∨ s.jobAsks j then notEnabled "COPY_JOB_STOP"
    else if x.isBulk then
      let s1 := (s.finishJob j).logJob x
      .next (match x.cp with
        | some (c, q, n) => s1.entryDone c q n true false x.wits
        | none => s1)
    else .next ((match x.blk with | some b => s.failBlock b | none => s).poisonRest x |>.finishJob j)

end Sys2Proof.Machine
end

