-- ==== Sys2Proof/Machine/Hbm.lean ====
section
/-! DEFINITION. HBM4E: refresh, activation tracking, alert back-off, errors and scrubbing (R417–R429). -/

namespace Sys2Proof.Machine

/-- Accesses queued at a bank: requests in flight whose sector L2 does not hold, what waits in the controller, and the next steps of jobs, streams
and matrix operations (R410, R417). -/
def State.queuedAt (s : State) (ch bank : Nat) : Nat :=
  let here (x : Option (Nat × Nat)) : Bool := match x with | some (c, a) => c == ch && bankOf a == bank | none => false
  (s.reqs.filter (fun e => here (s.atHbm e.2))).length + ((s.chan ch).late.filter (fun e => bankOf e.1 == bank)).length +
    (s.jobs.filter (fun e => here (s.jobHbm e.1 e.2))).length +
    (s.groups.flatMap (fun e => (List.range 4).filter (fun k => here (s.streamHbm e.1 k e.2)))).length +
    (s.cores.flatMap (fun c => c.2.mq.filter (fun e => here (s.matHbm c.1 e.1 e.2)))).length

/-- Does a core's clock run, so that the package counts time? -/
def State.clockRuns (s : State) : Bool := (List.range 196).any s.running

/-- Has the open row of a bank stood 1 µs without an access (R417)? While no clock runs, time passes uncounted (log 159). -/
def State.rowIdle (s : State) (ch bank : Nat) : Bool := decide (((s.chan ch).bank bank).last + 1600 ≤ s.time) || !s.clockRuns

/-- Is the bank busy: a queued access, or an open row accessed within the last 1 µs (R417)? -/
def State.bankInUse (s : State) (ch bank : Nat) : Bool :=
  decide (0 < s.queuedAt ch bank) || (((s.chan ch).bank bank).row.isSome && !s.rowIdle ch bank)

/-- The bank in bits 63:48 of a log entry's data. -/
def bankData (bank low : Nat) : W64 := BitVec.ofNat 64 (bank * 2 ^ 48 + low)

/-- A REFab counts as the refresh of every bank of a pseudo-channel: debt 0, and a due that has not been taken is repaid (R420, R424). -/
def Channel.repayAll (c : Channel) (b : Nat) : Channel :=
  (List.range 16).foldl (fun x k => x.updBank (b / 16 * 16 + k) (fun y => { y with debt := 0, due := false, row := none })) c

/-- A refresh due is taken (R420). -/
def State.takeDue (s : State) (ch b : Nat) : State :=
  let x := s.chan ch
  let k := x.bank b
  if !s.bankInUse ch b then s.updChan ch (fun c => c.updBank b (fun y => { y with busy := .refpb, due := false, row := none }))
  else if k.debt < 8 then
    s.updChan ch (fun c => { c.updBank b (fun y => { y with debt := y.debt + 1, due := false }) with postpone := c.postpone + 1 })
  else
    (s.updChan ch (fun c => { (c.repayAll b).updBank b (fun y => { y with busy := .refab false, due := false, row := none }) with refab := c.refab + 1 })).logErr
      (chDie ch) 0x22 (chUnit ch) 0x1FF 0 0

/-- Has the bank an alert that has not been answered? -/
def Channel.alertAt (c : Channel) (b : Nat) : Bool := (c.bank b).alert.isSome || c.alerts.any (fun e => e.1 == b)

/-- Does the REFab of an alert of this cycle repay a due of the bank (R424)? -/
def State.dueRepaid (s : State) (ch bank : Nat) : Bool :=
  let b := (s.chan ch).bank bank
  b.alertTime == some s.time && b.busy == .refab true

/-- REFRESH_DUE (R420, R424): one that falls during a refresh is taken when it ends, one of an alerted bank after the RFM, unless the alert's REFab
repays it. -/
def execRefreshDue (ch bank : Nat) (s : State) : Host.Outcome State Fault Refusal :=
  if 384 ≤ ch ∨ 32 ≤ bank then notEnabled "REFRESH_DUE"
  else
    let s1 := s.updChan ch (fun c => c.updBank bank (fun y => { y with dueTime := some s.time }))
    if s.dueRepaid ch bank then .next s1
    else if (s.chan ch).refreshing bank ∨ (s.chan ch).alertAt bank then
      .next (s1.updChan ch (fun c => c.updBank bank (fun y => { y with due := true })))
    else .next (s1.takeDue ch bank)

/-- REFPB_REPAY (R420): a bank that is not busy repays a postponed refresh. -/
def execRefpbRepay (ch bank : Nat) (s : State) : Host.Outcome State Fault Refusal :=
  let x := s.chan ch
  let b := x.bank bank
  if 384 ≤ ch ∨ 32 ≤ bank ∨ b.debt = 0 ∨ s.bankInUse ch bank ∨ x.refreshing bank ∨ x.alerted bank then notEnabled "REFPB_REPAY"
  else .next (s.updChan ch (fun c => c.updBank bank (fun y => { y with debt := y.debt - 1, busy := .refpb })))

/-- The VF that the tracker lists first: most activations of the most active row (R423). -/
def Bank.topVf (b : Bank) : Option Nat :=
  match b.track with
  | [] => none
  | e :: es =>
    let t := es.foldl (fun (m : TrackEntry) x => if m.count < x.count then x else m) e
    match t.vfs with
    | [] => none
    | v :: vs => some (vs.foldl (fun (m : Nat × Nat) x => if m.2 < x.2 then x else m) v).1

/-- A charge in bytes to a VF at a pseudo-channel (R418, R423, R469). -/
def State.chargeBytes (s : State) (ch bank vf n : Nat) : State :=
  (s.updChan ch (fun c => c.debit bank vf n)).meterAdd vf 2 n

/-- The alert of a bank that has stalled `ns` so far is answered (R422): by RFM, after a REFab when the bank's debt is 8. The alerts that wait
stall for as long. -/
def State.answerAlert (s : State) (ch bank ns : Nat) : State :=
  let full := ((s.chan ch).bank bank).debt == 8
  let d := if full then 510 else 160
  s.updChan ch (fun c =>
    let c1 := { c with alerts := c.alerts.map (fun (e : Nat × Nat) => if e.1 / 16 = bank / 16 then (e.1, e.2 + d) else e) }
    if full then { (c1.repayAll bank).updBank bank (fun y => { y with busy := .refab true, alert := some (ns + d), row := none }) with refab := c.refab + 1 }
    else { c1.updBank bank (fun y => { y with busy := .rfm, alert := some (ns + d), row := none }) with rfm := c.rfm + 1 })

/-- The next alert of a bank's pseudo-channel, in arrival order, is answered when its bank is free (R422, R424). -/
def State.nextAlert (s : State) (ch bank : Nat) : State :=
  match (s.chan ch).alerts.find? (fun e => e.1 / 16 == bank / 16) with
  | none => s
  | some e =>
    if (s.chan ch).refreshing e.1 ∨ (List.range 16).any (fun k => ((s.chan ch).bank (bank / 16 * 16 + k)).alert.isSome) then s
    else (s.updChan ch (fun c => { c with alerts := c.alerts.filter (fun x => x.1 != e.1) })).answerAlert ch e.1 e.2

/-- After a refresh the next alert is answered, and then the dues that fell during it are taken, bank by bank: after its RFM for a bank with an
alert (R420, R424). -/
def State.lateDues (s : State) (ch bank : Nat) (banks : List Nat) : State :=
  banks.foldl (fun t b => if ((t.chan ch).bank b).due && !(t.chan ch).refreshing b && !(t.chan ch).alertAt b then t.takeDue ch b else t)
    (s.nextAlert ch bank)

/-- The accesses that waited in the controller for a pseudo-channel's refresh or alert reach their banks, oldest first (R420, R422). -/
def State.lateAccesses (s : State) (ch bank : Nat) : State :=
  (s.chan ch).late.foldl (fun t e =>
    if bankOf e.1 / 16 = bank / 16 ∧ !t.bankWaits ch e.2.1 e.1 then
      t.updChan ch (fun c => { c.updBank (bankOf e.1) (fun b => b.access (rowOf e.1) e.2.1 t.time) with late := c.late.erase e })
    else t) s

/-- REFRESH_COMPLETE (R420, R422–R424): the accesses that waited proceed, an alert's RFM follows its REFab, the end of the RFM charges the
stall, and deferred dues are taken. -/
def execRefreshComplete (ch bank : Nat) (s : State) : Host.Outcome State Fault Refusal :=
  let b := (s.chan ch).bank bank
  let idle (t : State) : State := t.updChan ch (fun c => c.updBank bank (fun y => { y with busy := .idle }))
  let all := (List.range 16).map (fun k => bank / 16 * 16 + k)
  match b.busy with
  | .idle => notEnabled "REFRESH_COMPLETE"
  | .refpb => .next (((idle s).lateDues ch bank [bank]).lateAccesses ch bank)
  | .refab false => .next (((idle s).lateDues ch bank all).lateAccesses ch bank)
  | .refab true => .next (((s.updChan ch (fun c => { c.updBank bank (fun y => { y with busy := .rfm }) with rfm := c.rfm + 1 })).lateDues ch bank all).lateAccesses ch bank)
  | .rfm =>
    match b.alert with
    | none => .next (((idle s).lateDues ch bank [bank]).lateAccesses ch bank)
    | some ns =>
      let s1 := (idle s).updChan ch (fun c => c.updBank bank (fun y => { y with alert := none }))
      let n := ns * 48
      let s2 := match b.topVf with
        | some v => (s1.chargeBytes ch bank v n).logErr (chDie ch) 0x21 (chUnit ch) v 0 (bankData bank n)
        | none => s1.logErr (chDie ch) 0x21 (chUnit ch) 0x1FF 0 (bankData bank n)
      .next ((s2.lateDues ch bank all).lateAccesses ch bank)

/-- ROW_PRECHARGE (R417): a row that has stood 1 µs without an access. -/
def execRowPrecharge (ch bank : Nat) (s : State) : Host.Outcome State Fault Refusal :=
  if ((s.chan ch).bank bank).row.isNone ∨ !s.rowIdle ch bank then notEnabled "ROW_PRECHARGE"
  else .next (s.updChan ch (fun c => c.updBank bank (fun y => { y with row := none })))

/-- ACTIVATION_THRESHOLD (R421): RFM, the row's count is reset, the top VF of the row is throttled, logged, noticed and charged. -/
def execActivationThreshold (ch bank row : Nat) (s : State) : Host.Outcome State Fault Refusal :=
  let x := s.chan ch
  let b := x.bank bank
  match b.track.find? (fun e => e.row == row && decide (2048 ≤ e.count)) with
  | none => notEnabled "ACTIVATION_THRESHOLD"
  | some e =>
    if x.refreshing bank ∨ x.alerted bank then notEnabled "ACTIVATION_THRESHOLD"
    else
      let v := match e.vfs with
        | [] => 0
        | y :: ys => (ys.foldl (fun (m : Nat × Nat) z => if m.2 < z.2 then z else m) y).1
      let s1 := s.updChan ch (fun c =>
        { c.updBank bank (fun y => { y with busy := .rfm, row := none, throttled := if y.throttled.contains v then y.throttled else v :: y.throttled,
                                            track := y.track.map (fun t => if t.row = row then { t with count := 0 } else t) }) with
          rfm := c.rfm + 1, throttle := c.throttle + 1 })
      .next (((s1.chargeBytes ch bank v 7680).logErr (chDie ch) 0x20 (chUnit ch) v 0 (bankData bank row)).notice (chDie ch) 4 v ((s.cpOf v) % 4))

/-- THROTTLE_END (R421). -/
def execThrottleEnd (ch bank vf : Nat) (s : State) : Host.Outcome State Fault Refusal :=
  if !((s.chan ch).bank bank).throttled.contains vf then notEnabled "THROTTLE_END"
  else .next (s.updChan ch (fun c => c.updBank bank (fun y => { y with throttled := y.throttled.filter (· != vf), acted := Store.del y.acted vf })))

/-- TRACKER_WINDOW_END (R421): the counts of the 32 ms window end. -/
def execTrackerWindowEnd (ch bank : Nat) (s : State) : Host.Outcome State Fault Refusal :=
  if 384 ≤ ch ∨ 32 ≤ bank then notEnabled "TRACKER_WINDOW_END"
  else .next (s.updChan ch (fun c => c.updBank bank (fun y => { y with track := [] })))

/-- ALERT_BACK_OFF (R422–R424): the alert is answered at once, or waits for what runs on its bank and for the alerts before it; how long the
running refresh still takes is a free value of at most 510 ns. Of an alert and a due of one cycle the alert is taken first. -/
def execAlertBackOff (ch bank : Nat) (s : State) : Host.Outcome State Fault Refusal :=
  let x := s.chan ch
  if 384 ≤ ch ∨ 32 ≤ bank ∨ x.alertAt bank ∨ ((x.bank bank).dueTime = some s.time ∧ s.clockRuns) then notEnabled "ALERT_BACK_OFF"
  else
    let s1 := s.updChan ch (fun c => { c.updBank bank (fun y => { y with alertTime := some s.time }) with abo := c.abo + 1 })
    if x.refreshing bank ∨ x.alerted bank then
      .next { s1.updChan ch (fun c => { c with alerts := c.alerts ++ [(bank, Config.freeNat s.free % 511)] }) with free := s.free + 1 }
    else .next (s1.answerAlert ch bank 0)

/-! ### Errors and the scrubber (R425–R427) -/

/-- The physical address of a channel-local address, in the slice that holds the channel (R407). -/
def State.paOf (s : State) (ch a : Nat) : Option Nat :=
  s.slices.findSome? (fun e =>
    let cs := clustersOf e.2.clusters
    let n := 8 * cs.length
    if e.2.st = .free then none
    else (List.range cs.length).findSome? (fun j =>
      let c := cs.getD j 0
      if c / 12 = ch / 96 ∧ c % 12 = ch % 96 / 8 then some (e.2.apbase + (a / 256 * n + 8 * j + ch % 8) * 256 + a % 256) else none))

/-- An uncorrectable error in the sector at a channel-local address: it is counted, every word of it is poisoned (R426), and it is logged; in a tree
node it fails every line that the node covers, and is logged as that (R496). -/
def State.poisonSector (s : State) (ch a : Nat) (type : Byte) : State :=
  let a := a / 32 * 32
  let s0 := s.updChan ch (fun c => { c with ue := c.ue + 1, lastue := BitVec.ofNat 64 a })
  match s.paOf ch a with
  | none => s0.logErr (chDie ch) type (chUnit ch) 0x1FF a 0
  | some pa =>
    match s.treeNode pa with
    | some (level, line) => (s0.setPoison pa 32 true).macFailed line level
    | none => (s0.setPoison pa 32 true).logErr (chDie ch) type (chUnit ch) 0x1FF a 0

/-- Lines of a channel. -/
def chanLines : Nat := 24576 * 2048 * 32 / 128

/-- The scrubber moves on by `n` lines (R428). -/
def State.scrubOn (s : State) (ch n : Nat) : State :=
  s.updChan ch (fun c =>
    let p := c.scrubpos.toNat + n
    if chanLines ≤ p then { c with scrubpos := BitVec.ofNat 24 (p - chanLines), scrubpass := c.scrubpass + 1 } else { c with scrubpos := BitVec.ofNat 24 p })

/-- Is the line dirty in L2, so that the scrubber reads it there (R427)? -/
def State.l2Dirty (s : State) (ch a : Nat) : Bool :=
  match s.paOf ch a with
  | some pa => s.l2.any (fun e => e.1 / 512 == pa / 128 && e.2.dirty != 0)
  | none => false

/-- What a scrub read of the next line finds, and the row that it opens. Which of the line's sectors are uncorrectable, at least one, the event does
not say: a free choice (log 141). -/
def State.scrubFinds (s : State) (ch : Nat) (ecc : EccResult) : State :=
  let a := (s.chan ch).scrubpos.toNat * 128
  if s.l2Dirty ch a then s
  else
    let s1 := s.updChan ch (fun c => c.updBank (bankOf a) (fun b => { b with row := some (rowOf a), last := s.time }))
    match ecc with
    | .clean => s1
    | .corrected => s1.corrected ch a
    | .uncorrectable =>
      let m := Config.freeNat s.free % 15 + 1
      { ((List.range 4).filter (fun k => m.testBit k)).foldl (fun t k => t.poisonSector ch (a + 32 * k) 0x13) s1 with free := s.free + 1 }

/-- May the scrubber read its next line: does it lie in L2, or does its bank not wait (R420, R422, R427)? -/
def State.scrubMay (s : State) (ch : Nat) : Bool :=
  let a := (s.chan ch).scrubpos.toNat * 128
  s.l2Dirty ch a || !s.bankWaits ch fwVf a

/-- Lines that the scrubber of a channel has read, and those that it was due to have read (R427, R428). -/
def Channel.scrubbed (c : Channel) : Nat := c.scrubpass.toNat * chanLines + c.scrubpos.toNat
def State.scrubDue (s : State) (ch : Nat) : Nat := s.time * chanLines / ((s.chan ch).period.toNat * 3600 * 1600000000)

/-- A scrub read of a line: the scrubber moves on, and on schedule again it is no longer escalated (R427). -/
def State.scrubLine (s : State) (ch : Nat) (ecc : EccResult) : State :=
  let s1 := (s.scrubFinds ch ecc).scrubOn ch 1
  s1.updChan ch (fun c => if s1.scrubDue ch ≤ c.scrubbed then { c with escal := none } else c)

/-- HBM_SCRUB_READ (R427): while both pseudo-channels hold fewer than IDLEQ requests. -/
def execHbmScrubRead (ch : Nat) (ecc : EccResult) (s : State) : Host.Outcome State Fault Refusal :=
  let x := s.chan ch
  let q (p : Nat) : Nat := ((List.range 16).map (fun k => s.queuedAt ch (16 * p + k))).foldl (· + ·) 0
  if 384 ≤ ch ∨ x.idleq.toNat ≤ q 0 ∨ x.idleq.toNat ≤ q 1 ∨ !s.scrubMay ch then notEnabled "HBM_SCRUB_READ"
  else .next (s.scrubLine ch ecc)

/-- Does the escalator make the scrubber read: it is behind its due position by more than 1/16 of a pass, or has been and is still behind, and 4 µs have
passed since the last such read (R427)? -/
def State.escalates (s : State) (ch : Nat) : Bool :=
  let c := s.chan ch
  match c.escal with
  | none => decide (c.scrubbed + chanLines / 16 < s.scrubDue ch)
  | some t => decide (t + 6400 ≤ s.time) && decide (c.scrubbed < s.scrubDue ch)

/-- SCRUB_ESCALATE (R427): a read of 256 bytes whatever the occupancy; what the event finds it finds in both lines. -/
def execScrubEscalate (ch : Nat) (ecc : EccResult) (s : State) : Host.Outcome State Fault Refusal :=
  if 384 ≤ ch ∨ !s.escalates ch ∨ !s.scrubMay ch then notEnabled "SCRUB_ESCALATE"
  else
    let s1 := s.updChan ch (fun c => { c with escal := some s.time })
    .next ((s1.scrubLine ch ecc).scrubLine ch ecc)

/-- HBM_UNCORRECTABLE (R426): a read of a sector from HBM4E finds an uncorrectable error. -/
def execHbmUncorrectable (ch addr : Nat) (s : State) : Host.Outcome State Fault Refusal :=
  let held : Bool := match s.paOf ch addr with
    | some pa => s.l2.any (fun e => e.1 / 512 == pa / 128 && e.2.valid.getLsbD (pa / 32 % 4))
    | none => false
  if 384 ≤ ch ∨ chanLines * 128 ≤ addr ∨ held then notEnabled "HBM_UNCORRECTABLE" else .next (s.poisonSector ch addr 0x11)

/-- L2_UNCORRECTABLE (R426, R429): a dirty sector is poisoned; a clean one is read again from HBM4E. -/
def execL2Uncorrectable (line sector : Nat) (s : State) : Host.Outcome State Fault Refusal :=
  match (s.l2.find? (fun e => e.1 / 512 == line && e.2.valid.getLsbD sector)).map Prod.snd with
  | none => notEnabled "L2_UNCORRECTABLE"
  | some l =>
    if 4 ≤ sector then notEnabled "L2_UNCORRECTABLE"
    else
      let pa := line * 128 + 32 * sector
      let home := s.homeOf pa
      let s1 := if l.dirty.getLsbD sector then s.setPoison pa 32 true else ((s.meterAdd l.vf 2 32).hbmTouch l.vf pa 32).macCheck pa
      .next (s1.logErr (home / 48) 0x14 (home % 48) l.vf pa 0)

end Sys2Proof.Machine
end

