-- ==== Sys2Proof/Machine/Service.lean ====
section
/-! DEFINITION. Services of `sys` (R280, R531), the host manager's commands that invalidate translations (R448), mailboxes, notices and
register writes (R13, R441, R444, R448, R449, R473), and the metering copies (R469, R470). -/

namespace Sys2Proof.Machine

/-! ### sys -/

/-- The request of a group for a service that has not been answered. -/
def State.sysWants (s : State) (g service : Nat) : Option (Group × SysReq) :=
  match s.group g with
  | none => none
  | some gr => match gr.sysq with
    | some r => if r.service.toNat = service ∧ r.reply.isNone then some (gr, r) else none
    | none => none

/-- Give a request its reply. -/
def State.sysAnswer (s : State) (g : Nat) (gr : Group) (r : SysReq) (v : W64) : State := s.putGroup g { gr with sysq := some { r with reply := some v } }

/-- SYS_NOP (R280). -/
def execSysNop (g : Nat) (s : State) : Host.Outcome State Fault Refusal :=
  match s.sysWants g 0 with
  | none => notEnabled "SYS_NOP"
  | some (gr, r) => .next (s.sysAnswer g gr r 0)

/-- Parsnip's estimate of the energy that the VFs have used goes on by free amounts: the manual gives no power model (R469, log 161). -/
def State.estimateEnergy (s : State) : State :=
  (s.vfs.filter (fun e => e.2.enabled)).foldl (fun t e => { t with free := t.free + 1 }.meterAdd e.1 6 (Config.energy t.free)) s

/-- METER (R280, R469): the live counter; all ones for code 7. -/
def execMeter (g : Nat) (s : State) : Host.Outcome State Fault Refusal :=
  match s.sysWants g 1 with
  | none => notEnabled "METER"
  | some (gr, r) =>
    let k := r.arg.toNat % 8
    let s1 := if k = 6 then s.estimateEnergy else s
    .next (s1.sysAnswer g gr r (if k = 7 then 0xFFFFFFFFFFFFFFFF else Store.get 0 (s1.vf (s.jobVf gr)).meter k))

/-- NOTIFY (R531): post a value to the VF's ring in host memory, then PROD presenting that write's witness. The ring cannot be reached where its
address is none of the host's, before the link is up (R474), and while the VF's TSTATE is ERROR (R486). -/
def State.notify (s : State) (vf : Nat) (arg : W64) : State × W64 :=
  let v := s.vf vf
  if v.nring < hostBase ∨ v.nring % 8 ≠ 0 ∨ 2 ^ 50 < v.nring + 8 * v.nsize + 16 ∨ (s.die 0).bstate ≠ 3 ∨ s.tstate vf = 3 then (s, 0xFFFFFFFFFFFFFFFF)
  else
    let prodAt := v.nring + 8 * v.nsize
    let cons := BitVec.ofNat 64 (s.nat (prodAt + 8) 8)
    if v.prod - cons = BitVec.ofNat 64 v.nsize then (s, 1)
    else
      let a := s.commitGlobal v.slice vf (v.nring + 8 * (v.prod.toNat % v.nsize)) (leBytes 8 arg.toNat) 0 0 1
      let p := v.prod + 1
      let b := a.1.commitGlobal v.slice vf prodAt (leBytes 8 p.toNat) a.2 0 1
      (b.1.updVf vf (fun x => { x with prod := p }), 0)

/-- NOTIFY (R280, R531): its writes stall with the stores of the VF's slice (R239). -/
def execNotify (g : Nat) (s : State) : Host.Outcome State Fault Refusal :=
  match s.sysWants g 3 with
  | none => notEnabled "NOTIFY"
  | some (gr, r) =>
    if s.stalled (s.vf (s.jobVf gr)).slice then notEnabled "NOTIFY" else
    let a := s.notify (s.jobVf gr) r.arg
    .next (a.1.sysAnswer g gr r a.2)

/-- TLBINV (R280, R282): the VF's stage-1 entries for a page, or all of them, once no access through them is in flight. -/
def execTlbinv (g : Nat) (s : State) : Host.Outcome State Fault Refusal :=
  match s.sysWants g 4 with
  | none => notEnabled "TLBINV"
  | some (gr, r) =>
    let k := if r.arg.getLsbD 0 then 1 else 0
    let vf := s.jobVf gr
    if s.tlbBusy k vf r.arg then notEnabled "TLBINV" else .next ((s.tlbDrop k vf r.arg).sysAnswer g gr r 0)

/-- Is it a service of R280? -/
def isService (n : Nat) : Bool := n == 0 || n == 1 || n == 3 || n == 4

/-- SYS_REPLY (R280): the reply is written to the destination and the group goes on; any other service number replies all ones. -/
def execSysReply (g : Nat) (s : State) : Host.Outcome State Fault Refusal :=
  match s.group g with
  | none => notEnabled "SYS_REPLY"
  | some gr =>
    match gr.sysq with
    | none => notEnabled "SYS_REPLY"
    | some r =>
      match (match r.reply with | some v => some v | none => if isService r.service.toNat then none else some 0xFFFFFFFFFFFFFFFF) with
      | none => notEnabled "SYS_REPLY"
      | some v => .next (s.putGroup g { gr.writeDst r.dst 2 [0] (fun _ => v.zeroExtend 128) with sysq := none })

/-! ### Commands to firmware (R448) -/

/-- STAGE2_INVALIDATE_PAGE: `tlbi` kind 2 for the command's VF and page. -/
def execStage2InvalidatePage (die : Nat) (cmd : W64) (s : State) : Host.Outcome State Fault Refusal :=
  let vf := (cmd.extractLsb' 38 9).toNat
  let a : W64 := (cmd.extractLsb' 0 38).zeroExtend 64 <<< 12
  match s.takeCmd die 0x01 cmd with
  | none => notEnabled "STAGE2_INVALIDATE_PAGE"
  | some t => if s.tlbBusy 2 vf a then notEnabled "STAGE2_INVALIDATE_PAGE" else .next ((t.tlbDrop 2 vf a).postReply die (cmdReply 0x01 true))

/-- STAGE2_INVALIDATE_VF: `tlbi` kind 3. -/
def execStage2InvalidateVf (die : Nat) (cmd : W64) (s : State) : Host.Outcome State Fault Refusal :=
  let vf := (cmd.extractLsb' 0 9).toNat
  match s.takeCmd die 0x02 cmd with
  | none => notEnabled "STAGE2_INVALIDATE_VF"
  | some t => if s.tlbBusy 3 vf 0 then notEnabled "STAGE2_INVALIDATE_VF" else .next ((t.tlbDrop 3 vf 0).postReply die (cmdReply 0x02 true))

/-! ### Mailboxes, notices and timers -/

/-- Write bytes of a table of the device under the counter of a slice, or the package counter; where there is no memory nothing is written
(R530), and a write of part of a poisoned word does not commit (R426). -/
def State.tblWriteFor (s : State) (sl pa : Nat) (bs : List Byte) : State :=
  if s.backed pa && !s.partPoison pa bs.length then (s.commitBy (fun t => t.writeBytes pa bs) sl fwVf pa bs.length 0 0 1).1 else s

/-- Write bytes of a table of the device under the package counter. -/
def State.tblWrite (s : State) (pa : Nat) (bs : List Byte) : State := s.tblWriteFor 16 pa bs

/-- 32 fresh random bytes (R503). -/
def State.randBytes (s : State) : List Byte := leBytes 32 (Config.freeWord s.free).toNat

/-- The message that announces a TDISP request of n bytes (R488). -/
def tdispWord (session : Byte) (n : Nat) : W64 := BitVec.ofNat 64 (0x38 * 2 ^ 56 + session.toNat * 2 ^ 40 + n)

/-- A TDISP request reaches firmware (R488): the key store writes the request into its buffer and fresh bytes into RAND, and then posts the message to mailbox 0 of
die 0. -/
def State.tdispPost (s : State) (word : W64) (msg : List Byte) : State :=
  let t := (s.tblWrite (s.sltbase + 0x12400) msg).tblWrite (s.sltbase + 0x14700) s.randBytes
  (({ t with free := t.free + 1 } : State).mboxIn 0 0 word).1

/-- The text of a request that a host sends: free bytes, of the number that its message gives. -/
def freeBytes (k n : Nat) : List Byte := (List.range n).map (fun i => ((Config.freeWord (k + i / 64)).extractLsb' (8 * (i % 64)) 8))

/-- MAILBOX_INBOUND (R448, R488): a peer's message arrives; one of opcode 0x38 with the request that it announces, to which firmware will reply. -/
def execMailboxInbound (die mbx : Nat) (msg : W64) (s : State) : Host.Outcome State Fault Refusal :=
  let tdisp : Bool := die == 0 && mbx == 0 && msg.extractLsb' 56 8 == 0x38
  let n := (msg.extractLsb' 0 13).toNat
  if 4 ≤ die ∨ 10 < mbx ∨ 16 ≤ (s.mbox die mbx).inb.length ∨ (tdisp ∧ (s.sec.doeBusy ∨ s.stalled 16 ∨ n = 0 ∨ 4096 < n)) then notEnabled "MAILBOX_INBOUND"
  else if tdisp then
    let t := ({ s with free := s.free + 64 } : State).tdispPost msg (freeBytes s.free n)
    .next { t with sec := { t.sec with doeBusy := true } }
  else .next (s.mboxIn die mbx msg).1

/-- MBXIN (R473): dropped when the ring is full. -/
def execMbxin (die : Nat) (msg : W64) (s : State) : Host.Outcome State Fault Refusal :=
  if 4 ≤ die then notEnabled "MBXIN" else .next (s.mboxIn die 0 msg).1

/-- An answer that the device gives on its host link. -/
def State.answer (s : State) (bs : List Byte) : State := { s with sec := { s.sec with answers := s.sec.answers ++ [bs] } }

/-- Take the oldest outbound message of a mailbox, 0 when there is none. -/
def State.outTake (s : State) (d i : Nat) : State × W64 :=
  match (s.mbox d i).outb with
  | [] => (s, 0)
  | m :: rest => (s.updMbox d i (fun x => { x with outb := rest }), m)

/-- MBXOUT (R473): the host reads and removes the oldest outbound message. -/
def execMbxout (die : Nat) (s : State) : Host.Outcome State Fault Refusal :=
  if 4 ≤ die then notEnabled "MBXOUT"
  else
    let r := s.outTake die 0
    .next (r.1.answer (leBytes 8 r.2.toNat))

/-- INPOP (R449): firmware removes the oldest inbound message. -/
def execInpop (die mbx : Nat) (s : State) : Host.Outcome State Fault Refusal :=
  if 4 ≤ die ∨ 64 ≤ mbx then notEnabled "INPOP" else .next (s.inpop die mbx).1

/-- OUTBOUND_RING_TAKE (R448): the slice controller, a command processor or the board management controller takes a message. -/
def execOutboundRingTake (die mbx : Nat) (s : State) : Host.Outcome State Fault Refusal :=
  if 4 ≤ die ∨ !((decide (1 ≤ mbx) && decide (mbx ≤ 5)) || mbx == 10) ∨ (s.mbox die mbx).outb = [] then notEnabled "OUTBOUND_RING_TAKE"
  else .next (s.outTake die mbx).1

/-- NOTICE_POST (R444): a held notice is posted once the ring has room. -/
def execNoticePost (die : Nat) (s : State) : Host.Outcome State Fault Refusal :=
  match (s.die die).notices with
  | [] => notEnabled "NOTICE_POST"
  | m :: rest =>
    if 4 ≤ die ∨ 16 ≤ (s.mbox die 0).outb.length then notEnabled "NOTICE_POST"
    else .next ((s.updDie die (fun x => { x with notices := rest })).mboxPost die 0 m).1

/-- HALT_TIMER_EXPIRED (R281): event bit 3. -/
def execHaltTimerExpired (g : Nat) (s : State) : Host.Outcome State Fault Refusal :=
  match s.group g with
  | none => notEnabled "HALT_TIMER_EXPIRED"
  | some gr =>
    match gr.haltq with
    | none => notEnabled "HALT_TIMER_EXPIRED"
    | some h => if h.us = 0 then notEnabled "HALT_TIMER_EXPIRED" else .next (s.putGroup g ({ gr with events := gr.events ||| 8 } : Group).haltReturn)

/-! ### Register writes (R13, R441) -/

/-- A write by the host manager to a command processor's HM register. -/
def Cp.hmWrite (c : Cp) (o : Nat) (v : W64) : Cp :=
  match o with
  | 0x00 => { c with qtbase := v &&& ~~~(31 : W64) }
  | 0x08 => { c with vtbase := v &&& ~~~(15 : W64) }
  | 0x10 => { c with nq := min 512 (v.toNat % 1024) }
  | 0x18 => { c with holdt := if v.toNat % 1024 = 0 then 1 else min 1000 (v.toNat % 1024) }
  | _ => c

/-- REGISTER_WRITE (R13): a write to a register of the I/O space changes the fields whose access code admits the writer. -/
def execRegisterWrite (who : Writer) (reg value : W64) (s : State) : Host.Outcome State Fault Refusal :=
  match ioWin reg with
  | none => notEnabled "REGISTER_WRITE"
  | some w =>
    match who with
    | .firmware => (match s.ioWrite reg value 8 with
      | .noReg => notEnabled "REGISTER_WRITE"
      | .readOnly => .next s
      | .done t => .next t)
    | .hostManager => (match w with
      | .cp c o => .next (s.updCp c (fun x => x.hmWrite o value))
      | _ => .next s)
    | .other => .next s

/-! ### Metering (R469, R470) -/

/-- The eight values of the host-visible copy: for a protected VF they follow the schedule: count 8 keeps the core-cycles
of its time slices. -/
def State.meterView (s : State) (i : Nat) : List W64 :=
  let v := s.vf i
  let sl := s.slice v.slice
  let m (k : Nat) : W64 := Store.get 0 v.meter k
  if sl.prot then
    [8 * m 8, m 8, 0, 0, 0, m 5, 0, 0]
  else (List.range 7).map m ++ [0]

/-- METER_COPY (R469): Parsnip writes the copy of every VF's counters. -/
def execMeterCopy (s : State) : Host.Outcome State Fault Refusal :=
  if s.stalled 16 then notEnabled "METER_COPY"
  else .next ((List.range 384).foldl (fun t v =>
    t.tblWrite (t.sltbase + 0x6400 + 64 * v) ((t.meterView v).flatMap (fun w => leBytes 8 w.toNat))) s.estimateEnergy)

end Sys2Proof.Machine
end

