-- ==== Sys2Proof/Machine/Tables.lean ====
section
/-! DEFINITION. The slice controller's commands (R456, R457): the command block, and the commands that take effect at once (R454, R455,
R480, R493, R497). -/

namespace Sys2Proof.Machine

/-! ### The command block -/

/-- A command block as read (R456). -/
structure CmdBlk where
  sa   : Nat
  sb   : Nat
  cl   : Nat
  flg  : Byte
  tsl  : Nat
  cpn  : Nat
  core : Nat
  mask : W64
  apb  : Nat
  buf  : Nat
  blen : Nat
  vfs  : Nat
  vf   : Nat
  deriving DecidableEq, Repr

/-- Read the command's block: none when a bit of the command or of the block that must be zero is not, or nothing stands there. -/
def State.cmdBlock (s : State) (cmd : W64) : Option CmdBlk :=
  let a := (cmd.extractLsb' 6 44).toNat * 64
  let bs := s.bytes a 64
  if cmd.extractLsb' 0 6 = 0 ∧ cmd.extractLsb' 50 6 = 0 ∧ s.backed a ∧ zeroRange bs 0x2E 18 then
    some { sa := field bs 0 1, sb := field bs 1 1, cl := field bs 2 1, flg := BitVec.ofNat 8 (field bs 3 1), tsl := field bs 4 2, cpn := field bs 6 1,
           core := field bs 7 1, mask := BitVec.ofNat 64 (field bs 8 8), apb := field bs 0x10 8, buf := field bs 0x18 8, blen := field bs 0x20 8,
           vfs := field bs 0x28 4, vf := field bs 0x2C 2 }
  else none

/-- PROT, BOOST, RACE and ON of FLG. -/
def CmdBlk.prot (b : CmdBlk) : Bool := b.flg.getLsbD 0
def CmdBlk.boost (b : CmdBlk) : Bool := b.flg.getLsbD 1
def CmdBlk.race (b : CmdBlk) : BitVec 2 := b.flg.extractLsb' 2 2
def CmdBlk.on (b : CmdBlk) : Bool := b.flg.getLsbD 4
/-- TSLICE: 0 gives 20. -/
def CmdBlk.tslice (b : CmdBlk) : Nat := if b.tsl = 0 then 20 else b.tsl
/-- The clusters of MASK. -/
def CmdBlk.clusters (b : CmdBlk) : BitVec 48 := b.mask.extractLsb' 0 48
/-- MASK names clusters only, and at least one. -/
def CmdBlk.maskOk (b : CmdBlk) : Bool := b.mask.extractLsb' 48 16 == 0 && b.clusters != 0
/-- FLG and TSL lie in range. -/
def CmdBlk.flagsOk (b : CmdBlk) : Bool := b.race != 3 && decide (b.tsl ≤ 255)

/-- Post the reply: the opcode, the reason in bits 15:8, and bit 0 set on a refusal (R456). -/
def State.cmdAnswer (s : State) (die op reason : Nat) : State :=
  s.postReply die (BitVec.ofNat 64 (op * 2 ^ 56 + reason * 256 + (if reason = 0 then 0 else 1)))

/-- Is a stamp space being renewed under which the slice controller writes (R239)? -/
def State.anyStall (s : State) : Bool := s.pkgRenewing || s.slices.any (fun e => e.2.renewing)

/-- Take a command when none is in progress, read its block, and carry it out or refuse it with a reason, which is 1 where it writes slice rows and nothing is
behind them (R530); one that is done `now` is answered at once. The layout generation counts the acceptance of a command of R456 before its effects (R480). -/
def State.sliceCmd (s : State) (name : String) (op : Nat) (cmd : W64) (now : Bool) (check : State → CmdBlk → Nat)
    (act : State → CmdBlk → Nat → State) : Host.Outcome State Fault Refusal :=
  if s.anyStall || (s.cmd.isSome && op != 0x26) then notEnabled name
  else
    match (List.range 4).findSome? (fun d => (s.takeCmd d op cmd).map (fun t => (d, t))) with
    | none => notEnabled name
    | some (d, s1) =>
      match s1.cmdBlock cmd with
      | none => .next (s1.cmdAnswer d op 1)
      | some b =>
        let r := if op ∈ [0x22, 0x25, 0x26, 0x27, 0x28, 0x29, 0x2A, 0x2B, 0x2C, 0x2D] ∧ s1.backed s1.sltbase = false then 1 else check s1 b
        if r ≠ 0 then .next (s1.cmdAnswer d op r)
        else
          let s3 := act (if op ≤ 0x2D then s1.bumpLayout else s1) b d
          .next (if now then s3.cmdAnswer d op 0 else s3)

/-! ### Slices -/

/-- Is the slice Running? -/
def State.isRunning (s : State) (i : Nat) : Bool := (s.slice i).st == .running

/-- VFs enabled in a slice. -/
def State.enabledIn (s : State) (i : Nat) : List Nat := (s.vfs.filter (fun e => e.2.enabled && e.2.slice == i)).map Prod.fst

/-- The VF.LOCALs in use in a slice. -/
def State.locals (s : State) (i : Nat) : List Nat := (s.enabledIn i).map (fun v => (s.vf v).local_)

/-- Clusters owned by slices other than those named. -/
def State.ownedBut (s : State) (skip : List Nat) : BitVec 48 :=
  s.slices.foldl (fun m e => if skip.contains e.1 ∨ e.2.st = .free then m else m ||| e.2.clusters) 0

/-- Does an aperture of n clusters at `apb` lie below 2^49 and overlap none but those of the slices named (R407, R456)? -/
def State.apFree (s : State) (apb n : Nat) (skip : List Nat) : Bool :=
  let hi := apb + 12 * 2 ^ 30 * n
  decide (hi ≤ hostBase) &&
  s.slices.all (fun e => skip.contains e.1 || e.2.st == .free || decide (hi ≤ e.2.apbase) || decide (e.2.apbase + e.2.apLen ≤ apb))

/-- Is a command processor in use, or has its die four slices already (R455)? -/
def State.cpTaken (s : State) (cpn : Nat) : Bool :=
  s.slices.any (fun e => e.2.st != .free && e.2.cpn.toNat == cpn) ||
  decide (4 ≤ (s.slices.filter (fun e => e.2.st != .free && e.2.cpn.toNat / 4 == cpn / 4)).length)

/-- Write bytes of the interface status page (R503). -/
def State.putStatus (s : State) : State :=
  let bar := ((Store.get 0 s.sec.cfg 5).toNat % 2 ^ 32 / 16 * 16) + (Store.get 0 s.sec.cfg 6).toNat % 2 ^ 32 * 2 ^ 32
  s.tblWrite (s.sltbase + 0x14400) (leBytes 8 s.sec.layoutgen.toNat ++ leBytes 8 bar ++ leBytes 4 (s.sec.pfrid % 65536))

/-- Write every slice row and the interface status page. -/
def State.putTables (s : State) : State := ((List.range 16).foldl State.putRow s).putStatus

/-- The counters and MACs of the lines of a range of device memory, and of the nodes that stand there, start afresh (R495). -/
def State.freshLines (s : State) (a n : Nat) : State :=
  let out (k : Nat) : Bool := !(decide (a ≤ 128 * k) && decide (128 * k < a + n))
  { s with lineCtr := s.lineCtr.filter (fun c => out c.1), nodeCtr := s.nodeCtr.filter (fun c => out c.1), macs := s.macs.filter (fun c => out c.1) }

/-- Zero a range of device memory, which reads as never written (R494): its bytes, poison, counters, MACs and failed nodes. -/
def State.zeroMem (s : State) (a n : Nat) : State :=
  { s.freshLines a n with
    mem := s.mem.filter (fun c => !(decide (a ≤ c.1) && decide (c.1 < a + n))),
    poison := s.poison.filter (fun c => !(decide (a ≤ 4 * c.1) && decide (4 * c.1 < a + n))),
    badNodes := s.badNodes.filter (fun c => !(decide (a ≤ 128 * c.1) && decide (128 * c.1 < a + n))) }

/-- Write back the dirty sectors of the L2 lines that a condition names, and invalidate the lines (R409, R497). -/
def State.flushL2 (s : State) (p : Nat → L2Line → Bool) : State :=
  ((s.l2.filter (fun e => p (e.1 / 512) e.2)).map Prod.fst).foldl State.l2Evict s

/-- No L1 keeps a line of a range of device memory. -/
def State.l1Clear (s : State) (a n : Nat) : State :=
  { s with l1 := s.l1.filter (fun l => l.coh || !(decide (a ≤ 128 * l.line) && decide (128 * l.line < a + n))) }

/-- Initialise a data region: its slot and root are zeroed and every line reads as zero (R497), also in an L1 (R482). -/
def State.initRegion (s : State) (key : Nat) : State :=
  let ap := (s.slice (key / 2 ^ 32)).apbase
  let s0 := match Store.find s.regions key with
    | some r => s.zeroMem (ap + r.tree * 2 ^ 21 + 0x22280 * r.slot) 0x22280
    | none => s
  let s1 := (s0.zeroMem (ap + key % 2 ^ 32 * 2 ^ 21) (2 ^ 21)).l1Clear (ap + key % 2 ^ 32 * 2 ^ 21) (2 ^ 21)
  { s1 with regions := Store.upd s1.regions key (fun r => { r with root := [0, 0, 0] }) }

/-- The L1 sectors that are tagged with a VF's key go with the key: they were encrypted under it (R202, R491). -/
def State.dropKey (s : State) (vf : Nat) : State := { s with l1 := s.l1.filter (fun l => l.vf != vf) }

/-- A VF's key is replaced: every data region that it owns is initialised (R482, R484); what L2 and the L1s hold of the VF goes first. -/
def State.initRegionsOf (s : State) (vf : Nat) : State :=
  (s.regions.filter (fun e => e.2.kind == 1 && e.2.vf == vf)).foldl (fun t e => t.initRegion e.1) (s.flushL2 (fun _ l => l.vf == vf) |>.dropKey vf)

/-- A VF's TDI takes a state: the row is written, and in ERROR its queues stop with ERR 4 (R436, R484, R486). -/
def State.setTstate (s : State) (vf : Nat) (v : Byte) : State :=
  let s1 := s.tblWrite (s.sltbase + 0xC400 + 64 * vf) [v]
  if v = 3 then
    let c := s1.cpOf vf
    ((s1.cp c).queues.filter (fun e => e.2.vf == vf && e.2.st != .stopped)).foldl (fun t e => t.stopQueue c e.1 4 e.2.rdptr false) s1
  else s1

/-- To ERROR, from CONFIG_LOCKED and RUN (R484). -/
def State.toError (s : State) (vf : Nat) : State := if s.tstate vf = 1 ∨ s.tstate vf = 2 then s.setTstate vf 3 else s

/-! ### TABLE, CREATE, DESTROY -/

/-- The rows of the interface table as reset leaves them: STREAM 0xFF, all else 0 (R489). They are written with the area that TABLE names, or, where that has no
memory yet, once the first slice exists (R530). -/
def State.resetRows (s : State) : State :=
  (List.range 384).foldl (fun t v => t.tblWrite (t.sltbase + 0xC400 + 64 * v) ([0, 0xFF] ++ List.replicate 62 0)) s

/-- TABLE. -/
def execTable (cmd : W64) (s : State) : Host.Outcome State Fault Refusal :=
  s.sliceCmd "TABLE" 0x20 cmd true (fun t _ => if t.slices.all (fun e => e.2.st == .free) then 0 else 2)
    (fun t b _ => ({ t with sltbase := b.apb } : State).putTables.resetRows)

/-- The reason for which a CREATE is refused, 0 for none. -/
def createCheck (t : State) (b : CmdBlk) : Nat :=
  let n := (clustersOf b.clusters).length
  if 16 ≤ b.sa ∨ 16 ≤ b.cpn ∨ !b.maskOk ∨ !b.flagsOk then 1
  else if (t.slice b.sa).st ≠ .free then 2
  else if (b.clusters &&& t.ownedBut []) ≠ 0 ∨ b.apb % (16 * 2 ^ 30) ≠ 0 ∨ !t.apFree b.apb n [] ∨ t.cpTaken b.cpn then 3
  else if !t.backed t.sltbase && !(decide (b.apb ≤ t.sltbase) && decide (t.sltbase < b.apb + 12 * 2 ^ 30 * n)) then 1
  else 0

/-- The counters of a slice number start afresh. -/
def State.freshCounters (s : State) (i : Nat) : State :=
  { s with ctr := s.ctr.filter (fun e => e.1 / 1024 != i), pub := s.pub.filter (fun e => e.1 / 1024 != i),
           heard := s.heard.filter (fun e => e.1 % 32768 / 1024 != i), ring := s.ring.filter (fun m => m.sl != i) }

/-- Clusters by slice number, lent ones included: owned ones, then borrowed ones (R455). -/
def Slice.allClusters (sl : Slice) : List Nat := clustersOf sl.clusters ++ clustersOf sl.borrowed

/-- The core of a slice index. -/
def Slice.coreOf (sl : Slice) (i : Nat) : Nat := coreAt (sl.allClusters.getD (i / 4) 0) (i % 4)

/-- Does the slice hold a cluster now: it owns it and has not lent it, or borrows it? -/
def Slice.has (sl : Slice) (cl : Nat) : Bool := sl.clusters.getLsbD cl && !sl.lent.getLsbD cl || sl.borrowed.getLsbD cl

/-- The cores that a slice holds are online as its OFFLINE bits say (R385). -/
def State.syncOnline (s : State) (i : Nat) : State :=
  let sl := s.slice i
  (List.range (4 * sl.allClusters.length)).foldl (fun t k =>
    if sl.has (sl.allClusters.getD (k / 4) 0) then t.updCore (sl.coreOf k) (fun x => { x with online := !sl.offline.getLsbD k }) else t) s

/-- CREATE: SA is Running with GEN 0. -/
def execCreate (cmd : W64) (s : State) : Host.Outcome State Fault Refusal :=
  s.sliceCmd "CREATE" 0x21 cmd true createCheck (fun t b _ =>
    let sl : Slice := { st := .running, clusters := b.clusters, apbase := b.apb, cpn := BitVec.ofNat 4 b.cpn, prot := b.prot, boost := b.boost,
                        race := b.race, tslice := b.tslice, migKey := (t.slice b.sa).migKey, key := some (Config.deriveKey t.free (512 + b.sa)) }
    (((({ t with free := t.free + 1 } : State).freshCounters b.sa).updSlice b.sa (fun _ => sl)).syncOnline b.sa).putTables |> fun u => if t.backed t.sltbase then u else u.resetRows)

/-- A command processor whose slice is gone: no queue runs; its registers stand. -/
def Cp.cleared (x : Cp) : Cp := { qtbase := x.qtbase, vtbase := x.vtbase, nq := x.nq, holdt := x.holdt }

/-- Write VSTATE into the row of a VF (R454). -/
def State.putVstate (s : State) (sl vf : Nat) (v : Byte) : State := s.tblWriteFor sl (s.vfRowAt vf + 0x1E) [v]

/-- Everything of a slice that runs or waits goes with it. -/
def State.dropSlice (s : State) (i : Nat) : State :=
  let bl := (s.blocks.filter (fun e => e.2.slice == i)).map Prod.fst
  let mine (b : Nat) : Bool := bl.contains b
  let gs := (s.groups.filter (fun e => mine e.2.blk)).map Prod.fst
  { s with
    blocks := s.blocks.filter (fun e => !mine e.1), groups := s.groups.filter (fun e => !mine e.2.blk),
    launches := s.launches.filter (fun e => e.2.slice != i), reqs := s.reqs.filter (fun e => e.2.slice != i),
    jobs := s.jobs.filter (fun e => e.2.slice != i), tiles := s.tiles.filter (fun e => !mine e.2.blk), bars := s.bars.filter (fun e => !mine e.2.blk),
    gangs := s.gangs.filter (fun l => !mine l.blk), l1 := s.l1.filter (fun l => l.slice != i), issueQ := s.issueQ.filter (fun x => !gs.contains x.g),
    fab := { s.fab with lines := s.fab.lines.filter (fun l => l.slice != i) } }

/-- A core after its pool, operand memory, barrier slots and Gourd have been zeroed; its error counters stand. -/
def Core.zeroed (c : Core) : Core :=
  { online := c.online, halted := c.halted, partw := c.partw, cycle := c.cycle, nextAge := c.nextAge, mqNext := c.mqNext, orphan := c.orphan,
    sramce := c.sramce, sramue := c.sramue, scrubpass := c.scrubpass, scrubpos := c.scrubpos }

/-- The cores of a list of clusters. -/
def coresOf (cs : List Nat) : List Nat := cs.flatMap (fun k => (List.range 4).map (coreAt k))

/-- Zero cores and invalidate their TLBs and their cluster's (R400, R462). -/
def State.zeroCores (s : State) (cs : List Nat) : State :=
  let s1 := cs.foldl (fun t c => t.updCore c Core.zeroed) s
  { s1 with l1 := s1.l1.filter (fun l => !cs.contains l.core),
            tlb := s1.tlb.filter (fun e => !(cs.contains e.tlb || cs.any (fun c => clusterTlb c == e.tlb))) }

/-- DESTROY: SA is Free, and its pools, Gourd and aperture are zeroed. -/
def execDestroy (cmd : W64) (s : State) : Host.Outcome State Fault Refusal :=
  s.sliceCmd "DESTROY" 0x22 cmd true
    (fun t b =>
      let sl := t.slice b.sa
      if 16 ≤ b.sa then 1
      else if sl.st = .exported ∨ (sl.st = .running ∧ t.enabledIn b.sa = [] ∧ sl.lent = 0 ∧ sl.borrowed = 0) then 0 else 2)
    (fun t b _ =>
      let sl := t.slice b.sa
      let t0 := (t.enabledIn b.sa).foldl (fun u v => u.putVstate b.sa v 0) t
      let t1 := (((t0.dropSlice b.sa).zeroCores (coresOf (clustersOf sl.clusters))).zeroMem sl.apbase sl.apLen).freshCounters b.sa
      let t2 := { t1 with regions := t1.regions.filter (fun e => e.1 / 2 ^ 32 != b.sa), l2 := t1.l2.filter (fun e => e.2.slice != b.sa),
                          vfs := t1.vfs.map (fun (e : Nat × Vf) => if e.2.slice = b.sa then (e.1, { e.2 with enabled := false, key := none }) else e) }
      let t3 := (coresOf (clustersOf sl.clusters)).foldl (fun u c => u.updCore c (fun k => { k with online := true, halted := false })) t2
      ((t3.updCp sl.cpn.toNat Cp.cleared).updSlice b.sa (fun _ => { tslice := 0, migKey := sl.migKey })).putRow b.sa)

/-! ### VFON, VFOFF -/

/-- What the device takes of a VF row (R454). -/
def State.takeVfRow (s : State) (vf : Nat) (v : Vf) : Vf :=
  let bs := s.bytes (s.vfRowAt vf) 64
  { v with s2root := field bs 0 8, shbase := BitVec.ofNat 64 (field bs 8 8), rlog := field bs 0x10 8, rlogn := field bs 0x18 4 }

/-- Lines that have been written: their counters run, or L2 holds bytes of them to write back (R494). -/
def State.writtenLines (s : State) : List Nat := s.lineCtr.map Prod.fst ++ (s.l2.filter (fun e => e.2.dirty != 0)).map (fun e => e.1 / 512)

/-- The key under which a device address is encrypted. -/
def State.keyAt (s : State) (pa : Nat) : Option (BitVec 512) := (s.cipherVf pa).bind (fun v => (s.vf v).key)

/-- `t` follows `s` by a change of keys or of owner entries: every written sector keeps its ciphertext, and what is held of it follows (R491–R493). -/
def State.recipher (s t : State) : State :=
  (s.writtenLines.flatMap (fun l => (List.range 4).map (4 * l + ·))).foldl (fun u sec =>
    if s.keyAt (32 * sec) = t.keyAt (32 * sec) then u
    else
      let x := t.dec (t.cipherVf (32 * sec)) sec (s.enc (s.cipherVf (32 * sec)) sec (BitVec.ofNat 256 (s.nat (32 * sec) 32)))
      { u with mem := Memory.writeList u.mem (32 * sec) (leBytes 32 x.toNat) }) t

/-- VFON: the VF is enabled, a key is installed, and PROD is written 0 (R491, R531). -/
def execVfon (cmd : W64) (s : State) : Host.Outcome State Fault Refusal :=
  s.sliceCmd "VFON" 0x23 cmd true
    (fun t b =>
      let bs := t.bytes (t.vfRowAt b.vf) 64
      if 384 ≤ b.vf ∨ !t.backed (t.vfRowAt b.vf) ∨ 24 ≤ field bs 0x1D 1 then 1
      else if 16 ≤ field bs 0x1C 1 ∨ !t.isRunning (field bs 0x1C 1) ∨ (t.vf b.vf).enabled ∨ (t.locals (field bs 0x1C 1)).contains (field bs 0x1D 1) then 2
      else if 24 ≤ (t.enabledIn (field bs 0x1C 1)).length then 3
      else 0)
    (fun t b _ =>
      let bs := t.bytes (t.vfRowAt b.vf) 64
      let i := field bs 0x1C 1
      let first := (t.enabledIn i).isEmpty
      let v : Vf := { t.takeVfRow b.vf (t.vf b.vf) with
        enabled := true, slice := i, local_ := field bs 0x1D 1, s1root := Config.freeNat t.free, key := some (Config.deriveKey t.free b.vf), prod := 0 }
      let t1 := t.recipher ({ t with free := t.free + 1 }.updVf b.vf (fun _ => v))
      let t2 : State := match t1.vrow (t1.slice i).cpn.toNat b.vf with
        | some r => (t1.updVf b.vf (fun x => { x with weight := r.weight, nring := r.nring, nsize := r.nsize })).tblWriteFor i (r.nring + 8 * r.nsize) (leBytes 8 0)
        | none => t1
      let t3 := if first then t2.updSlice i (fun x => { x with turnVf := v.local_ }) else t2
      t3.putVstate i b.vf 1)

/-- VFOFF: every queue of the VF is Stopped; VSTATE 0, the key is destroyed, so that nothing written under it passes its check any more (R494), and a bound VF
goes to ERROR (R484). -/
def execVfoff (cmd : W64) (s : State) : Host.Outcome State Fault Refusal :=
  s.sliceCmd "VFOFF" 0x24 cmd true
    (fun t b =>
      if 384 ≤ b.vf ∨ !t.backed (t.vfRowAt b.vf) then 1
      else if !(t.vf b.vf).enabled ∨ (t.cp (t.cpOf b.vf)).queues.any (fun e => e.2.vf == b.vf && e.2.st != .stopped) then 2
      else 0)
    (fun t b _ =>
      let t0 := ((t.toError b.vf).flushL2 (fun _ l => l.vf == b.vf)).dropKey b.vf
      let t1 := t0.recipher (t0.updVf b.vf (fun x => { x with enabled := false, key := none }))
      t1.putVstate (t.vf b.vf).slice b.vf 0)

/-! ### CORE, FLAGS, REGION -/

/-- CORE: a core goes online, so that members that refused a block are offered it again (R395), or goes offline and its blocks are pre-empted whole (R398). -/
def execCore (cmd : W64) (s : State) : Host.Outcome State Fault Refusal :=
  s.sliceCmd "CORE" 0x2C cmd true
    (fun t b =>
      if 16 ≤ b.sa ∨ 192 ≤ b.core then 1
      else if !t.isRunning b.sa then 2
      else if 4 * (t.slice b.sa).allClusters.length ≤ b.core then 1
      else 0)
    (fun t b _ =>
      let c := (t.slice b.sa).coreOf b.core
      let here := (t.slice b.sa).has ((t.slice b.sa).allClusters.getD (b.core / 4) 0)
      let bit : BitVec 192 := 1 <<< b.core
      let t1 := (t.updSlice b.sa (fun x => { x with offline := if b.on then x.offline &&& ~~~bit else x.offline ||| bit })).syncOnline b.sa
      (if !here then t1 else if b.on then t1.gainRoom [c] else t1.preemptBlocks (fun n => match t1.block n with | some x => x.on c | none => false)).putRow b.sa)

/-- FLAGS: BOOST, RACE and TSLICE. One that sets BOOST ends the limit of BOOST_LIMIT: when firmware ends it the manual does not say (R459, log 162). -/
def execFlags (cmd : W64) (s : State) : Host.Outcome State Fault Refusal :=
  s.sliceCmd "FLAGS" 0x2D cmd true
    (fun t b =>
      if 16 ≤ b.sa ∨ !b.flagsOk then 1
      else if !t.isRunning b.sa then 2
      else if b.prot != (t.slice b.sa).prot then 4
      else 0)
    (fun t b _ => ({ t with capped := t.capped && !b.boost }.updSlice b.sa (fun x => { x with boost := b.boost, race := b.race, tslice := b.tslice })).putRow b.sa)

/-- The owner entry of a region in memory (R493). -/
def State.ownerAt (s : State) (slice reg : Nat) : Nat := s.sltbase + 0x1000000 + slice * 0x240000 + 8 * reg

/-- An owner entry read as a region. -/
def ownerOf (e : Nat) : Region :=
  { kind := BitVec.ofNat 2 (e / 2 ^ 10), vf := e % 512, tree := e / 2 ^ 16 % 2 ^ 19, slot := e / 2 ^ 12 % 16, root := [0, 0, 0] }

/-- The reason for which a REGION is refused. -/
def regionCheck (t : State) (b : CmdBlk) : Nat :=
  let sl := t.slice b.sa
  let reg := b.apb / 2 ^ 21
  if 16 ≤ b.sa then 1
  else if sl.st ≠ .running then 2
  else if b.apb % 2 ^ 21 ≠ 0 ∨ sl.apLen ≤ b.apb ∨ !t.backed (t.ownerAt b.sa reg) then 1
  else
    let e := t.nat (t.ownerAt b.sa reg) 8
    let r := ownerOf e
    if e / 2 ^ 35 ≠ 0 ∨ e / 2 ^ 9 % 2 ≠ 0 then 1
    else if r.kind ≠ 1 then 0
    else if 13 < r.slot then 1
    else
      match Store.find t.regions (b.sa * 2 ^ 32 + r.tree) with
      | none => 2
      | some x =>
        if x.kind ≠ 2 ∨ x.vf ≠ r.vf then 2
        else if t.regions.any (fun y => y.1 / 2 ^ 32 == b.sa && y.1 % 2 ^ 32 != reg && y.2.kind == 1 && y.2.tree == r.tree && y.2.slot == r.slot) then 3
        else 0

/-- REGION: the region's L2 lines are written back and invalidated, the entry is taken up, and a data region is initialised (R497). -/
def execRegion (cmd : W64) (s : State) : Host.Outcome State Fault Refusal :=
  s.sliceCmd "REGION" 0x30 cmd true regionCheck (fun t b _ =>
    let reg := b.apb / 2 ^ 21
    let key := b.sa * 2 ^ 32 + reg
    let a := (t.slice b.sa).apbase + b.apb
    let t1 := t.flushL2 (fun k _ => decide (a ≤ 128 * k) && decide (128 * k < a + 2 ^ 21))
    let r := ownerOf (t1.nat (t1.ownerAt b.sa reg) 8)
    if r.kind = 0 then t1.recipher { t1 with regions := Store.del t1.regions key }
    else
      let t2 := t1.recipher { t1 with regions := Store.put t1.regions key r }
      if r.kind = 1 then t2.initRegion key else t2)

end Sys2Proof.Machine
end

