-- ==== Sys2Proof/Machine/Reshape.lean ====
section
/-! DEFINITION. Halting and the shadow store (R460, R461), lending and recall (R462, R463), quiescing and reshaping (R464–R467, R499), time
slices and clocks (R458, R459). -/

namespace Sys2Proof.Machine

/-! ### Halting and the Gourd (R460, R461) -/

/-- Halt cores: placement stops, and every group on them stops issuing and rests in its image. -/
def State.halt (s : State) (cs : List Nat) : State :=
  let s1 := cs.foldl (fun t c => t.updCore c (fun k => { k with halted := true })) s
  (s1.groups.filter (fun e => cs.contains e.2.core && !e.2.priv && (e.2.st == .active || e.2.st == .pending))).foldl
    (fun t e => match t.group e.1 with | some gr => t.preempt e.1 gr | none => t) s1

/-- Rename the slots of a block that leaves its cores, or that comes back to them. -/
def State.rekeySlots (s : State) (bid : Nat) (f : Nat → Nat) : State :=
  { s with
    bars := (s.bars.filter (fun e => e.2.blk == bid)).foldl (fun st e => Store.put st (f e.1) e.2) (s.bars.filter (fun e => e.2.blk != bid)),
    tiles := (s.tiles.filter (fun e => e.2.blk == bid)).foldl (fun st e => Store.put st (f e.1) e.2) (s.tiles.filter (fun e => e.2.blk != bid)) }

/-- Move the queued matrix operations of a block from a core's queue to another name's. -/
def State.moveOps (s : State) (bid a b : Nat) : State :=
  let ops := (s.core a).mq.filter (fun e => e.2.blk == bid)
  if ops = [] then s
  else (s.updCore a (fun c => { c with mq := c.mq.filter (fun e => e.2.blk != bid) })).updCore b
    (fun c => { c with mq := ops.foldl (fun m e => Store.put m e.1 e.2) c.mq })

/-- A block's pool image leaves its cores (R461): its shares, slots and queued operations go with it. -/
def State.awayBlock (s : State) (bid : Nat) : State :=
  match s.block bid with
  | none => s
  | some b =>
    let s1 := s.rekeySlots bid (fun k => k % 262144 + 262144 * (1 + bid))
    let s2 := b.shares.foldl (fun t sh => t.moveOps bid sh.core (awayCore bid sh.core)) s1
    s2.updBlock bid (fun x => { x with placed := false, shares := x.shares.map (fun sh => { sh with core := awayCore bid sh.core }) })

/-- A block's pool image comes back to the same cores (R458, R460). -/
def State.returnBlock (s : State) (bid : Nat) : State :=
  match s.block bid with
  | none => s
  | some b =>
    let s1 := s.rekeySlots bid (fun k => k % 262144)
    let s2 := b.shares.foldl (fun t sh => (t.moveOps bid sh.core (sh.core % 4096)).updCore (sh.core % 4096) (fun c => { c with partw := b.partw })) s1
    let s3 := if b.kept ∧ !b.done then b.shares.foldl (fun t sh => t.addTenant b.vf (sh.core % 4096)) s2 else s2
    let s4 := s3.updBlock bid (fun x =>
      { x with placed := x.kept, swapped := false, shares := x.shares.map (fun sh => { sh with core := sh.core % 4096 }) })
    if b.kept then
      { s4 with groups := s4.groups.map (fun e => if e.2.blk = bid ∧ e.2.st = .preempted then (e.1, { e.2 with st := .pending }) else e) }
    else s4

/-- Blocks with a share on one of the cores that have not ended. -/
def State.blocksOn (s : State) (cs : List Nat) : List Nat :=
  (s.blocks.filter (fun e => !e.2.done && e.2.shares.any (fun sh => cs.contains sh.core))).map Prod.fst

/-- The VFs of blocks. -/
def State.vfsOf (s : State) (bl : List Nat) : List Nat := (bl.filterMap (fun b => (s.block b).map Block.vf)).dedup

/-- Exchange the pools of halted cores with the Gourd: each VF whose context takes part counts one (R461, R469). -/
def State.exchange (s : State) (cs : List Nat) : State :=
  let bl := s.blocksOn cs
  let s1 := (s.vfsOf bl).foldl (fun t v => t.meterAdd v 5 1) s
  let s2 := bl.foldl (fun t b => (t.awayBlock b).updBlock b (fun x => { x with inGourd := true })) s1
  cs.foldl (fun t c => t.updCore c (fun k => { k with gourdBusy := bl.any (fun b => match s.block b with | some x => x.on c | none => false) })) s2

/-- Are the core's image slots in use? -/
def State.gourdFree (s : State) (cs : List Nat) : Bool := cs.all (fun c => !(s.core c).gourdBusy)

/-- The bytes of a block's pool image: registers, scratchpad and accumulators of its shares, and its tile slots (R461). -/
def State.poolBytes (s : State) (bid : Nat) (b : Block) : Nat :=
  ((List.range b.shares.length).map (fun i => 1024 * (b.need i).getD 1 0 + b.scratch + 131072 * b.accu)).sum +
    16384 * (s.tiles.filter (fun e => e.2.blk == bid)).length

/-- The channels of a slice's owned clusters (R407). -/
def Slice.channels (sl : Slice) : List Nat := (clustersOf sl.clusters).flatMap (fun c => (List.range 8).map (fun j => c / 12 * 96 + 8 * (c % 12) + j))

/-- Bytes that cross the channels of the slice that owns an image are charged to its VF, evenly over the pseudo-channels (R418, R461, R469). -/
def State.chargeImage (s : State) (i vf n : Nat) : State :=
  let cs := (s.slice i).channels
  (cs.foldl (fun t c => t.updChan c (fun x => (x.debit 0 vf (n / (2 * cs.length))).debit 16 vf (n / (2 * cs.length)))) s).meterAdd vf 2 n

/-- GOURD_WRITE_OUT (R461, R463): the image has left the Gourd for the context region; its bytes are charged to its VF. -/
def execGourdWriteOut (b : Nat) (s : State) : Host.Outcome State Fault Refusal :=
  match s.block b with
  | none => notEnabled "GOURD_WRITE_OUT"
  | some x =>
    if !x.inGourd then notEnabled "GOURD_WRITE_OUT"
    else
      let s1 := ((s.updBlock b (fun y => { y with inGourd := false })).writeImages (fun _ gr => gr.blk == b)).chargeImage x.slice x.vf (s.poolBytes b x)
      .next (x.shares.foldl (fun t sh =>
        let c := sh.core % 4096
        if t.blocks.any (fun e => e.2.inGourd && e.2.shares.any (fun q => q.core % 4096 == c)) then t
        else t.updCore c (fun k => { k with gourdBusy := false })) s1)

/-! ### Offline bits when clusters are numbered again (R385, R455) -/

/-- The offline cores of a slice. -/
def Slice.offCores (sl : Slice) : List Nat :=
  ((List.range (4 * sl.allClusters.length)).filter (fun i => sl.offline.getLsbD i)).map sl.coreOf

/-- OFFLINE for the cores given. -/
def Slice.setOff (sl : Slice) (off : List Nat) : Slice :=
  let m : BitVec 192 := (List.range (4 * sl.allClusters.length)).foldl
    (fun (m : BitVec 192) i => if off.contains (sl.coreOf i) then m ||| ((1 : BitVec 192) <<< i) else m) 0
  { sl with offline := m }

/-- Change a slice's clusters, keeping which cores are offline. -/
def State.reassign (s : State) (i : Nat) (f : Slice → Slice) : State :=
  s.updSlice i (fun x => (f x).setOff x.offCores)

/-- The bit of a cluster. -/
def clBit (k : Nat) : BitVec 48 := 1 <<< k

/-! ### LEND (R462) -/

/-- A command in progress. -/
def CmdBlk.begun (b : CmdBlk) (cmd : W64) (op die : Nat) : SlCmd :=
  { cmd := cmd, op := BitVec.ofNat 8 op, sa := b.sa, sb := b.sb, mask := b.clusters, apb := b.apb, vfs := BitVec.ofNat 24 b.vfs, cpn := b.cpn,
    cl := b.cl, buf := b.buf, blen := b.blen, step := 0, die := die, exch := [] }

/-- LEND: the owner stops placing on CL and its blocks there are pre-empted. -/
def execLend (cmd : W64) (s : State) : Host.Outcome State Fault Refusal :=
  s.sliceCmd "LEND" 0x25 cmd false
    (fun t b =>
      if 16 ≤ b.sa ∨ 16 ≤ b.sb ∨ 48 ≤ b.cl then 1
      else if !t.isRunning b.sa ∨ !t.isRunning b.sb ∨ b.sa = b.sb ∨ !(t.slice b.sa).clusters.getLsbD b.cl then 2
      else if (t.slice b.sa).lent.getLsbD b.cl then 3
      else if (t.slice b.sa).prot ∨ (t.slice b.sb).prot then 4
      else 0)
    (fun t b d =>
      let t1 : State := { t with cmd := some (b.begun cmd 0x25 d) }
      let bl := t1.blocksOn (coresOf [b.cl])
      t1.preemptBlocks (fun n => bl.contains n))

/-- LEND ends: the cluster is zeroed and changes hands (R462 steps 3 and 4). -/
def State.lendDone (s : State) (c : SlCmd) : State :=
  let s1 := s.zeroCores (coresOf [c.cl])
  let s2 := (s1.reassign c.sb (fun x => { x with borrowed := x.borrowed ||| clBit c.cl })).updSlice c.sa (fun x => { x with lent := x.lent ||| clBit c.cl })
  ({ ((((s2.syncOnline c.sb).gainRoom (coresOf [c.cl])).putRow c.sa).putRow c.sb) with cmd := none }).cmdAnswer c.die 0x25 0

/-! ### RECALL (R463) -/

/-- The slice that has lent a cluster and the one that borrows it. -/
def State.lending (s : State) (cl : Nat) : Option (Nat × Nat) :=
  match s.slices.find? (fun e => e.2.lent.getLsbD cl), s.slices.find? (fun e => e.2.borrowed.getLsbD cl) with
  | some o, some b => some (o.1, b.1)
  | _, _ => none

/-- RECALL: it goes ahead of every waiting command and runs beside the one in progress (R457); of a cluster that a quiesce takes back already it
answers for that recall. -/
def execRecall (cmd : W64) (s : State) : Host.Outcome State Fault Refusal :=
  s.sliceCmd "RECALL" 0x26 cmd false
    (fun t b =>
      if 48 ≤ b.cl then 1
      else if (t.lending b.cl).isNone ∨ t.recalls.any (fun r => r.cluster == b.cl && r.cmd.isSome) then 2
      else 0)
    (fun t b d =>
      match t.lending b.cl with
      | none => t
      | some (o, br) =>
        if t.recalls.any (fun r => r.cluster == b.cl) then
          { t with recalls := t.recalls.map (fun r => if r.cluster = b.cl then { r with cmd := some cmd, die := d } else r) }
        else { t with recalls := t.recalls ++ [{ cluster := b.cl, owner := o, borrower := br, step := 1, cmd := some cmd, die := d }] })

/-- Streamer jobs of a cluster's cores. -/
def State.clusterJobs (s : State) (cl : Nat) : List (Nat × Job) := s.jobs.filter (fun e => decide (96 ≤ e.2.eng) && (coresOf [cl]).contains e.2.core)

/-- RECALL_JOB_DEADLINE (R463 step 2): jobs still running stop, queued ones are removed, and their blocks are marked failed. -/
def execRecallJobDeadline (cluster : Nat) (s : State) : Host.Outcome State Fault Refusal :=
  if !s.recalls.any (fun r => r.cluster == cluster && r.step == 2) ∨ s.clusterJobs cluster = [] then notEnabled "RECALL_JOB_DEADLINE"
  else
    .next ((s.clusterJobs cluster).foldl (fun t e =>
      ((match e.2.blk with | some b => t.failBlock b | none => t).endJob e.1).1) s)

/-- Steps 3 to 5 of a recall: the exchange, the zeroing, the return. -/
def State.recallDone (s : State) (r : Recall) : State :=
  let cs := coresOf [r.cluster]
  let s1 := s.exchange cs
  let busy := cs.filter (fun c => (s1.core c).gourdBusy)
  let s2 := cs.foldl (fun t c => t.updCore c (fun k => { k with halted := false, gourdBusy := busy.contains c })) (s1.zeroCores cs)
  let s3 := (s2.reassign r.borrower (fun x => { x with borrowed := x.borrowed &&& ~~~clBit r.cluster })).updSlice r.owner
    (fun x => { x with lent := x.lent &&& ~~~clBit r.cluster })
  let s4 : State := { ((((s3.syncOnline r.owner).gainRoom cs).putRow r.owner).putRow r.borrower) with recalls := s3.recalls.filter (fun x => x.cluster != r.cluster) }
  if r.cmd.isSome then s4.cmdAnswer r.die 0x26 0 else s4

/-! ### The commands that reshape (R464, R465) -/

/-- The opcodes that quiesce. -/
def SlCmd.reshapes (c : SlCmd) : Bool := c.op == 0x27 || c.op == 0x28 || c.op == 0x29 || c.op == 0x2A

/-- The slices involved. -/
def SlCmd.slices (c : SlCmd) : List Nat := if c.op = 0x27 then [c.sa, c.sb] else [c.sa]

/-- A quiesce begins: the slices are Quiescing, and every lent and borrowed cluster is recalled (R457, R464 step 0). -/
def State.beginQuiesce (s : State) (c : SlCmd) : State :=
  let s1 := c.slices.foldl (fun t i => (t.updSlice i (fun x => { x with st := .quiescing })).putRow i) { s with cmd := some c }
  let cls := c.slices.flatMap (fun i => clustersOf ((s1.slice i).lent ||| (s1.slice i).borrowed))
  { s1 with recalls := s1.recalls ++ (cls.filter (fun k => !s1.recalls.any (fun r => r.cluster == k))).dedup.filterMap (fun k =>
      (s1.lending k).map (fun p => { cluster := k, owner := p.1, borrower := p.2, step := 1, cmd := none, die := c.die })) }

/-- Queue indices used by a slice (R465): its row, for a VF of the slice, has ENABLE 1, or its queue is not Stopped. -/
def State.usedQueues (s : State) (i : Nat) : List Nat :=
  let c := (s.slice i).cpn.toNat
  let base := (s.cp c).qtbase.toNat
  (List.range 512).filter (fun q =>
    (s.queue c q).st != .stopped ||
    (decide (q < (s.cp c).nq) && s.backed (base + 32 * q) && s.byte (base + 32 * q + 14) == 1 &&
      (let v := s.nat (base + 32 * q + 8) 2
       (s.vf v).enabled && (s.vf v).slice == i)))

/-- The generation distance of R499. -/
def State.delta (s : State) (a b : Nat) : Nat := ((s.slice b).gen - (s.slice a).gen).toNat

/-- MERGE. -/
def execMerge (cmd : W64) (s : State) : Host.Outcome State Fault Refusal :=
  s.sliceCmd "MERGE" 0x27 cmd false
    (fun t b =>
      let x := t.slice b.sa
      let y := t.slice b.sb
      let n := (clustersOf x.clusters).length + (clustersOf y.clusters).length
      let d := t.delta b.sa b.sb
      let ub := t.usedQueues b.sb
      if 16 ≤ b.sa ∨ 16 ≤ b.sb then 1
      else if !t.isRunning b.sa ∨ !t.isRunning b.sb ∨ b.sa = b.sb ∨ (t.locals b.sa).any (fun l => (t.locals b.sb).contains l) then 2
      else if x.prot != y.prot then 4
      else if 7 ≤ d ∧ d ≤ 9 then 2
      else if 48 < n ∨ 24 < (t.enabledIn b.sa).length + (t.enabledIn b.sb).length ∨ !t.apFree x.apbase n [b.sa, b.sb] ∨
        (t.usedQueues b.sa).any (fun q => ub.contains q) ∨ ub.any (fun q => decide ((t.cp x.cpn.toNat).nq ≤ q)) then 3
      else 0)
    (fun t b d => t.beginQuiesce (b.begun cmd 0x27 d))

/-- SPLIT. -/
def execSplit (cmd : W64) (s : State) : Host.Outcome State Fault Refusal :=
  s.sliceCmd "SPLIT" 0x28 cmd false
    (fun t b =>
      let x := t.slice b.sa
      let n := (clustersOf b.clusters).length
      let left := (clustersOf x.clusters).length - n
      if 16 ≤ b.sa ∨ 16 ≤ b.sb ∨ 16 ≤ b.cpn ∨ 2 ^ 24 ≤ b.vfs ∨ !b.maskOk ∨ (b.clusters &&& ~~~x.clusters) ≠ 0 ∨ b.clusters = x.clusters then 1
      else if !t.isRunning b.sa ∨ (t.slice b.sb).st ≠ .free then 2
      else if b.apb % (16 * 2 ^ 30) ≠ 0 ∨ !t.apFree b.apb n [b.sa] ∨ t.cpTaken b.cpn ∨
        !(decide (b.apb + 12 * 2 ^ 30 * n ≤ x.apbase) || decide (x.apbase + 12 * 2 ^ 30 * left ≤ b.apb)) then 3
      else 0)
    (fun t b d => t.beginQuiesce (b.begun cmd 0x28 d))

/-- RESIZE. -/
def execResize (cmd : W64) (s : State) : Host.Outcome State Fault Refusal :=
  s.sliceCmd "RESIZE" 0x29 cmd false
    (fun t b =>
      if 16 ≤ b.sa ∨ !b.maskOk then 1
      else if !t.isRunning b.sa then 2
      else if (b.clusters &&& t.ownedBut [b.sa]) ≠ 0 ∨ !t.apFree (t.slice b.sa).apbase (clustersOf b.clusters).length [b.sa] then 3
      else 0)
    (fun t b d => t.beginQuiesce (b.begun cmd 0x29 d))

/-- The exporting device's identity certificate chain, in DER (R498): its text is not given. -/
def certChain : List Byte := (Config.crypto 15 []).take 65536

/-- Bytes of the n-th slice state that is exported: its layout, and so its length, is a free value. -/
def stateLen (n : Nat) : Nat := Config.freeNat n % 2 ^ 40

/-- Bytes of a sealed text: a 16-byte tag follows each chunk of 64 KiB (R498). -/
def sealedLen (n : Nat) : Nat := n + 16 * ((n + 65535) / 65536)

/-- LENGTH of a blob with a slice state of `st` bytes, the keys of `nvf` VFs and `mem` aperture bytes: header, chain, sealed text, signature (R467, R498). -/
def blobLen (st nvf mem : Nat) : Nat := 640 + certChain.length + sealedLen (st + 64 * nvf + mem)

/-- EXPORT: refused with reason 4 without a migration key, with 3 when BLEN is too small; the length of the slice state is a free value. -/
def execExportSlice (cmd : W64) (s : State) : Host.Outcome State Fault Refusal :=
  s.sliceCmd "EXPORT" 0x2A cmd false
    (fun t b =>
      if 16 ≤ b.sa ∨ b.buf < hostBase then 1
      else if !t.isRunning b.sa then 2
      else if (t.slice b.sa).migKey.isNone then 4
      else if b.blen < blobLen (stateLen t.free) (t.enabledIn b.sa).length (t.slice b.sa).apLen then 3
      else 0)
    (fun t b d =>
      let t1 := { t with free := t.free + 1 }.beginQuiesce { b.begun cmd 0x2A d with blen := stateLen t.free }
      (t.enabledIn b.sa).foldl State.toError t1)

/-- IMPORT: the slice is Importing while the blob is checked. -/
def execImportSlice (cmd : W64) (s : State) : Host.Outcome State Fault Refusal :=
  s.sliceCmd "IMPORT" 0x2B cmd false
    (fun t b =>
      let n := (clustersOf b.clusters).length
      if 16 ≤ b.sa ∨ 16 ≤ b.cpn ∨ !b.maskOk ∨ b.buf < hostBase then 1
      else if (t.slice b.sa).st ≠ .free then 2
      else if (t.slice b.sa).migKey.isNone then 4
      else if (b.clusters &&& t.ownedBut []) ≠ 0 ∨ b.apb % (16 * 2 ^ 30) ≠ 0 ∨ !t.apFree b.apb n [] ∨ t.cpTaken b.cpn then 3
      else if t.nat (b.buf + 6) 1 ≠ n then 5
      else 0)
    (fun t b d =>
      let c := b.begun cmd 0x2B d
      let t1 := (({ t with cmd := some c, free := t.free + 1 } : State).freshCounters b.sa).updSlice b.sa (fun x =>
        { st := .importing, clusters := b.clusters, apbase := b.apb, cpn := BitVec.ofNat 4 b.cpn, migKey := x.migKey,
          key := some (Config.deriveKey t.free (512 + b.sa)) })
      t1.putRow b.sa)

/-! ### Moving memory, regions and queues (R465, R466) -/

/-- Move the entries of a store of units of `u` bytes from [lo, lo + n) to `to`, those that `keep` names; the others of the range are lost. -/
def moveStore {β : Type} (m : Store β) (u lo n dst : Nat) (keep : Nat → Bool) : Store β :=
  let hit (k : Nat) : Bool := decide (lo ≤ u * k) && decide (u * k < lo + n)
  (m.filter (fun e => hit e.1 && keep (u * e.1))).foldl (fun st e => Store.put st (e.1 - lo / u + dst / u) e.2) (m.filter (fun e => !hit e.1))

/-- Does an address of slice i's aperture lie in a tree region? It is rebuilt, not copied (R466). -/
def State.inTreeRegion (s : State) (i a : Nat) : Bool :=
  match s.region? i (a - (s.slice i).apbase) with | some r => r.kind == 2 | none => false

/-- The lines of a range of slice i's aperture that have been written and move (R466). -/
def State.movedLines (s : State) (i lo n : Nat) : List Nat :=
  (s.lineCtr.map Prod.fst).filter (fun k => decide (lo ≤ 128 * k) && decide (128 * k < lo + n) && !s.inTreeRegion i (128 * k))

/-- The words of written lines that fail their check, or stand below a failed node, move as poisoned words (R335, R496). -/
def State.settlePoison (s : State) (ls : List Nat) : State :=
  (ls.filter (fun k => s.nodeBad (128 * k) 128 || s.macBad (128 * k) 128)).foldl (fun t k => t.setPoison (128 * k) 128 true) s

/-- Move the memory of slice i in [lo, lo + n) to `dst`; its counters and MACs start afresh there (R466). -/
def State.moveMem (s : State) (i lo n dst : Nat) : State :=
  let s1 := s.settlePoison (s.movedLines i lo n)
  let keep (a : Nat) : Bool := !s.inTreeRegion i a
  { (s1.freshLines lo n).freshLines dst n with
    mem := moveStore s1.mem 1 lo n dst keep, poison := moveStore s1.poison 4 lo n dst keep,
    badNodes := s1.badNodes.filter (fun e => !(decide (lo ≤ 128 * e.1) && decide (128 * e.1 < lo + n))) }

/-- The regions of slice i, `n` of them from number `lo` on, that have an owner entry: in the table, or taken up. -/
def State.entriesIn (s : State) (i lo n : Nat) : List Nat :=
  let a := s.ownerAt i lo
  let table : List Nat := (s.mem.filter (fun c => decide (a ≤ c.1) && decide (c.1 < a + 8 * n))).map (fun c => lo + (c.1 - a) / 8)
  let taken : List Nat := (s.regions.filter (fun e => e.1 / 2 ^ 32 == i && decide (lo ≤ e.1 % 2 ^ 32) && decide (e.1 % 2 ^ 32 < lo + n))).map
    (fun e => e.1 % 2 ^ 32)
  (table ++ taken).dedup

/-- A data region's entry with TREE changed to the new number of its tree region; one that does not move along keeps its number (R466, log 165). -/
def movedEntry (e lo n dst : Nat) : Nat :=
  let t := e / 2 ^ 16 % 2 ^ 19
  if e / 2 ^ 10 % 4 = 1 ∧ lo ≤ t ∧ t < lo + n then e - t * 2 ^ 16 + (t - lo + dst) % 2 ^ 19 * 2 ^ 16 else e

/-- Regions of slice i are dropped, with their entries (R465, R466). -/
def State.dropEntries (s : State) (i lo n : Nat) : State :=
  (s.entriesIn i lo n).foldl (fun t k => t.tblWriteFor i (t.ownerAt i k) (leBytes 8 0))
    { s with regions := s.regions.filter (fun e => !(e.1 / 2 ^ 32 == i && decide (lo ≤ e.1 % 2 ^ 32) && decide (e.1 % 2 ^ 32 < lo + n))) }

/-- The entries of slice i's regions lo … lo + n − 1 become those of slice j's from `dst` on: each is copied, as it stands in the table, and taken up with a
fresh root; the old ones are zeroed (R466). -/
def State.moveEntries (s : State) (i lo n j dst : Nat) : State :=
  let es := (s.entriesIn i lo n).map (fun k => (k, s.nat (s.ownerAt i k) 8))
  let stays : Bool := i == j && lo == dst
  let s1 := if stays then { s with regions := s.regions.filter (fun e => !(e.1 / 2 ^ 32 == i && decide (lo ≤ e.1 % 2 ^ 32) && decide (e.1 % 2 ^ 32 < lo + n))) }
    else s.dropEntries i lo n
  es.foldl (fun t e =>
    let w := movedEntry e.2 lo n dst
    let k := e.1 - lo + dst
    let t1 : State := if (ownerOf w).kind = 0 then t else { t with regions := Store.put t.regions (j * 2 ^ 32 + k) (ownerOf w) }
    if stays then t1 else t1.tblWriteFor j (t1.ownerAt j k) (leBytes 8 w)) s1

/-- The word of an owner entry. -/
def Region.word (r : Region) : Nat := r.tree * 2 ^ 16 + r.slot * 2 ^ 12 + r.kind.toNat * 2 ^ 10 + r.vf

/-- Move queue q from one command processor to another, with its wait slot or its place on the spilled list, its graphs and its launches. -/
def State.moveQueue (s : State) (c d q : Nat) : State :=
  let x := s.queue c q
  let gs := (s.cp c).graphs.filter (fun g => g.q == q)
  let w := Store.get 0 (s.cp c).c x.owner
  let s1 := s.updCp c (fun y => { y with queues := Store.del y.queues q, slots := y.slots.filter (fun e => e.2 != q),
                                         spill := y.spill.filter (· != q), graphs := y.graphs.filter (fun g => g.q != q) })
  let s2 := (s1.updQueue d q (fun _ => { x with slot := none })).updCp d (fun y =>
    { y with graphs := y.graphs ++ gs, c := if (Store.find y.c x.owner).isSome then y.c else Store.put y.c x.owner w,
             spill := if x.st = .spilled then y.spill ++ [q] else y.spill })
  let s3 : State := { s2 with launches := s2.launches.map (fun e => if e.2.cp = c ∧ e.2.q = q then (e.1, { e.2 with cp := d }) else e) }
  if x.slot.isSome then s3.takeSlot d q else s3

/-- Move the queues that a condition names, each with its saved state (R465). -/
def State.moveQueues (s : State) (c d : Nat) (p : Nat → Queue → Bool) : State :=
  ((s.cp c).queues.filter (fun e => p e.1 e.2)).foldl (fun t e => t.moveQueue c d e.1) s

/-- VFs go to another slice with all that runs for them; VF.INDEX and VF.LOCAL do not change (R464). -/
def State.moveVfs (s : State) (dst : Nat) (p : Nat → Bool) : State :=
  { s with vfs := s.vfs.map (fun e => if p e.1 then (e.1, { e.2 with slice := dst }) else e),
           blocks := s.blocks.map (fun e => if p e.2.vf then (e.1, { e.2 with slice := dst }) else e),
           launches := s.launches.map (fun e => if p e.2.vf then (e.1, { e.2 with slice := dst, tmpl := { e.2.tmpl with slice := dst } }) else e) }

/-- Read the rows of a slice's VFs again (R454). -/
def State.rereadVfs (s : State) (i : Nat) : State := (s.enabledIn i).foldl (fun t v => t.updVf v (t.takeVfRow v)) s

/-- Write back and invalidate what caches and TLBs hold of slices (R409, R464 step 7). -/
def State.flushSlices (s : State) (is : List Nat) : State :=
  let s1 := s.flushL2 (fun _ l => is.contains l.slice)
  { s1 with l1 := s1.l1.filter (fun l => !is.contains l.slice), tlb := s1.tlb.filter (fun e => !is.contains (s1.vf e.vf).slice) }

/-- Bytes of n clusters' apertures, and their regions. -/
def apBytes (n : Nat) : Nat := 12 * 2 ^ 30 * n
def apRegions (n : Nat) : Nat := 6144 * n

/-- SB's images stand in the context region of the merged slice, under SA's slice key (R465). -/
def State.rekeyImages (s : State) (c : SlCmd) (lo dst : Nat) : State :=
  let gs := s.groups.filter (fun e => !e.2.priv && s.sliceOf e.2 == c.sb)
  gs.foldl (fun t e => (t.updGroup e.1 (fun gr => { gr with image := gr.image.map (fun a => a - lo + dst) })).sealImage ((s.slice c.sa).key.getD 0) e.1) s

/-- Step 7 of MERGE: each queue index that SB uses moves, with its saved state; one that no slice uses as long as SA has nothing there. -/
def State.mergeStep (s : State) (c : SlCmd) : State :=
  let x := s.slice c.sa
  let y := s.slice c.sb
  let na := (clustersOf x.clusters).length
  let nb := (clustersOf y.clusters).length
  let vb := s.enabledIn c.sb
  let used := s.usedQueues c.sb
  let dst := x.apbase + apBytes na
  let s0 := s.flushSlices [c.sa, c.sb]
  let la := s0.movedLines c.sa x.apbase x.apLen
  let lb := (s0.movedLines c.sb y.apbase y.apLen).map (fun k => k - y.apbase / 128 + dst / 128)
  let s1 := ((s0.moveMem c.sa x.apbase x.apLen x.apbase).moveMem c.sb y.apbase y.apLen dst).rekeyImages c y.apbase dst
  let s2 := (s1.moveEntries c.sa 0 (apRegions na) c.sa 0).moveEntries c.sb 0 (apRegions nb) c.sa (apRegions na)
  let s3 := (s2.moveQueues y.cpn.toNat x.cpn.toNat (fun q z => used.contains q || z.begun != [] || (Store.find (s2.cp x.cpn.toNat).queues q).isNone)).moveVfs
    c.sa (fun v => vb.contains v)
  let off := x.offCores ++ y.offCores
  let s4 := s3.updSlice c.sa (fun z => { z with clusters := x.clusters ||| y.clusters }.setOff off)
  let s5 := ((s4.updCp y.cpn.toNat Cp.cleared).updSlice c.sb (fun z => { tslice := 0, migKey := z.migKey })).freshCounters c.sb
  (s5.linesWritten (la ++ lb)).rereadVfs c.sa

/-- Step 7 of SPLIT: SB gets a slice key of its own (R491). -/
def State.splitStep (s : State) (c : SlCmd) : State :=
  let x := s.slice c.sa
  let n := (clustersOf c.mask).length
  let left := (clustersOf x.clusters).length - n
  let go (v : Nat) : Bool := (s.vf v).enabled && (s.vf v).slice == c.sa && c.vfs.getLsbD (s.vf v).local_
  let vb := (s.enabledIn c.sa).filter go
  let cut := x.apbase + apBytes left
  let s0 := s.flushSlices [c.sa]
  let la := s0.movedLines c.sa x.apbase (apBytes left)
  let lb := (s0.movedLines c.sa cut (apBytes n)).map (fun k => k - cut / 128 + c.apb / 128)
  let s1 := (s0.moveMem c.sa x.apbase (apBytes left) x.apbase).moveMem c.sa cut (apBytes n) c.apb
  let s2 := (s1.moveEntries c.sa (apRegions left) (apRegions n) c.sb 0).moveEntries c.sa 0 (apRegions left) c.sa 0
  let s3 := (s2.moveQueues x.cpn.toNat c.cpn (fun _ z => vb.contains z.vf)).moveVfs c.sb (fun v => vb.contains v)
  let off := x.offCores
  let s4 := ({ s3 with free := s3.free + 1 } : State).freshCounters c.sb |>.updSlice c.sb (fun z =>
    { st := .quiescing, clusters := c.mask, apbase := c.apb, cpn := BitVec.ofNat 4 c.cpn, prot := x.prot, boost := x.boost, race := x.race,
      gen := x.gen, tslice := x.tslice, turnVf := ((vb.map (fun v => (s.vf v).local_)).foldl min 24), migKey := z.migKey,
      key := some (Config.deriveKey s3.free (512 + c.sb)) : Slice }.setOff off)
  let s5 := s4.updSlice c.sa (fun z => { z with clusters := x.clusters &&& ~~~c.mask }.setOff off)
  ((s5.linesWritten (la ++ lb)).rereadVfs c.sa).rereadVfs c.sb

/-- Step 7 of RESIZE. -/
def State.resizeStep (s : State) (c : SlCmd) : State :=
  let x := s.slice c.sa
  let n := (clustersOf c.mask).length
  let kept := min (apBytes n) x.apLen
  let s0 := s.flushSlices [c.sa]
  let la := s0.movedLines c.sa x.apbase kept
  let s1 := (s0.moveMem c.sa x.apbase kept x.apbase).zeroMem (x.apbase + kept) (x.apLen - kept)
  let old := (clustersOf x.clusters).length
  let s2 := (s1.dropEntries c.sa (apRegions n) (apRegions old - apRegions n)).moveEntries c.sa 0 (apRegions (min n old)) c.sa 0
  let s3 := s2.updSlice c.sa (fun z => { z with clusters := c.mask }.setOff x.offCores)
  ((s3.linesWritten la).syncOnline c.sa).rereadVfs c.sa

/-! ### The blob (R467, R498) -/

/-- The blob's header. -/
def blobHeader (clusters nvf len mem locals : Nat) : List Byte :=
  leBytes 4 0x4F4C5342 ++ leBytes 2 1 ++ leBytes 1 clusters ++ leBytes 1 nvf ++ leBytes 8 len ++ leBytes 8 mem ++ leBytes 8 (len - 384) ++
  leBytes 4 locals ++ List.replicate 220 0

/-- The mask of VF.LOCALs. -/
def localMask (ls : List Nat) : Nat := (ls.map (fun l => 2 ^ l)).foldl (· + ·) 0

/-- Chunk i of a sealed text (R498): AES-256-GCM adds a keystream of the key and the IV, which is the chunk index, to the text; the manual names the function and
does not define it. -/
def gcmStream (key : BitVec 256) (i : Nat) (bs : List Byte) : List Byte :=
  List.zipWith (· ^^^ ·) bs (sealedBy 10 (leBytes 32 key.toNat ++ leBytes 12 i) [] bs.length)

/-- The 16-byte tag of chunk i. -/
def gcmTag (key : BitVec 256) (i : Nat) (ct : List Byte) : List Byte := sealedBy 17 (leBytes 32 key.toNat ++ leBytes 12 i) ct 16

/-- A text sealed in chunks of 64 KiB, each followed by its tag (R498). -/
def gcmSeal (key : BitVec 256) (bs : List Byte) : List Byte :=
  (List.range ((bs.length + 65535) / 65536)).flatMap (fun i =>
    let ct := gcmStream key i ((bs.drop (65536 * i)).take 65536)
    ct ++ gcmTag key i ct)

/-- Chunk i of a sealed text, without its tag, and the tag that follows it. -/
def gcmChunk (bs : List Byte) (i : Nat) : List Byte × List Byte :=
  let c := (bs.drop (65552 * i)).take 65552
  (c.take (c.length - 16), c.drop (c.length - 16))

/-- Do the tags of a sealed text agree? -/
def gcmOk (key : BitVec 256) (bs : List Byte) : Bool :=
  (List.range ((bs.length + 65551) / 65552)).all (fun i => let c := gcmChunk bs i; c.2 == gcmTag key i c.1)

/-- The text of a sealed one. -/
def gcmOpen (key : BitVec 256) (bs : List Byte) : List Byte :=
  (List.range ((bs.length + 65551) / 65552)).flatMap (fun i => gcmStream key i (gcmChunk bs i).1)

/-- The VFs of a slice in ascending VF.LOCAL. -/
def State.byLocal (s : State) (i : Nat) : List Nat := (List.range 24).filterMap (fun l => (s.enabledIn i).find? (fun v => (s.vf v).local_ == l))

/-- What is under the seal of a blob (R498): the slice state, the VF memory keys in ascending VF.LOCAL, the aperture contents as plaintext. -/
def State.blobText (s : State) (c : SlCmd) (images : List Byte) : List Byte :=
  let x := s.slice c.sa
  sealedBy 16 (leBytes 8 s.free) images c.blen ++ (s.byLocal c.sa).flatMap (fun v => leBytes 64 (((s.vf v).key.map BitVec.toNat).getD 0)) ++
  (List.range x.apLen).map (fun o => s.byte (x.apbase + o))

/-- The memory of a slice by aperture offset. -/
def State.apMem (s : State) (sl : Slice) : List Host.Cell :=
  (s.mem.filter (fun c => decide (sl.apbase ≤ c.1) && decide (c.1 < sl.apbase + sl.apLen))).map (fun c => (c.1 - sl.apbase, c.2))

/-- Step 6 of EXPORT: the blob, with the context images of the slice's groups (R290), is written and the slice is Exported; its home watches have been withdrawn and its replies drained. -/
def State.exportStep (s : State) (c : SlCmd) : State :=
  let x := s.slice c.sa
  let key := x.migKey.getD 0
  let vs := s.enabledIn c.sa
  let bl := (s.blocks.filter (fun e => e.2.slice == c.sa)).map Prod.fst
  let gs := s.groups.filter (fun g => bl.contains g.2.blk)
  let images := (List.range gs.length).flatMap (fun k => (gs[k]?.map (fun g => s.image g.2 (s.free + 1 + 8 * k))).getD [])
  let head := blobHeader (clustersOf x.clusters).length vs.length (blobLen c.blen vs.length x.apLen) x.apLen (localMask (s.locals c.sa)) ++ certChain ++
    gcmSeal key (s.blobText c images)
  let blob := head ++ sealedBy 3 [] head 384
  let e : Export :=
    { blob := blob, key := key, slice := c.sa, gen := x.gen, prot := x.prot, boost := x.boost, race := x.race, tslice := x.tslice,
      turnVf := x.turnVf, mem := s.apMem x,
      poison := (s.poison.filter (fun p => decide (x.apbase ≤ 4 * p.1) && decide (4 * p.1 < x.apbase + x.apLen))).map (fun p => (p.1 - x.apbase / 4, p.2)),
      regions := (s.regions.filter (fun r => r.1 / 2 ^ 32 == c.sa)).map (fun r => (r.1 % 2 ^ 32, r.2)),
      vfs := s.vfs.filter (fun v => vs.contains v.1), blocks := s.blocks.filter (fun b => bl.contains b.1),
      groups := gs, launches := s.launches.filter (fun l => l.2.slice == c.sa),
      tiles := s.tiles.filter (fun t => bl.contains t.2.blk), bars := s.bars.filter (fun t => bl.contains t.2.blk), cp := s.cp x.cpn.toNat }
  let s1 := (s.commitGlobal c.sa fwVf c.buf blob 0 0 1).1
  let s2 := ({ s1 with exports := e :: s1.exports, free := s1.free + 1 + 8 * gs.length }.updSlice c.sa (fun z => { z with st := .exported })).putRow c.sa
  ({ s2 with cmd := none }).cmdAnswer c.die 0x2A 0

/-- What the text of a slice state says: the manual gives it no layout, so it is an uninterpreted function of the text, in its first entry (log 135). -/
opaque Config.sliceState : List Byte → List Export

/-- What a blob that another package sealed carries: its aperture contents and its VFs' keys, in ascending VF.LOCAL of LOCALS; the rest is what its slice
state says (R467, R498). `n` is its number of VFs, `mem` that of its aperture bytes. -/
def foreignExport (key : BitVec 256) (blob text : List Byte) (n mem : Nat) : Export :=
  let st := text.take (text.length - 64 * n - mem)
  let keys := (text.drop st.length).take (64 * n)
  let bytes := text.drop (st.length + 64 * n)
  let ls := (List.range 24).filter (fun l => field blob 0x20 4 / 2 ^ l % 2 == 1)
  let e : Export := (Config.sliceState st).headD
    { blob := [], key := key, slice := 16, gen := 0, prot := false, boost := false, race := 0, tslice := 20, turnVf := 0, mem := [], poison := [], regions := [],
      vfs := [], blocks := [], groups := [], launches := [], tiles := [], bars := [], cp := {} }
  { e with
    blob := blob, key := key, slice := 16, poison := [],
    mem := ((List.range mem).map (fun o => (o, bytes.getD o 0))).filter (fun c => c.2 != 0),
    vfs := (List.range ls.length).map (fun k =>
      let l := ls.getD k 0
      let v : Vf := ((e.vfs.find? (fun x => x.2.local_ == l)).map Prod.snd).getD {}
      (384 + l, { v with enabled := true, local_ := l, key := some (BitVec.ofNat 512 (field keys (64 * k) 64)) })) }

/-- Rename the blocks, groups and launches of an exported slice by adding `n`, and its VFs by `f`. -/
def Export.renamed (e : Export) (n : Nat) (f : Nat → Nat) : Export :=
  let blk (b : Block) : Block := { b with vf := f b.vf, launch := b.launch.map (· + n) }
  let queue (q : Queue) : Queue := { q with vf := f q.vf, owner := if q.owner = 0x1FF then 0x1FF else f q.owner }
  { e with
    blocks := e.blocks.map (fun b => (b.1 + n, { blk b.2 with shares := b.2.shares.map (fun sh => { sh with core := awayCore (b.1 + n) sh.core }) })),
    groups := e.groups.map (fun g => (g.1 + n, { g.2 with blk := g.2.blk + n })),
    launches := e.launches.map (fun l => (l.1 + n, { l.2 with vf := f l.2.vf, tmpl := blk l.2.tmpl })),
    tiles := e.tiles.map (fun t => (t.1 % 262144 + 262144 * (1 + t.2.blk + n), { t.2 with blk := t.2.blk + n })),
    bars := e.bars.map (fun t => (t.1 % 262144 + 262144 * (1 + t.2.blk + n), { t.2 with blk := t.2.blk + n })),
    vfs := e.vfs.map (fun v => (f v.1, v.2)),
    cp := { e.cp with queues := e.cp.queues.map (fun q => (q.1, queue q.2)), c := e.cp.c.map (fun q => (if q.1 = 0x1FF then 0x1FF else f q.1, q.2)) } }

/-- Put the entries of one store into another. -/
def putAll {β : Type} (m n : Store β) : Store β := n.foldl (fun st e => Store.put st e.1 e.2) m

/-- The VF that takes the place of an exported one: the first whose row names its VF.LOCAL in the slice, and which is not enabled; else the one of the same
VF.INDEX (log 167). -/
def State.importVf (s : State) (i : Nat) (e : Export) (v : Nat) : Nat :=
  match (Store.find e.vfs v).bind (fun x => (List.range 384).find? (fun k => s.byte (s.vfRowAt k + 0x1C) == BitVec.ofNat 8 i &&
      (s.byte (s.vfRowAt k + 0x1D)).toNat == x.local_ && !(s.vf k).enabled)) with
  | some k => k
  | none => v

/-- Restore an exported slice in the slice SA: the contents at the new addresses, with their regions, counters and MACs, the VFs under their keys, what ran, as
pre-empted blocks. -/
def State.restore (s : State) (c : SlCmd) (e0 : Export) : State :=
  let e := e0.renamed s.nextId (s.importVf c.sa e0)
  let x := s.slice c.sa
  let cpn := c.cpn
  let cells := (e.mem.filter (fun m => decide (m.1 < x.apLen))).map (fun m => (m.1 + x.apbase, m.2))
  let s1 : State := { s with
    nextId := 2 * s.nextId,
    mem := cells.foldl (fun m p => Memory.write m p.1 p.2) s.mem,
    poison := putAll s.poison (e.poison.map (fun p => (p.1 + x.apbase / 4, p.2))),
    regions := putAll s.regions (e.regions.map (fun r => (c.sa * 2 ^ 32 + r.1, { r.2 with root := [0, 0, 0] }))),
    vfs := putAll s.vfs ((e.vfs.filter (fun v => decide (v.1 < 384) && (!(s.vf v.1).enabled || (s.vf v.1).slice == e.slice))).map (fun v => (v.1, { v.2 with slice := c.sa }))),
    blocks := putAll s.blocks (e.blocks.map (fun b => (b.1, { b.2 with slice := c.sa }))), groups := putAll s.groups e.groups,
    launches := putAll s.launches (e.launches.map (fun l => (l.1, { l.2 with slice := c.sa, cp := cpn, tmpl := { l.2.tmpl with slice := c.sa } }))),
    tiles := putAll s.tiles e.tiles, bars := putAll s.bars e.bars }
  let s2 := (s1.updCp cpn (fun y => { e.cp with qtbase := y.qtbase, vtbase := y.vtbase, nq := y.nq, holdt := y.holdt, stopped := false }))
    |>.updSlice c.sa (fun z => { z with gen := e.gen, prot := e.prot, boost := e.boost, race := e.race, tslice := e.tslice, turnVf := e.turnVf })
  let s3 := e.regions.foldl (fun t r => t.tblWriteFor c.sa (t.ownerAt c.sa r.1) (leBytes 8 r.2.word)) s2
  (s3.linesWritten ((cells.map (fun p => p.1 / 128)).dedup)).placeImages c.sa

/-- Do the fields of a header agree with each other and with the slice that the blob goes into (R467)? -/
def blobHeaderOk (hd : List Byte) (sl : Slice) : Bool :=
  let ls := (List.range 32).filter (fun l => field hd 0x20 4 / 2 ^ l % 2 == 1)
  field hd 0 4 == 0x4F4C5342 && field hd 4 2 == 1 && field hd 6 1 == (clustersOf sl.clusters).length && field hd 7 1 == ls.length && decide (field hd 7 1 ≤ 24) &&
  decide (field hd 0x20 4 < 2 ^ 24) && decide (640 ≤ field hd 8 8) && field hd 0x10 8 == sl.apLen && field hd 0x18 8 + 384 == field hd 8 8 && zeroRange hd 0x24 220

/-- Where the chain of a blob ends, as its DER says: an uninterpreted function. -/
def chainEnd (body : List Byte) : Nat := leNat (Config.crypto 19 body)

/-- The checks of a blob beside its header, in their order: the chain against the Lamvor root, the signature, each tag (R498). -/
def blobSealOk (key : BitVec 256) (blob : List Byte) : Bool :=
  let off := field blob 0x18 8
  let body := (blob.take off).drop 256
  let n := chainEnd body
  (Config.crypto 18 (body.take n)).headD 0 == 1 && (Config.crypto 11 blob).headD 0 == 1 && gcmOk key (body.drop n)

/-- Step of an import: the header, the chain, the signature and the seal are checked before anything is written; a failure leaves the slice
Free with reason 5 (R467, R498). A blob that this package has written passes them. -/
def State.importStep (s : State) (c : SlCmd) : State :=
  let x := s.slice c.sa
  let key := x.migKey.getD 0
  let hd := s.bytes c.buf 256
  let ok := blobHeaderOk hd x
  let blob := if ok then s.bytes c.buf (field hd 8 8) else []
  let body := (blob.take (field hd 0x18 8)).drop 256
  let mine := s.exports.find? (fun e => e.blob == blob && e.key == key)
  if ok && (mine.isSome || blobSealOk key blob) then
    let e := mine.getD (foreignExport key blob (gcmOpen key (body.drop (chainEnd body))) (field hd 7 1) (field hd 0x10 8))
    let s1 := ((s.updSlice c.sa (fun z => { z with st := .running })).restore c e)
    let s2 := ((s1.syncOnline c.sa).rereadVfs c.sa).putRow c.sa
    let s3 := (s2.enabledIn c.sa).foldl (fun t v => t.putVstate c.sa v 1)
      ((coresOf (clustersOf x.clusters)).foldl (fun t k => t.updCore k (fun y => { y with halted := false })) s2)
    ({ s3 with cmd := none }).cmdAnswer c.die 0x2B 0
  else
    ({ ((s.updSlice c.sa (fun z => { tslice := 0, migKey := z.migKey })).putRow c.sa) with cmd := none }).cmdAnswer c.die 0x2B 5

/-! ### The steps (R464) -/

/-- The cores of the slices involved. -/
def State.involved (s : State) (c : SlCmd) : List Nat := c.slices.flatMap (fun i => coresOf (clustersOf (s.slice i).clusters))

/-- HALT_CORES (R460): step 1 of a recall, or step 3 of a quiesce. -/
def execHaltCores (cores : List Nat) (s : State) : Host.Outcome State Fault Refusal :=
  match s.recalls.find? (fun r => r.step == 1 && coresOf [r.cluster] == cores) with
  | some r => .next { s.halt cores with recalls := s.recalls.map (fun x => if x.cluster = r.cluster then { x with step := 2 } else x) }
  | none =>
    match s.cmd with
    | none => notEnabled "HALT_CORES"
    | some c =>
      if c.reshapes && c.step == 3 && s.involved c == cores && !cores.all (fun k => (s.core k).halted) then .next (s.halt cores)
      else notEnabled "HALT_CORES"

/-- GOURD_EXCHANGE (R461): step 3 of a recall, with the return of the cluster, or of a quiesce. -/
def execGourdExchange (slice : Nat) (cores : List Nat) (s : State) : Host.Outcome State Fault Refusal :=
  match s.recalls.find? (fun r => r.step == 2 && r.borrower == slice && coresOf [r.cluster] == cores) with
  | some r =>
    if s.anyStall ∨ s.clusterJobs r.cluster ≠ [] ∨ cores.any (fun k => (s.core k).mq != []) ∨ !s.gourdFree cores then notEnabled "GOURD_EXCHANGE"
    else .next (s.recallDone r)
  | none =>
    match s.cmd with
    | none => notEnabled "GOURD_EXCHANGE"
    | some c =>
      if c.reshapes && c.step == 3 && c.slices.contains slice && !c.exch.contains slice && coresOf (clustersOf (s.slice slice).clusters) == cores &&
          cores.all (fun k => (s.core k).halted && (s.core k).mq == []) && !s.jobs.any (fun e => e.2.slice == slice) && s.gourdFree cores then
        .next { s.exchange cores with cmd := some { c with exch := slice :: c.exch } }
      else notEnabled "GOURD_EXCHANGE"

/-- Withdraw the home watches of a slice's groups (R378, R464 step 5): ARMED becomes 0. -/
def State.dropWatches (s : State) (i : Nat) : State :=
  { s with groups := s.groups.map (fun e => if s.sliceOf e.2 = i then
      (e.1, { e.2 with hwatch := [], watch := e.2.watch.map (fun w => w &&& ~~~(0x0800000000000000 : W64)) }) else e) }

/-- Renew a slice's stamp space n times. -/
def State.renewN (s : State) (i : Nat) : Nat → State
  | 0 => s
  | n + 1 => (s.newGen i).renewN i n

/-- The renewals that bring the slices of a MERGE to one generation before step 5 (R499): a renewal of one of them since the MERGE was accepted counts (log
166). -/
def State.renewals (s : State) (c : SlCmd) : Nat × Nat :=
  let k := s.delta c.sa c.sb
  if c.op ≠ 0x27 then (0, 0) else if k ≤ 8 then (k, 0) else (0, 16 - k)

/-- The images of the slices' blocks leave the Gourd for their context regions, at their VFs' charge (R461, R464 step 6). -/
def State.imagesOut (s : State) (c : SlCmd) : State :=
  let out := s.blocks.filter (fun e => c.slices.contains e.2.slice && e.2.inGourd)
  let s0 := out.foldl (fun t e => t.chargeImage e.2.slice e.2.vf (t.poolBytes e.1 e.2)) (c.slices.foldl State.sealImages s)
  let s1 : State := { s0 with blocks := s0.blocks.map (fun e => if c.slices.contains e.2.slice then (e.1, { e.2 with inGourd := false }) else e) }
  (s1.involved c).foldl (fun t k => t.updCore k (fun y => { y with gourdBusy := false })) s1

/-- Step 8: pools are restored on the new placement, with their images in the new context regions, and the command processors restart. -/
def State.restart (s : State) (c : SlCmd) : State :=
  let live := (if c.op = 0x28 then [c.sa, c.sb] else [c.sa]).filter (fun i => (s.slice i).st == .quiescing)
  let s1 := live.foldl (fun t i => ((t.updSlice i (fun x => { x with st := .running })).updCp (t.slice i).cpn.toNat (fun y => { y with stopped := false })).putRow i) s
  let s2 := s1.cores.foldl (fun t e => if e.2.halted ∧ !t.slices.any (fun x => x.2.failed && (coresOf (clustersOf x.2.clusters)).contains e.1) ∧
      !t.recalls.any (fun r => (coresOf [r.cluster]).contains e.1) then t.updCore e.1 (fun k => { k with halted := false }) else t) s1
  let s2' := if c.op = 0x27 then s2.putRow c.sb else s2
  let s3 : State := live.foldl State.placeImages { s2' with launches := s2'.launches.map (fun e => (e.1, { e.2 with refused := [] })) }
  ({ s3 with cmd := none }).cmdAnswer c.die c.op.toNat 0

/-- One step of a quiesce that may be taken, none while it must wait (R464); coherent lines have been written back by evictions before the state
is written (R409, R523). -/
def State.quiesce (s : State) (c : SlCmd) : Option State :=
  let go (t : State) : State := { t with cmd := some { c with step := c.step + 1 } }
  let cps := c.slices.map (fun i => (s.slice i).cpn.toNat)
  match c.step with
  | 0 => if c.slices.all (fun i => (s.slice i).lent == 0 && (s.slice i).borrowed == 0) then some (go s) else none
  | 1 => some (go (cps.foldl (fun t k => t.updCp k (fun y => { y with stopped := true })) s))
  | 2 => if s.jobs.any (fun e => c.slices.contains e.2.slice) ∨
        s.cores.any (fun e => e.2.mq.any (fun m => match s.block m.2.blk with | some b => c.slices.contains b.slice | none => false)) then none
      else some (go s)
  | 3 => if c.slices.all (fun i => c.exch.contains i) then some (go s) else none
  | 4 => if s.reqs.any (fun e => c.slices.contains e.2.slice) then none else some (go s)
  | 5 =>
    let r := s.renewals c
    let s1 := c.slices.foldl State.dropWatches (((s.renewN c.sa r.1).renewN c.sb r.2))
    some (go (c.slices.foldl (fun t i => t.renewN i 1) s1))
  | 6 => if s.fab.lines.any (fun l => c.slices.contains l.slice) then none else if c.op = 0x2A then some ((s.imagesOut c).exportStep c) else some (go (s.imagesOut c))
  | 7 =>
    let cs := s.involved c
    let s1 := s.zeroCores cs
    some (go (if c.op = 0x27 then s1.mergeStep c else if c.op = 0x28 then s1.splitStep c else s1.resizeStep c))
  | _ => some (s.restart c)

/-- QUIESCE_STEP (R462, R464, R467): the next step of the command in progress, once the step before it has finished. -/
def execQuiesceStep (slice : Nat) (s : State) : Host.Outcome State Fault Refusal :=
  match s.cmd with
  | none => notEnabled "QUIESCE_STEP"
  | some c =>
    if s.anyStall ∨ c.sa ≠ slice ∨ 16 ≤ (s.mbox c.die 0).outb.length then notEnabled "QUIESCE_STEP"
    else if c.op = 0x25 then
      if s.blocksOn (coresOf [c.cl]) = [] ∧ s.clusterJobs c.cl = [] then .next (s.lendDone c) else notEnabled "QUIESCE_STEP"
    else if c.op = 0x2B then .next (s.importStep c)
    else
      match s.quiesce c with
      | some t => .next t
      | none => notEnabled "QUIESCE_STEP"

/-! ### Time slices and clocks (R458, R459) -/

/-- The next VF.LOCAL in ascending order after `l`, or the lowest. -/
def nextLocal (ls : List Nat) (l : Nat) : Nat :=
  match ls.filter (fun x => decide (l < x)) with
  | [] => match ls with | [] => l | x :: xs => xs.foldl min x
  | x :: xs => xs.foldl min x

/-- TIME_SLICE_END (R458, R460, R461, R470): running matrix operations and sectors in flight complete first; then the slice's cores are halted, the
outgoing VF's pools go to the Gourd, from where GOURD_WRITE_OUT takes them to the context region, and the next VF's come back to the cores. -/
def execTimeSliceEnd (slice : Nat) (s : State) : Host.Outcome State Fault Refusal :=
  let sl := s.slice slice
  let vs := s.enabledIn slice
  let cs := coresOf (clustersOf sl.clusters)
  if !sl.prot ∨ sl.st ≠ .running ∨ vs = [] then notEnabled "TIME_SLICE_END"
  else
    let nl := nextLocal (s.locals slice) sl.turnVf
    let at_ (l : Nat) : Nat := (vs.find? (fun v => (s.vf v).local_ == l)).getD 384
    let o := at_ sl.turnVf
    let i := at_ nl
    let s0 := if o = 384 then s else s.meterAdd o 8 (sl.tslice * 160000 * cs.length)
    if nl = sl.turnVf then .next s0
    else
      let bl := (s0.blocks.filter (fun e => e.2.slice == slice && e.2.vf == o && e.2.shares.any (fun sh => cs.contains sh.core))).map Prod.fst
      if s0.cores.any (fun e => e.2.mq.any (fun m => m.2.started && bl.contains m.2.blk)) ∨
          s0.jobs.any (fun e => e.2.blk.any (fun b => bl.contains b) && s0.jobAsks e.1) ∨ !s0.gourdFree cs then notEnabled "TIME_SLICE_END"
      else
        let s1 := bl.foldl (fun t b => t.updBlock b (fun x => { x with kept := x.placed })) s0
        let s2 := bl.foldl (fun t b => (t.awayBlock b).updBlock b (fun x => { x with swapped := true, inGourd := true })) (s1.halt cs)
        let s3 := cs.foldl (fun t c => t.updCore c (fun k => { k with gourdBusy := bl.any (fun b => match s1.block b with | some x => x.on c | none => false) })) s2
        let back := (s3.blocks.filter (fun e => e.2.slice == slice && e.2.vf == i && e.2.swapped)).map Prod.fst
        let s4 := back.foldl State.returnBlock (s3.updSlice slice (fun x => { x with turnVf := nl }))
        let s5 := cs.foldl (fun t c => t.updCore c (fun k => { k with halted := false })) s4
        .next ((if o = 384 then s5 else s5.meterAdd o 5 1).meterAdd i 5 1)

/-- BOOST_LIMIT (R459): boosted slices run at 1.6 GHz. -/
def execBoostLimit (s : State) : Host.Outcome State Fault Refusal :=
  if s.capped then notEnabled "BOOST_LIMIT" else .next { s with capped := true }

end Sys2Proof.Machine
end

