-- ==== Sys2Proof/Machine/Boot.lean ====
section
/-! DEFINITION. Boot and the start of firmware (R448, R474–R477), loss of power, and errors that end a context: SRAM and cluster network
(R380, R391), integrity failures (R496). -/

namespace Sys2Proof.Machine

/-! ### Firmware (R448) -/

/-- Start one group of a firmware block: it holds privileged mode for life (R275). -/
def State.startFirmwareGroup (s : State) (bid gid core : Nat) (b : Block) : State :=
  let r := s.takeId
  let gr : Group := { newGroup b bid gid core (s.core core).nextAge 0 s.pkgGen with priv := true }
  let s1 := (r.1.updCore core (fun c => { c with nextAge := c.nextAge + 1 })).putGroup r.2 gr
  let e := s1.enter gr b.entry false
  let run := (List.range 32).filter (fun i => (gr.lane i).run == .running)
  e.1.putGroup r.2 (match e.2 with
    | .ok d => gr.hold b.entry d
    | .badTarget => gr.park run (preciseFault 0x03 0 b.entry)
    | .bad c x ex => gr.park run (fetchFault c x ex b.entry)
    | .ask _ => gr)

/-- Start a firmware block on core 48 of a die. -/
def State.startFirmware (s : State) (d : Nat) (b : Block) : State :=
  let c := fwCore d
  let r := s.takeId
  let b1 : Block := { b with shares := [{ core := c }], placed := true, done := false, failed := false, records := [], fltmasks := [] }
  let s1 : State := { r.1.takeCore b1 c with blocks := Store.put r.1.blocks r.2 b1 }
  (List.range b1.ngroups).foldl (fun t n => t.startFirmwareGroup r.2 n c b1) s1

/-- The kernel header that ENTRY of an image names, as the block template that it gives; none when R85 refuses it (R475, R476). `base` is the address of the
body, a multiple of 256. -/
def fwKernel (v : ImageView) (base : W64) : Option Block :=
  let o := field v.header 0x10 8
  let bs := (v.body.drop o).take 256
  let foot := (v.body.drop (BitVec.ofNat 64 (o + field bs 0x30 8)).toNat).take (16 * field bs 0x16 2)
  if v.body.length < o + 256 then none else (header (base + BitVec.ofNat 64 o) bs foot [] 16 fwVf 0).map Prod.fst

/-- The block of a firmware image: one block on core 48, in no slice, no VF and no launch (R448). -/
def fwBlock (v : ImageView) (b : Block) : Block := { b with ngroups := v.groups, bthreads := 32 * v.groups, accu := 0, args := 0 }

/-- The firmware block that runs on a die. -/
def State.fwOf (s : State) (d : Nat) : Option (Nat × Block) := s.blocks.find? (fun e => e.2.vf == fwVf && !e.2.done && !e.2.failed && e.2.on (fwCore d))

/-! ### Boot (R474–R477) -/

/-- The first check of R476 that an image fails, 0 for none. -/
def imageStep (v : ImageView) (fuse : Nat) : Nat :=
  let h := v.header
  let n := field h 8 8
  if h.length ≠ 1024 ∨ field h 0 4 ≠ 0x4F4C4657 ∨ field h 4 2 ≠ 1 ∨ 2 ≤ field h 7 1 ∨ !zeroRange h 0x18 104 ∨ !zeroRange h 0x380 128 then 1
  else if n % 64 ≠ 0 ∨ 2 ^ 24 < n ∨ v.body.length ≠ n then 2
  else if !v.keyOk then 3
  else if !v.sigOk then 4
  else if field h 6 1 < fuse then 5
  else if (fwKernel v 0).isNone then 6
  else 0

/-- SVN and ADVANCE of an image. -/
def imageSvn (v : ImageView) : Nat := field v.header 6 1
def imageAdvance (v : ImageView) : Bool := field v.header 7 1 % 2 == 1

/-- The copy of the image that the boot ROM of a die checks next, as far as it is known. -/
def State.flashCopy (s : State) (die : Nat) : Option ImageView := if (s.die die).retried then s.sec.flash2 else s.sec.flash1

/-- A copy in the flash is as it has been read. -/
def State.readFlash (s : State) (die : Nat) (v : ImageView) : State :=
  { s with sec := if (s.die die).retried then { s.sec with flash2 := some v } else { s.sec with flash1 := some v } }

/-- POWER_GOOD: the boot ROM begins; in BSTATE 1 it checks the first copy of the image, and after a refusal the second, whose refusal fails the boot; once one is
accepted, each further event advances the fuses by one on die 0, or loads the code region and starts the firmware. Dies 1 to 3 begin their checks after die 0 has
left BSTATE 2. -/
def execPowerGood (die : Nat) (image : ImageView) (s : State) : Host.Outcome State Fault Refusal :=
  let x := s.die die
  if 4 ≤ die then notEnabled "POWER_GOOD"
  else if x.bstate = 0 then .next ({ s with powered := true }.updDie die (fun y => { y with bstate := 1 }))
  else if x.bstate = 1 then
    if (die ≠ 0 ∧ (s.die 0).bstate ≠ 3) ∨ !((s.flashCopy die).all (· == image)) then notEnabled "POWER_GOOD"
    else
      let r := imageStep image s.sec.fusecnt
      .next ((s.readFlash die image).updDie die (fun y =>
        if r = 0 then { y with bstate := 2, svn := imageSvn image, image := some image }
        else if y.retried then { y with bstate := 15, bcause := r } else { y with retried := true }))
  else if x.bstate = 2 ∧ x.image = some image then
    if die = 0 ∧ imageAdvance image ∧ s.sec.fusecnt < imageSvn image then .next { s with sec := { s.sec with fusecnt := s.sec.fusecnt + 1 } }
    else
      match fwKernel image (codeBase die) with
      | none => notEnabled "POWER_GOOD"
      | some b => .next ((s.updDie die (fun y => { y with bstate := 3, image := none, code := image.body })).startFirmware die (fwBlock image b))
  else notEnabled "POWER_GOOD"

/-- POWER_LOSS: everything stops; the fuses and the host's memory keep what they hold. -/
def execPowerLoss (s : State) : Host.Outcome State Fault Refusal :=
  if !s.powered then notEnabled "POWER_LOSS"
  else
    .next { State.reset with
      mem := s.mem.filter (fun c => decide (hostBase ≤ c.1)), sec := { State.reset.sec with fusecnt := s.sec.fusecnt, flash1 := s.sec.flash1, flash2 := s.sec.flash2 }, inbox := s.inbox, free := s.free }

/-! ### SRAM and the cluster network (R380, R391) -/

/-- The lowest thread of a group writes a record with CODE POISON and ADDRV clear. -/
def Group.poisoned (gr : Group) : Group :=
  match (List.range 32).find? (fun i => (gr.lane i).run != .exited) with
  | some i => gr.upd [i] (fun i l => l.imprecise i gr.trapvec 0x13 0 l.pc none l.issued)
  | none => gr

/-- A block ends for an error in its own context (R380): `g` is an affected group. -/
def State.poisonBlock (s : State) (b : Nat) (g : Option Nat) : State :=
  let g := match g with
    | some g => some g
    | none => (s.groups.find? (fun e => e.2.blk == b && !e.2.allExited)).map Prod.fst
  ((match g with | some g => s.updGroup g Group.poisoned | none => s)).endByFault b

/-- SRAM_UNCORRECTABLE (R380): the outcome follows the owner tag; the error is counted and logged. -/
def execSramUncorrectable (core : Nat) (owner : SramOwner) (s : State) : Host.Outcome State Fault Refusal :=
  if 196 ≤ core then notEnabled "SRAM_UNCORRECTABLE"
  else
    let log (vf : Nat) : State := (s.updCore core (fun c => { c with sramue := c.sramue + 1 })).logErr (core / 49) 0x01 (core % 49) vf 0 0
    match owner with
    | .free => .next (log 0x1FF)
    | .l1 vf line => .next { log vf with l1 := s.l1.filter (fun l => !(l.core == core && l.vf == vf && l.line == line)) }
    | .block b =>
      (match s.block b with
       | none => notEnabled "SRAM_UNCORRECTABLE"
       | some x => if x.done ∨ x.vf = fwVf then notEnabled "SRAM_UNCORRECTABLE" else .next ((log x.vf).poisonBlock b none))
    | .image g =>
      (match s.group g with
       | none => notEnabled "SRAM_UNCORRECTABLE"
       | some gr => match s.block gr.blk with
         | none => notEnabled "SRAM_UNCORRECTABLE"
         | some x => if x.done ∨ gr.priv then notEnabled "SRAM_UNCORRECTABLE" else .next ((log x.vf).poisonBlock gr.blk (some g)))
    | .firmware =>
      match s.fwOf (core / 49) with
      | none => notEnabled "SRAM_UNCORRECTABLE"
      | some (b, x) => if core % 49 ≠ 48 then notEnabled "SRAM_UNCORRECTABLE" else .next (((log 0x1FF).endByFault b).startFirmware (core / 49) x)

/-- CLUSTER_NETWORK_ERROR (R391): the accessing block ends under the block row of R380. -/
def execClusterNetworkError (cluster b : Nat) (s : State) : Host.Outcome State Fault Refusal :=
  match s.block b with
  | none => notEnabled "CLUSTER_NETWORK_ERROR"
  | some x =>
    if 48 ≤ cluster ∨ x.done ∨ !x.shares.any (fun sh => (coresOf [cluster]).contains sh.core) then notEnabled "CLUSTER_NETWORK_ERROR"
    else .next ((s.logErr (cluster / 12) 0x02 (cluster % 12) x.vf 0 0).poisonBlock b none)

/-! ### Integrity (R494–R496) -/

/-- Has the line been written, so that its counter is not 0 once it stands in HBM4E? -/
def State.written (s : State) (line : Nat) : Bool :=
  Store.get 0 s.lineCtr line != 0 || s.l2.any (fun e => e.1 / 512 == line && e.2.dirty != 0)

/-- MAC_MISMATCH (R496): level 0 poisons the line; levels 1 to 4 every line the node covers, until the region is initialised again. -/
def execMacMismatch (line level : Nat) (s : State) : Host.Outcome State Fault Refusal :=
  match s.regionOfLine line with
  | none => notEnabled "MAC_MISMATCH"
  | some (_, _, r, _) =>
    if r.kind ≠ 1 ∨ 4 < level ∨ (level = 0 ∧ !s.written line) then notEnabled "MAC_MISMATCH"
    else
      let s0 := s.flushL2 (fun k _ => k == line)
      .next (s0.macFailed line level)

/-- Stop every queue of a command processor with ERR 4 (R436, R496). -/
def State.stopAll (s : State) (c : Nat) : State :=
  ((s.cp c).queues.filter (fun e => e.2.st != .stopped)).foldl (fun t e => t.stopQueue c e.1 4 e.2.rdptr false) s

/-- ROOT_LOST (R496): the region's slice fails: its cores halt, its queues stop, its bound VFs go to ERROR. -/
def execRootLost (slice region : Nat) (s : State) : Host.Outcome State Fault Refusal :=
  let sl := s.slice slice
  match Store.find s.regions (slice * 2 ^ 32 + region) with
  | none => notEnabled "ROOT_LOST"
  | some r =>
    if 16 ≤ slice ∨ sl.st = .free ∨ r.kind ≠ 1 ∨ s.anyStall then notEnabled "ROOT_LOST"
    else
      let pa := nodeAt sl r 4 0
      let c := ((s.channelOf pa).map Prod.fst).getD 0
      let s1 := ((s.halt (coresOf (sl.numbered.map Prod.snd))).stopAll sl.cpn.toNat).updSlice slice (fun x => { x with failed := true })
      .next (((s.enabledIn slice).foldl State.toError s1).logErr (chDie c) 0x16 (chUnit c) r.vf pa 0)

end Sys2Proof.Machine
end

