-- ==== Sys2Proof/Machine/Security.lean ====
section
/-! DEFINITION. The host link: DOE, SPDM, evidence and keys (R472, R478–R482), IDE streams (R483), TDISP (R484–R490, R503, R504), host
MMIO and Nymlink accesses (R251, R437, R486). -/

namespace Sys2Proof.Machine

/-! ### DOE and SPDM (R472, R478, R479) -/

/-- Does the endpoint answer (R474)? Before die 0 reaches BSTATE 3 it asks the host to retry. -/
def State.hostUp (s : State) : Bool := (s.die 0).bstate == 3

/-- Configuration Request Retry Status: an answer without data; a DOE object is written and read by configuration requests (R472, R474). -/
def State.retry (s : State) : State := s.answer []

/-- What the host reads in PF BAR0 (R473): the window of a die. -/
def State.pfBar (s : State) (die o : Nat) : Option W64 :=
  let x := s.die die
  let m := s.mbox die 0
  match o with
  | 0x008 => some (m.outb.headD 0)
  | 0x010 => some (BitVec.ofNat 64 (m.inb.length + 256 * m.outb.length))
  | 0x018 => some (BitVec.ofNat 64 (x.bstate + 2 ^ 8 * x.bcause + 2 ^ 16 * s.sec.fusecnt + 2 ^ 24 * x.svn))
  | _ => none

/-- TotalVFs, First VF Offset and VF Stride of the SR-IOV capability (R472), as a configuration read gives them. -/
def sriovTotalVfs : Nat := 384
def sriovFirstOffset : Nat := 1
def sriovStride : Nat := 1

/-- What a configuration read of the SR-IOV capability of PF 0 returns at an offset into it, the layout being that of PCI Express (R472, R485, log 169): the device's
constants, and what the host has written. -/
def State.sriovRead (s : State) (o : Nat) : Option W32 :=
  let cfg (k : Nat) : W32 := (Store.get 0 s.sec.cfg k).setWidth 32
  match o with
  | 0x08 => some (cfg 2)
  | 0x0C => some (BitVec.ofNat 32 (sriovTotalVfs * 65536 + sriovTotalVfs))
  | 0x10 => some (cfg 3)
  | 0x14 => some (BitVec.ofNat 32 (sriovStride * 65536 + sriovFirstOffset))
  | 0x20 => some (cfg 4)
  | 0x24 => some (cfg 5)
  | 0x28 => some (cfg 6)
  | _ => none

/-- The requester ID of a VF (R472): VF n = VF.INDEX + 1 stands First VF Offset + (n − 1) × VF Stride behind PF 0. -/
def State.vfRid (s : State) (vf : Nat) : Nat := s.sec.pfrid + sriovFirstOffset + vf * sriovStride

/-- DOE_DISCOVERY: the protocols of the instance are discovery, CMA/SPDM and secured CMA/SPDM, of the PCI-SIG. -/
def execDoeDiscovery (index : Nat) (s : State) : Host.Outcome State Fault Refusal :=
  if !s.hostUp then .next s.retry
  else .next (s.answer (if index < 3 then [1, 0, BitVec.ofNat 8 index, if index = 2 then 0 else BitVec.ofNat 8 (index + 1)] else [0xFF, 0xFF, 0, 0]))

/-- An SPDM request that changes nothing: its text is an uninterpreted function of the request and of what it reports. -/
def State.spdm (s : State) (tag : Nat) (content : List Byte) : Host.Outcome State Fault Refusal :=
  .next (if s.hostUp then s.answer (Config.crypto tag content) else s.retry)

/-- The number of a session, as bytes. -/
def sesBytes (n : Nat) : List Byte := leBytes 4 n

/-- An SPDM answer whose text is given: for a session, under its record protection (log 168). -/
def State.says (s : State) (bs : List Byte) : Host.Outcome State Fault Refusal := .next (if s.hostUp then s.answer bs else s.retry)

/-- VERSION (R478): the responder speaks SPDM 1.3; the layout of the message is SPDM's (log 168). -/
def versionMsg : List Byte := [0x10, 0x04, 0, 0, 0, 1, 0x00, 0x13]

/-- CAPABILITIES (R478): certificates, challenges, signed measurements, encryption and MACs of sessions, key exchange, heartbeat and key update; the sizes are
free values. -/
def capabilitiesMsg (n : Nat) : List Byte :=
  [0x13, 0x61, 0, 0, 0] ++ leBytes 1 (Config.freeNat n) ++ [0, 0] ++ leBytes 4 (2 ^ 1 + 2 ^ 2 + 2 * 2 ^ 3 + 2 ^ 6 + 2 ^ 7 + 2 ^ 9 + 2 ^ 13 + 2 ^ 14) ++
  leBytes 4 (Config.freeNat (n + 1)) ++ leBytes 4 (Config.freeNat (n + 2))

/-- ALGORITHMS (R478): RSASSA-3072 and SHA-256, and in its tables FFDHE3072, AES-256-GCM, no requester signatures, and the SPDM key schedule. -/
def algorithmsMsg : List Byte :=
  [0x13, 0x63, 4, 0] ++ leBytes 2 52 ++ [1, 2] ++ leBytes 4 2 ++ leBytes 4 4 ++ leBytes 4 1 ++ List.replicate 11 0 ++ [0, 0, 0, 0, 0] ++
  [2, 0x20] ++ leBytes 2 2 ++ [3, 0x20] ++ leBytes 2 2 ++ [4, 0x20] ++ leBytes 2 0 ++ [5, 0x20] ++ leBytes 2 1

/-- GET_VERSION. -/
def execGetVersion (_session : Nat) (s : State) := s.says versionMsg
/-- GET_CAPABILITIES. -/
def execGetCapabilities (_session : Nat) (s : State) := { s with free := s.free + 3 }.says (capabilitiesMsg s.free)
/-- NEGOTIATE_ALGORITHMS. -/
def execNegotiateAlgorithms (_session : Nat) (s : State) := s.says algorithmsMsg
/-- GET_DIGESTS: of slot 0, the only one that holds a chain. -/
def execGetDigests (session : Nat) (s : State) := s.spdm 103 (sesBytes session ++ certChain)
/-- GET_CERTIFICATE: slot 0 holds the device identity chain. -/
def execGetCertificate (session slot : Nat) (s : State) := s.spdm (if slot = 0 then 104 else 199) (sesBytes session ++ leBytes 1 slot ++ (if slot = 0 then certChain else []))

/-- The layout that the digest covers (R480). -/
def State.layoutBytes (s : State) : List Byte :=
  (List.range 16).flatMap (fun i => ((s.slice i).row.take 0x3B) ++ ((s.slice i).row.drop 0x3C)) ++
  (List.range 384).flatMap (fun v =>
    let x := s.vf v
    [BitVec.ofNat 8 x.slice, BitVec.ofNat 8 x.local_, if x.enabled then 1 else 0, BitVec.ofNat 8 (s.tstate v)])

/-- A measurement block, computed live (R479): of blocks 2 to 5 the source is the firmware code region. -/
def State.measure (s : State) (i : Nat) : List Byte :=
  match i with
  | 1 => Config.crypto 1 []
  | 6 => leBytes 1 s.sec.fusecnt ++ leBytes 1 (s.die 0).svn
  | 7 => Config.crypto 7 s.layoutBytes
  | 8 => leBytes 8 s.sec.layoutgen.toNat
  | _ => Config.crypto 2 (s.die (i - 2)).code

/-- A signature over a transcript (R478). -/
def signed (bs : List Byte) : List Byte := bs ++ Config.crypto 3 bs

/-- CHALLENGE: signed with the identity key. -/
def execChallenge (session slot : Nat) (s : State) : Host.Outcome State Fault Refusal :=
  s.says (signed (Config.crypto 105 (sesBytes session ++ leBytes 1 slot)))

/-- GET_MEASUREMENTS: one block, or all of them. -/
def execGetMeasurements (session : Nat) (index : Nat) (s : State) : Host.Outcome State Fault Refusal :=
  s.says (signed (sesBytes session ++ (if 1 ≤ index ∧ index ≤ 8 then s.measure index else (List.range 8).flatMap (fun i => s.measure (i + 1)))))

/-- SPDM ERROR with a code. -/
def spdmError (code : Byte) : List Byte := [0x13, 0x7F, code, 0]

/-- KEY_EXCHANGE: it opens a session; the seventeenth gets ERROR Busy. -/
def execKeyExchange (session : Nat) (s : State) : Host.Outcome State Fault Refusal :=
  if !s.hostUp then .next s.retry
  else if s.sec.sessions.contains session then notEnabled "KEY_EXCHANGE"
  else if 16 ≤ s.sec.sessions.length then .next (s.answer (spdmError 0x03))
  else .next ({ s with sec := { s.sec with sessions := session :: s.sec.sessions } }.answer (signed (Config.crypto 106 (sesBytes session))))

/-- A request inside a session; outside one it is answered with an error. -/
def State.inSession (s : State) (session : Nat) (f : State → State) : Host.Outcome State Fault Refusal :=
  if !s.hostUp then .next s.retry
  else if !s.sec.sessions.contains session then .next (s.answer (Config.crypto 198 (sesBytes session)))
  else .next (f s)

/-- FINISH. -/
def execFinish (session : Nat) (s : State) := s.inSession session (fun t => t.answer (Config.crypto 107 (sesBytes session)))
/-- HEARTBEAT. -/
def execHeartbeat (session : Nat) (s : State) := s.inSession session (fun t => t.answer (Config.crypto 108 (sesBytes session)))
/-- KEY_UPDATE. -/
def execKeyUpdate (session : Nat) (s : State) := s.inSession session (fun t => t.answer (Config.crypto 109 (sesBytes session)))
/-- END_SESSION. -/
def execEndSession (session : Nat) (s : State) := s.inSession session (fun t =>
  { t with sec := { t.sec with sessions := t.sec.sessions.filter (· != session) } }.answer (Config.crypto 110 (sesBytes session)))

/-! ### EVIDENCE and INSTALL (R481, R482) -/

/-- EVIDENCE: only while no slice command is in progress. -/
def execEvidence (session vf : Nat) (meter : Bool) (nonce : BitVec 256) (s : State) : Host.Outcome State Fault Refusal :=
  if !s.hostUp then .next s.retry
  else if s.cmd.isSome ∨ s.recalls.any (fun r => r.cmd.isSome) ∨ 384 ≤ vf then notEnabled "EVIDENCE"
  else
    let s := if meter then s.estimateEnergy else s
    .next (s.answer (signed (sesBytes session ++ (List.range 8).flatMap (fun i => s.measure (i + 1)) ++ leBytes 1 (s.tstate vf) ++
      s.bytes (s.sltbase + 0xC400 + 64 * vf + 8) 8 ++
      (if meter then (List.range 7).flatMap (fun k => leBytes 8 (Store.get 0 (s.vf vf).meter k).toNat) ++ leBytes 8 0 else []) ++ leBytes 32 nonce.toNat)))

/-- INSTALL: one status byte. The state of the target decides before the generation does, as in the worked example of its chapter. -/
def execInstall (session kind target : Nat) (gen : W64) (key : BitVec 512) (s : State) : Host.Outcome State Fault Refusal :=
  if !s.hostUp then .next s.retry
  else if !(kind == 1 || kind == 2) then notEnabled "INSTALL"
  else if !s.sec.sessions.contains session then .next (s.answer [3])
  else if kind = 1 ∧ (384 ≤ target ∨ s.tstate target ≠ 1) then .next (s.answer [2])
  else if gen ≠ s.sec.layoutgen then .next (s.answer [1])
  else if kind = 1 then
    .next (((s.updVf target (fun x => { x with key := some key })).initRegionsOf target).answer [0])
  else if 16 ≤ target then .next (s.answer [2])
  else .next ((s.updSlice target (fun x => { x with migKey := some (key.setWidth 256) })).answer [0])

/-! ### IDE (R483, R503) -/

/-- A selective stream. -/
def State.stream (s : State) (n : Nat) : Stream := Store.get {} s.sec.streams n

/-- Change a stream, and its entry of the interface status page. -/
def State.updStream (s : State) (n : Nat) (f : Stream → Stream) : State :=
  let x := f (s.stream n)
  { s with sec := { s.sec with streams := Store.set {} s.sec.streams n x } }.tblWrite (s.sltbase + 0x14440 + 8 * n)
    (leBytes 8 ((if x.go then 1 else 0) + x.base % 65536 * 65536 + x.limit % 65536 * 2 ^ 32))

/-- Does the stream serve the VF? -/
def State.serves (s : State) (n vf : Nat) : Bool :=
  let x := s.stream n
  let rid := s.vfRid vf
  decide (x.base ≤ rid) && decide (rid ≤ x.limit)

/-- KEY_PROG. -/
def execKeyProg (session stream : Nat) (key : BitVec 256) (s : State) : Host.Outcome State Fault Refusal :=
  if 64 ≤ stream ∨ s.stalled 16 then notEnabled "KEY_PROG"
  else s.inSession session (fun t => (t.updStream stream (fun x => { x with key := some key })).answer (Config.crypto 111 (sesBytes session)))

/-- K_SET_GO: a stream with keys carries TLPs. -/
def execKSetGo (session stream : Nat) (s : State) : Host.Outcome State Fault Refusal :=
  if 64 ≤ stream ∨ s.stalled 16 then notEnabled "K_SET_GO"
  else s.inSession session (fun t => (t.updStream stream (fun x => { x with go := x.key.isSome })).answer (Config.crypto 112 (sesBytes session)))

/-- The stream that a VF's interface row names. -/
def State.boundStream (s : State) (vf : Nat) : Nat := (s.byte (s.sltbase + 0xC400 + 64 * vf + 1)).toNat

/-- VFs that are CONFIG_LOCKED or RUN. -/
def State.lockedVfs (s : State) : List Nat := (List.range 384).filter (fun v => s.tstate v == 1 || s.tstate v == 2)

/-- K_SET_STOP: bound VFs that are CONFIG_LOCKED or RUN go to ERROR. -/
def execKSetStop (session stream : Nat) (s : State) : Host.Outcome State Fault Refusal :=
  if 64 ≤ stream ∨ s.stalled 16 then notEnabled "K_SET_STOP"
  else s.inSession session (fun t =>
    let t1 := t.updStream stream (fun x => { x with go := false })
    (((t1.lockedVfs.filter (fun v => t1.boundStream v == stream)).foldl State.toError t1)).answer (Config.crypto 113 (sesBytes session)))

/-- A TLP for a VF that its stream does not serve is dropped, and logged in AER as an IDE check failure; a non-posted one completes with Unsupported Request,
an answer without data (R483). -/
def State.dropTlp (s : State) (posted : Bool) : State :=
  let t : State := { s with sec := { s.sec with ideDrops := s.sec.ideDrops + 1 } }
  if posted then t else t.answer []

/-- WRONG_STREAM_TLP: dropped and logged as an IDE check failure; a non-posted TLP completes with Unsupported Request, an empty answer. -/
def execWrongStreamTlp (stream vf : Nat) (posted : Bool) (s : State) : Host.Outcome State Fault Refusal :=
  if 64 ≤ stream ∨ 384 ≤ vf ∨ s.serves stream vf then notEnabled "WRONG_STREAM_TLP"
  else .next (s.dropTlp posted)

/-! ### Frozen registers (R485) -/

/-- The key of a configuration register. -/
def cfgKey : CfgReg → Nat
  | .sriovControl => 2
  | .numVfs => 3
  | .pageSize => 4
  | .vfBar0 => 5
  | .vfBar1 => 6
  | .command v => 1000 + v
  | .devctl v => 2000 + v
  | .ideCtl n => 3000 + n
  | .ideRid1 n => 4000 + n
  | .ideRid2 n => 5000 + n

/-- The VFs for which a register is frozen. -/
def State.frozenFor (s : State) (r : CfgReg) : List Nat :=
  match r with
  | .command v => s.lockedVfs.filter (· == v)
  | .devctl v => s.lockedVfs.filter (· == v)
  | .ideCtl n => s.lockedVfs.filter (fun v => s.boundStream v == n)
  | .ideRid1 n => s.lockedVfs.filter (fun v => s.boundStream v == n)
  | .ideRid2 n => s.lockedVfs.filter (fun v => s.boundStream v == n)
  | _ => s.lockedVfs

/-- The effect of a configuration write on what the port holds. -/
def State.cfgWrite (s : State) (r : CfgReg) (v : W64) : State :=
  let s1 : State := { s with sec := { s.sec with cfg := Store.set 0 s.sec.cfg (cfgKey r) v } }
  match r with
  | .vfBar0 => s1.putStatus
  | .vfBar1 => s1.putStatus
  | .ideRid1 n => s1.updStream n (fun x => { x with limit := (v.extractLsb' 8 16).toNat })
  | .ideRid2 n => s1.updStream n (fun x => { x with base := (v.extractLsb' 8 16).toNat })
  | _ => s1

/-- FROZEN_REGISTER_WRITE: the write takes effect, and each VF for which the register is frozen goes to ERROR with a message 0x39; before die 0
has booted the endpoint has the host retry (R474), an empty answer. -/
def execFrozenRegisterWrite (reg : CfgReg) (value : W64) (s : State) : Host.Outcome State Fault Refusal :=
  if !s.hostUp then .next (s.answer [])
  else if s.stalled 16 then notEnabled "FROZEN_REGISTER_WRITE"
  else .next ((s.frozenFor reg).foldl (fun t v => ((t.setTstate v 3).mboxIn 0 0 (BitVec.ofNat 64 (0x39 * 2 ^ 56 + v))).1) (s.cfgWrite reg value))

/-! ### TDISP (R484, R487–R490, R504) -/

/-- The response header. -/
def tdispHead (ty : Byte) (msg : List Byte) : List Byte := [0x10, ty, 0, 0] ++ leBytes 4 (field msg 4 4) ++ List.replicate 8 0

/-- TDISP_ERROR, 24 bytes. -/
def tdispErr (code : Nat) (msg : List Byte) : List Byte := tdispHead 0x7F msg ++ leBytes 4 code ++ leBytes 4 0

/-- VF.INDEX of a request. -/
def State.tdispVf (s : State) (msg : List Byte) : Nat := (field msg 4 4 % 65536 + 2 ^ 32 - s.sec.pfrid % 65536 - 1) % 2 ^ 32

/-- The tests of every request (R504): the code of the first that fails. -/
def State.tdispCommon (s : State) (session : Byte) (msg : List Byte) : Option Nat :=
  if session = 0xFF then some 0x0001
  else if field msg 0 1 ≠ 0x10 then some 0x0041
  else if 384 ≤ s.tdispVf msg then some 0x0101
  else none

/-- A TDISP request reaches die 0's firmware as every one does (`tdispPost`); its responder takes the message, and `f` answers an error code or the state and the
response, which stands in the response buffer (R488, R504). -/
def State.tdisp (s : State) (name : String) (ok : Nat → Bool) (session : Byte) (msg : List Byte) (f : State → Nat → Except Nat (State × List Byte)) :
    Host.Outcome State Fault Refusal :=
  if !s.hostUp then .next s.retry
  else if s.stalled 16 ∨ s.sec.doeBusy ∨ !ok (field msg 1 1) ∨ msg = [] ∨ 4096 < msg.length ∨ 16 ≤ (s.mbox 0 0).inb.length then notEnabled name
  else
    let s2 := (s.tdispPost (tdispWord session msg.length) msg).updMbox 0 0 (fun _ => s.mbox 0 0)
    let r := match s2.tdispCommon session msg with
      | some c => (s2, tdispErr c msg)
      | none => match f s2 (s2.tdispVf msg) with
        | .error c => (s2, tdispErr c msg)
        | .ok r => r
    .next ((r.1.tblWrite (r.1.sltbase + 0x13400) r.2).answer r.2)

/-- The interface row of a VF. -/
def State.ifRow (s : State) (vf : Nat) : Nat := s.sltbase + 0xC400 + 64 * vf

/-- The 32 bytes of RAND in the interface status page (R503). -/
def State.rand (s : State) : List Byte := s.bytes (s.sltbase + 0x14700) 32

/-- LOCK_INTERFACE_REQUEST: STREAM and NONCE, TSTATE 1, then LOCKGEN of a generation that counts the change. -/
def execLockInterfaceRequest (session : Byte) (msg : List Byte) (s : State) : Host.Outcome State Fault Refusal :=
  s.tdisp "LOCK_INTERFACE_REQUEST" (· == 0x83) session msg (fun t v =>
    let st := field msg 18 1
    if !(t.vf v).enabled ∨ t.tstate v ≠ 0 then .error 0x0004
    else if field msg 16 2 / 8 % 2 ≠ 0 ∨ 64 ≤ st ∨ !(t.stream st).go ∨ !t.serves st v then .error 0x0001
    else
      let nonce := t.rand
      let t1 := (t.updVf v (fun x => { x with mmioOff := BitVec.ofNat 64 (field msg 20 8) })).tblWrite (t.ifRow v + 1) [BitVec.ofNat 8 st]
      let t2 := (t1.tblWrite (t1.ifRow v + 0x10) nonce).tblWrite (t1.ifRow v) [1]
      let t3 := t2.tblWrite (t2.ifRow v + 8) (leBytes 8 t2.sec.layoutgen.toNat)
      .ok (t3, tdispHead 0x03 msg ++ nonce))

/-- The device interface report of a VF, 52 bytes (R490). -/
def State.report (s : State) (vf : Nat) : List Byte :=
  let bar := s.nat (s.sltbase + 0x14408) 8
  let page : W64 := BitVec.ofNat 64 (bar / 4096 + vf) + (s.vf vf).mmioOff
  leBytes 4 3 ++ leBytes 4 0 ++ leBytes 4 0 ++ leBytes 4 1 ++ leBytes 8 page.toNat ++ leBytes 4 1 ++ leBytes 4 0 ++ leBytes 4 16 ++
  leBytes 2 vf ++ s.bytes (s.vfRowAt vf + 0x1C) 2 ++ leBytes 4 0 ++ s.bytes (s.ifRow vf + 8) 8

/-- GET_DEVICE_INTERFACE_REPORT. -/
def execGetDeviceInterfaceReport (session : Byte) (msg : List Byte) (s : State) : Host.Outcome State Fault Refusal :=
  s.tdisp "GET_DEVICE_INTERFACE_REPORT" (· == 0x84) session msg (fun t v =>
    let o := field msg 16 2
    if t.tstate v ≠ 1 ∧ t.tstate v ≠ 2 then .error 0x0004
    else if 52 ≤ o then .error 0x0001
    else
      let p := min (field msg 18 2) (52 - o)
      .ok (t, tdispHead 0x04 msg ++ leBytes 2 p ++ leBytes 2 (52 - o - p) ++ ((t.report v).drop o).take p))

/-- START_INTERFACE_REQUEST. -/
def execStartInterfaceRequest (session : Byte) (msg : List Byte) (s : State) : Host.Outcome State Fault Refusal :=
  s.tdisp "START_INTERFACE_REQUEST" (· == 0x86) session msg (fun t v =>
    if t.tstate v ≠ 1 then .error 0x0004
    else if (msg.drop 16).take 32 ≠ t.bytes (t.ifRow v + 0x10) 32 then .error 0x0102
    else .ok (t.setTstate v 2, tdispHead 0x06 msg))

/-- STOP_INTERFACE_REQUEST: CONFIG_UNLOCKED, a fresh key, and the VF's data regions are initialised (R484). -/
def execStopInterfaceRequest (session : Byte) (msg : List Byte) (s : State) : Host.Outcome State Fault Refusal :=
  s.tdisp "STOP_INTERFACE_REQUEST" (· == 0x87) session msg (fun t v =>
    let t1 := (t.setTstate v 0).updVf v (fun x => { x with key := if x.enabled then some (Config.deriveKey t.free v) else x.key })
    .ok ({ t1 with free := t1.free + 1 }.initRegionsOf v, tdispHead 0x07 msg))

/-- UNSUPPORTED_TDISP_REQUEST. -/
def execUnsupportedTdispRequest (session : Byte) (msg : List Byte) (s : State) : Host.Outcome State Fault Refusal :=
  s.tdisp "UNSUPPORTED_TDISP_REQUEST" (fun n => !(n == 0x83 || n == 0x84 || n == 0x86 || n == 0x87)) session msg (fun _ _ => .error 0x0007)

/-- TDISP_ABORT: message 0x3A; a later reply to the request is discarded (R488). -/
def execTdispAbort (s : State) : Host.Outcome State Fault Refusal :=
  let r := s.mboxIn 0 0 (0x3A00000000000000 : W64)
  .next { r.1 with sec := { r.1.sec with doeAborted := r.1.sec.doeBusy } }

/-! ### Host MMIO and Nymlink (R251, R437, R486) -/

/-- Is a host access to a VF's BAR0 accepted (R486)? -/
def State.mmioOk (s : State) (vf : Nat) (tee : Bool) (stream : Nat) : Bool :=
  match s.tstate vf with
  | 0 => true
  | 1 => !tee
  | 2 => tee && stream == s.boundStream vf
  | _ => false

/-- HOST_MMIO: an accepted doorbell write refills its queue (R435); a read's value is not given; other writes are dropped and other reads
complete with Unsupported Request, an empty answer. -/
def execHostMmio (vf offset : Nat) (write tee : Bool) (stream : Nat) (s : State) : Host.Outcome State Fault Refusal :=
  if 384 ≤ vf ∨ 4096 ≤ offset ∨ offset % 8 ≠ 0 ∨ !s.hostUp then notEnabled "HOST_MMIO"
  else if stream < 64 ∧ s.serves stream vf = false then .next (s.dropTlp write)
  else if !s.mmioOk vf tee stream then .next (if write then s else s.answer [])
  else if write then
    let c := s.cpOf vf
    let q := offset / 8
    .next (if (s.vf vf).enabled && s.mayRefill c q && (s.queue c q).vf == vf then s.refill c q else s)
  else .next ({ s with free := s.free + 1 }.answer (leBytes 8 ((Config.freeWord s.free).setWidth 64).toNat))

/-- Bytes within one line at an address with memory behind it. -/
def State.oneLine (s : State) (a n : Nat) : Bool := s.backed a && decide (0 < n) && decide (a / 128 = (a + n - 1) / 128)

/-- An access by Nymlink is checked for races in each sector that it touches of every VF's race-check pages, with writer tag 0xFFF and the package's
generation (R255, R257, R530). -/
def State.raceNymlink (s : State) (addr n : Nat) (wrote : Option (BitVec 3 × Nat)) : State :=
  ((List.range 384).filter (fun v => (s.vf v).enabled && s.racing (s.vf v).slice true)).foldl (fun t v =>
    (List.range (n / 32 + 2)).foldl (fun t i =>
      let p := sectorPart addr n i
      if p.2 = 0 then t else (t.rchkVas v p.1).foldl (fun u va => u.raceUnit v (u.vf v).slice 0 0 va (u.homeOf p.1) true wrote 16) t) t) s

/-- NYMLINK_READ: performed at the home; poisoned data completes without data. -/
def execNymlinkRead (addr bytes : Nat) (s : State) : Host.Outcome State Fault Refusal :=
  if !s.oneLine addr bytes then notEnabled "NYMLINK_READ"
  else .next ((s.raceNymlink addr bytes none).answer (if s.poisoned addr bytes then [] else s.bytesFor fwVf addr bytes))

/-- NYMLINK_WRITE: commits at its home under the package counter, as one write within a line; a write of part of a poisoned word is not
committed (R235, R426). -/
def execNymlinkWrite (addr : Nat) (data : List Byte) (s : State) : Host.Outcome State Fault Refusal :=
  if !s.oneLine addr data.length ∨ s.pkgRenewing then notEnabled "NYMLINK_WRITE"
  else if s.partPoison addr data.length then .next s
  else
    let c := s.commitGlobal 16 fwVf addr data 0 0 3
    .next (c.1.raceNymlink addr data.length (some (5, c.2)))

end Sys2Proof.Machine
end

