-- ==== Sys2Proof/Machine/Fabric.lean ====
section
/-! DEFINITION. The fabric agent (chapter 23): links (R507–R509), routes (R511), messages and their order (R512–R515), sending shares
(R516–R518), remote access (R519–R521), stamps (R522), the states of coherent lines (R523) and failover (R524). -/

namespace Sys2Proof.Machine

/-! ### Ports -/

/-- Lanes of a WIDTH code (R517). -/
def widthLanes (w : Nat) : Nat := if w = 3 then 4 else w

/-- The widest WIDTH code that holds no retired lane, 0 for none (R509). -/
def Port.widest (p : Port) : Nat :=
  if p.retired = 0 then 3
  else if p.retired.extractLsb' 0 2 = 0 ∨ p.retired.extractLsb' 2 2 = 0 then 2
  else if p.retired ≠ 15 then 1 else 0

/-- Score of a lane, saturating (R509). -/
def Port.addHealth (p : Port) (lane n : Nat) : Port := { p with health := p.health.modify lane (fun h => min 0xFFFF (h + n)) }

/-- The port goes DOWN. -/
def Port.goDown (p : Port) : Port := { p with st := .down, width := 0, flitFails := 0, trainFails := 0, marked := false }
/-- The port enters RETRAIN. -/
def Port.goRetrain (p : Port) : Port := { p with st := .retrain, retrains := p.retrains + 1, trainFails := 0, flitFails := 0, marked := false }

/-- LINK_TRAINED (R508): training completes at a width of `lanes` lanes that holds no retired lane. -/
def execLinkTrained (port lanes : Nat) (s : State) : Host.Outcome State Fault Refusal :=
  let p := s.port port
  let w := if lanes = 4 then 3 else lanes
  if 16 ≤ port ∨ !s.powered ∨ p.st ≠ .down ∨ s.fab.disable.getLsbD port ∨ (lanes ≠ 1 ∧ lanes ≠ 2 ∧ lanes ≠ 4) ∨ p.widest < w then
    notEnabled "LINK_TRAINED"
  else .next (s.updPort port (fun p => { p with st := .normal, width := w, flitFails := 0, trainFails := 0 }))

/-- CRC_FAILURE (R508, R509): a flit fails CRC on a lane; the third failure of one flit leads to RETRAIN. -/
def execCrcFailure (port lane : Nat) (s : State) : Host.Outcome State Fault Refusal :=
  let p := s.port port
  if 16 ≤ port ∨ 4 ≤ lane ∨ (p.st ≠ .normal ∧ p.st ≠ .replay) then notEnabled "CRC_FAILURE"
  else
    .next (s.updPort port (fun p =>
      let n := if p.st = .normal then 1 else p.flitFails + 1
      let p1 := { p with crc := p.crc + 1 }.addHealth lane 64
      if 3 ≤ n then p1.goRetrain else { p1 with st := .replay, flitFails := n }))

/-- REPLAY_PASSED (R508): NORMAL again; with a lane marked meanwhile, the port retrains at this flit boundary (R509). -/
def execReplayPassed (port : Nat) (s : State) : Host.Outcome State Fault Refusal :=
  if 16 ≤ port ∨ (s.port port).st ≠ .replay then notEnabled "REPLAY_PASSED"
  else .next (s.updPort port (fun p => if p.marked then p.goRetrain else { p with st := .normal, flitFails := 0 }))

/-- RETRAIN (R508, R509): a training succeeds or fails. -/
def execRetrain (port : Nat) (ok : Bool) (s : State) : Host.Outcome State Fault Refusal :=
  if 16 ≤ port ∨ (s.port port).st ≠ .retrain then notEnabled "RETRAIN"
  else
    .next (s.updPort port (fun p =>
      if p.widest = 0 then p.goDown
      else if ok then { p with st := .normal, width := p.widest, trainFails := 0, flitFails := 0 }
      else if 2 ≤ p.trainFails then p.goDown
      else { p with trainFails := p.trainFails + 1 }))

/-- LANE_RETIRE (R509). -/
def execLaneRetire (port lane : Nat) (s : State) : Host.Outcome State Fault Refusal :=
  let p := s.port port
  if 16 ≤ port ∨ 4 ≤ lane ∨ p.retired.getLsbD lane ∨ p.health.getD lane 0 ≤ s.fab.lhthresh then notEnabled "LANE_RETIRE"
  else
    .next (s.updPort port (fun p =>
      let p1 := { p with retired := p.retired ||| (1 <<< lane) }
      if p.st = .normal then p1.goRetrain else { p1 with marked := p.st == .replay }))

/-- HEALTH_DECAY (R509). -/
def execHealthDecay (port : Nat) (s : State) : Host.Outcome State Fault Refusal :=
  if 16 ≤ port ∨ !s.powered then notEnabled "HEALTH_DECAY"
  else .next (s.updPort port (fun p => { p with health := p.health.map (· / 2) }))

/-- PORT_DISABLE (R508, R517). -/
def execPortDisable (port : Nat) (s : State) : Host.Outcome State Fault Refusal :=
  if 16 ≤ port ∨ !s.fab.disable.getLsbD port ∨ (s.port port).st = .down then notEnabled "PORT_DISABLE"
  else .next (s.updPort port Port.goDown)

/-! ### Messages (R512–R516) -/

/-- The port that a non-critical message takes (R514). -/
def State.wayOf (s : State) (rt : Route) : Option Nat :=
  if s.portUp rt.porta then some rt.porta else if s.portUp rt.portb then some rt.portb else none

/-- Tags in use. -/
def State.tagUsed (s : State) (t : Nat) : Bool :=
  s.fab.probes.contains t || s.reqs.any (fun e => match e.2.fab with | .sent x _ => x == t | .unsent => false)

/-- The next tag that is free. -/
def State.freshTag (s : State) : Nat → Nat → Nat
  | t, 0 => t % 65536
  | t, n + 1 => if s.tagUsed (t % 65536) then s.freshTag (t + 1) n else t % 65536

/-- Did the critical message arrive as the next of its directory (R513)? -/
def State.inWindow (s : State) (m : FabMsg) : Bool := decide ((m.cseq - Store.get 0 s.fab.crx m.ndir - 1).toNat < 2 ^ 31)

/-- May a message of a KIND arrive at the port: the link is not DOWN, and a critical one lies in its window? -/
def State.arrives (s : State) (kind : Nat) (m : FabMsg) (p : Nat) : Bool :=
  m.kind == kind && decide (p < 16) && (s.port p).st != .down && decide (m.ndir < 256) && (!m.crit || s.inWindow m)

/-- A message arrives: a critical one moves the window, the symbols that FEC corrected on the way (a number the manual leaves to the
link) are counted (R509, R513), and the counter of a response is heard (R522). -/
def State.msgArrived (s : State) (m : FabMsg) (p : Nat) : State :=
  let n := Config.freeNat s.free % 65536
  let lane := Config.freeNat (s.free + 1) % 4
  let s1 := { s with free := s.free + 2 }.updPort p (fun x => { x with fec := x.fec + BitVec.ofNat 32 n }.addHealth lane n)
  { s1 with fab := { s1.fab with
      crx := if m.crit then Store.set 0 s1.fab.crx m.ndir m.cseq else s1.fab.crx,
      heard := if m.kind = 8 then Store.set 0 s1.fab.heard m.ndir (max (Store.get 0 s1.fab.heard m.ndir) m.stamp) else s1.fab.heard } }

/-- BADMSG (R512): a message that no node sends is discarded and counted. -/
def execBadmsg (m : FabMsg) (port : Nat) (s : State) : Host.Outcome State Fault Refusal :=
  if m.kind = 8 ∨ m.kind = 9 ∨ m.kind = 11 ∨ 16 ≤ port ∨ (s.port port).st = .down then notEnabled "BADMSG"
  else .next { s with fab := { s.fab with badmsg := s.fab.badmsg + 1 } }

/-- CRITICAL_DUPLICATE (R513). -/
def execCriticalDuplicate (m : FabMsg) (port : Nat) (s : State) : Host.Outcome State Fault Refusal :=
  if (m.kind ≠ 8 ∧ m.kind ≠ 9 ∧ m.kind ≠ 11) ∨ !m.crit ∨ s.inWindow m ∨ 16 ≤ port ∨ (s.port port).st = .down then notEnabled "CRITICAL_DUPLICATE"
  else .next (s.updPort port (fun p => { p with dups := p.dups + 1 }))

/-- What came for a lane of a stream; an answer to a walk that has been discarded or rewound since is not taken (R309, R311). -/
def State.streamGot (s : State) (r : Req) (g k : Nat) (x : Byte × W32 × W32) : State :=
  s.updGroup g (fun gr => gr.updQ k (fun q => if q.asked = some r.seq then { q with got := Store.put q.got r.lane x } else q))

/-- A line of zeros that units of a slice read once. -/
def State.asideZeros (s : State) (r : Req) : State :=
  { s with fab := { s.fab with lines := { slice := asideOf r.g r.slice, vf := r.vf, fa := r.pa / 128 * 128, st := .S, data := List.replicate 128 0, stamp := 0 } ::
      s.fab.lines } }

/-- A request of a command processor fails: a line is not asked for again, so that the access that wanted it fails (R436), and a launch whose
completion store it was completes with STATE 3 (R250). A SIGNAL whose word cannot be written, a poisoned word of an add among them, stops the queue
with ERR 3 (R434, R438). -/
def State.failCp (s : State) (r : Req) (c q : Nat) : State :=
  if r.kind.writes then
    match (s.queue c q).begun.find? (fun b => !b.fresh && b.e.type == 3 && b.e.addr == r.va) with
    | some b => s.stopQueue c q 3 b.n false
    | none => { s with launches := s.launches.map (fun e =>
        if e.2.cp = c ∧ e.2.q = q ∧ e.2.sent ∧ e.2.compl = r.va then (e.1, { e.2 with failed := true }) else e) }
  else s.updQueue c q (fun x => { x with lost := r.pa / 128 :: x.lost })

/-- The request fails with REMOTE or POISON (R521, R426): a thread parks imprecisely, and what a unit had begun ends in its own way. A shadow word
that cannot be had counts in SHMISS and reads as zero, as one whose translation fails (R258, log 126). -/
def State.failAsk (s : State) (key : Nat) (r : Req) (code : Byte) (extra : W32) : State :=
  match r.asker with
  | .group _ => if r.kind = .load then (s.sameRead key r).foldl (fun t e => t.failReq e.1 e.2 code extra) s else s.failReq key r code extra
  | .job jk => (s.dropReq key).updJob jk (fun j => { j with stopped := true })
  | .stream g k _ => (s.dropReq key).streamGot r g k (code, extra, 0)
  | .matrix c n =>
    (match Store.find (s.core c).mq n with
     | some o => ((s.dropReq key).opImprecise o code extra (some r.va)).updCore c (fun x =>
         { x with mq := Store.upd x.mq n (fun o => { o with merged := some 0 }) })
     | none => s.dropReq key)
  | .cp c q => (s.dropReq key).failCp r c q
  | .copy g => (s.dropReq key).updGroup g (fun gr =>
      (gr.wake .reply).upd [r.lane] (fun i l => l.imprecise i gr.trapvec code extra r.pc (some r.va) l.issued))
  | .shadow vf => ((s.dropReq key).countRace vf (fun v => { v with shmiss := v.shmiss + 1 })).asideZeros r
  | .pref _ => s.dropReq key

/-! ### Requests (R519, R520, R522) -/

/-- Does an earlier load of the same instruction read the sector already (R207)? -/
def State.readAhead (s : State) (key : Nat) (r : Req) : Bool := s.reqs.any (fun e =>
  decide (e.1 < key) && e.2.kind == .load && e.2.g == r.g && e.2.seq == r.seq && e.2.coh && e.2.sp == r.sp && e.2.pa / 32 == r.pa / 32)

/-- Does a request wait to be sent as a message of KIND k? -/
def State.waitsAs (s : State) (key : Nat) (r : Req) (k : Nat) : Bool :=
  r.coh && r.fab == .unsent && s.needs r == some k && !s.reqBlocked key r && !(k == 1 && s.readAhead key r) && (k == 1 || !s.stalled r.slice)

/-- Does an earlier message of the VF wait for the same port (R518)? -/
def State.earlierWaits (s : State) (key : Nat) (r : Req) (p : Nat) : Bool :=
  s.reqs.any (fun e => decide (e.1 < key) && e.2.vf == r.vf && [1, 2, 3].any (s.waitsAs e.1 e.2) &&
    (match s.route e.2.vf e.2.pa with | some rt => s.wayOf rt == some p | none => false))

/-- The highest counter of a slice heard anywhere in the package. -/
def State.sliceHighest (s : State) (sl : Nat) : Nat :=
  (s.dirsOf sl).foldl (fun m h => max m (s.counter sl h)) (s.heard.foldl (fun m e => if e.1 % 32768 / 1024 = sl then max m e.2 else m) 0)

/-- STAMP of a request (R522). -/
def State.reqStamp (s : State) (sl : Nat) (w : W64) : Nat :=
  Store.get 0 s.fab.base sl + max (s.sliceHighest sl) (s.presentedStamp sl w)

/-- AOP of an atomic or a reduction: its opcode less 0x148 (R215, R512). -/
def aopOf (op : AtomOp) (red : Bool) : Nat :=
  (if red then 0x10 else 0) +
  (match op with | .add => 0 | .min => 1 | .max => 2 | .and => 3 | .or => 4 | .xor => 5 | .exch => 6 | .cas => 7)

/-- The request's message (R512). -/
def State.reqMsg (s : State) (r : Req) (rt : Route) (kind tag : Nat) : FabMsg :=
  let m := s.fabMsg kind rt.ndir r.slice tag (if kind ≤ 2 then r.pa / 128 * 128 else r.pa) (s.reqStamp r.slice r.wit)
  match r.kind with
  | .load => { m with nc := s.ncMark r.pa || r.hint == 2 }
  | .store => if kind = 2 then m else { m with nc := s.ncMark r.pa, poison := r.poison, off := r.pa % 128, len := r.bytes - 1, data := leBytes r.bytes r.data.toNat }
  | .atom op red =>
    if kind = 2 then m
    else
      let n := if op = .cas then 2 * r.bytes else r.bytes
      { m with nc := s.ncMark r.pa, off := r.pa % 128, len := n - 1, aop := aopOf op red, wid := r.width.toNat, data := leBytes n r.data.toNat }

/-- A shadow word that a thread's or a command processor's access needs, on a coherent line that must come first (R255, R257). -/
def State.shadowFirst (s : State) (r : Req) : Option Nat := (s.reqCore r).bind (fun core => s.shadowAsk r.vf r.slice core r.va r.rchk)

/-- Does a failover of the directory wait for slices to renew, so that new requests for it wait (R524)? -/
def State.failingAt (s : State) (dir : Nat) : Bool := s.fab.failing.any (fun f => f.dir == dir)

/-- The directory to which a request goes: while a failover is under way, a load or a read for ownership that was outstanding at its
FAIL goes to the secondary; any other request waits (R524). -/
def State.dirFor (s : State) (r : Req) (rt : Route) (kind : Nat) : Option Nat :=
  if !s.failingAt rt.ndir then some rt.ndir
  else if kind ≤ 2 ∧ r.home = 0x200 + rt.ndir2 then some rt.ndir2 else none

/-- Send a request's message and wait for its response; with no route it fails (R511), with no room in the remote-wait table or the
bucket, or no port, it waits (R514, R518, R520). The shadow word of a race-check page comes before it. -/
def State.request (s : State) (name : String) (key kind : Nat) : Host.Outcome State Fault Refusal :=
  match Store.find s.reqs key with
  | none => notEnabled name
  | some r =>
    if !s.waitsAs key r kind then notEnabled name
    else
      match s.route r.vf r.pa with
      | none => .next (s.failAsk key r 0x17 4)
      | some rt =>
        let tag := s.freshTag s.fab.nextTag 8193
        let dir := (s.dirFor r rt kind).getD rt.ndir
        let m := { s.reqMsg r rt kind tag with ndir := dir }
        let go (t : State) : State :=
          { t with reqs := Store.put t.reqs key { r with fab := .sent tag kind, home := 0x200 + dir }, fab := { t.fab with nextTag := tag + 1 } }
        match s.shadowFirst r with
        | some fa =>
          if s.unitBusy (shadowG r.vf) then notEnabled name
          else .next (s.pushUnit { unitReq s (shadowG r.vf) r.vf .load (s.shadowVa r.vf r.va) fa [] 0 with slice := r.slice })
        | none =>
        if 2048 ≤ s.remoteWaits (s.reqDie r) ∨ s.dirFor r rt kind = none then notEnabled name
        else if kind = 4 then
          if s.portUp rt.porta || s.portUp rt.portb then .next (go (s.sendCrit r.vf rt m)) else notEnabled name
        else
          match s.wayOf rt with
          | none => notEnabled name
          | some p =>
            if Store.get 0 (s.port p).level r.vf < fabTokens m ∨ s.earlierWaits key r p then notEnabled name
            else .next (go (s.sendOn r.vf m p))

/-- RD (R519). -/
def execRd (r : Nat) (s : State) := s.request "RD" r 1
/-- RDX (R519). -/
def execRdx (r : Nat) (s : State) := s.request "RDX" r 2
/-- WR (R519, R523). -/
def execWr (r : Nat) (s : State) := s.request "WR" r 3
/-- ATM (R519). -/
def execAtm (r : Nat) (s : State) := s.request "ATM" r 4

/-- A route that names a directory, of an enabled VF. -/
def State.routeTo (s : State) (dir : Nat) : Option Route := s.fab.routes.find? (fun r => r.ndir == dir && (s.vf r.vf).enabled)

/-- The slices that use a directory (R511). -/
def State.usersOf (s : State) (dir : Nat) : List Nat :=
  (List.range 16).filter (fun i => (s.slice i).st != .free && (s.dirsOf i).contains (0x200 + dir))

/-- PROBE (R522): it is no tenant's message, so no bucket holds it back. -/
def execProbe (dir : Nat) (s : State) : Host.Outcome State Fault Refusal :=
  match s.routeTo dir with
  | none => notEnabled "PROBE"
  | some rt =>
    match s.wayOf rt, s.usersOf dir with
    | some p, sl :: rest =>
      let tag := s.freshTag s.fab.nextTag 8193
      let m := s.fabMsg 5 dir sl tag 0 ((sl :: rest).foldl (fun x i => max x (s.reqStamp i 0)) 0)
      .next { s with fab := { s.fab with out := s.fab.out ++ [(p, m)], probes := tag :: s.fab.probes, nextTag := tag + 1 } }
    | _, _ => notEnabled "PROBE"

/-- REMOTE_TIMEOUT (R514, R521). -/
def execRemoteTimeout (r : Nat) (s : State) : Host.Outcome State Fault Refusal :=
  match Store.find s.reqs r with
  | none => notEnabled "REMOTE_TIMEOUT"
  | some q =>
    let waits := match q.fab with | .sent _ _ => true | .unsent => [1, 2, 3, 4].any (s.waitsAs r q)
    if q.coh && waits then .next (s.failAsk r q 0x17 1) else notEnabled "REMOTE_TIMEOUT"

/-! ### Recalls (R523) -/

/-- The package's copies of a line, of every slice. -/
def State.copiesOf (s : State) (fa : Nat) : List FabLine := s.fab.lines.filter (fun l => l.fa == fa)

/-- The copy whose data counts: one in M or O where there is one. -/
def State.mainCopy (s : State) (fa : Nat) : Option FabLine :=
  match (s.copiesOf fa).find? (fun l => l.st == .M || l.st == .O) with
  | some l => some l
  | none => (s.copiesOf fa).head?

/-- Add a no-cache mark; when 1024 stand, the oldest expires (R523). -/
def State.addNc (s : State) (fa : Nat) : State :=
  let l := s.fab.nc.filter (fun e => e.1 != fa) ++ [(fa, s.time)]
  { s with fab := { s.fab with nc := l.drop (l.length - 1024) } }

/-- Must the recall wait for a response (R523)? -/
def State.defers (s : State) (m : FabMsg) : Bool :=
  (s.copiesOf m.fa).all (fun l => decide (l.stamp < m.stamp)) && s.lineBusy m.fa

/-- Carry a recall out: a remote read that leaves this package the owner (`shared`) takes M to O; another invalidates, or marks the line,
and is answered. -/
def State.recall (s : State) (m : FabMsg) : State :=
  let main := s.mainCopy m.fa
  let rt := match main with
    | some l => s.route l.vf m.fa
    | none => s.routeTo m.ndir
  match rt with
  | none => { s with fab := { s.fab with lines := s.fab.lines.filter (fun l => l.fa != m.fa) } }
  | some rt =>
    if m.shared then
      let s1 := s.writeBack rt m.ndir m.tag m.fa main
      { s1 with fab := { s1.fab with lines := s1.fab.lines.map (fun l => if l.fa = m.fa ∧ l.st = .M then { l with st := .O } else l) } }
    else
      let s1 := s.writeBack rt m.ndir m.tag m.fa main
      let s2 := { s1 with fab := { s1.fab with lines := s1.fab.lines.filter (fun l => l.fa != m.fa) } }
      if m.nc && main.isSome then s2.addNc m.fa else s2

/-- RCL (R523). -/
def execRcl (m : FabMsg) (port : Nat) (s : State) : Host.Outcome State Fault Refusal :=
  if !s.arrives 9 m port ∨ m.fa % 128 ≠ 0 then notEnabled "RCL"
  else
    let s1 := (s.msgArrived m port).meterAdd (((s.mainCopy m.fa).map FabLine.vf).getD fwVf) 4 32
    .next (if s1.defers m then { s1 with fab := { s1.fab with deferred := s1.fab.deferred ++ [(m, port)] } } else s1.recall m)

/-- Recalls deferred until now whose response has been applied. -/
def State.retryRecalls (s : State) : State :=
  let l := s.fab.deferred
  l.foldl (fun t e => if t.defers e.1 then { t with fab := { t.fab with deferred := t.fab.deferred ++ [e] } } else t.recall e.1)
    { s with fab := { s.fab with deferred := [] } }

/-- LINE_EVICT (R523). -/
def execLineEvict (slice fa : Nat) (s : State) : Host.Outcome State Fault Refusal :=
  match s.fab.lines.find? (fun l => l.slice == slice && l.fa == fa) with
  | none => notEnabled "LINE_EVICT"
  | some l =>
    if 2 ^ 20 ≤ slice ∨ s.lineBusy fa then notEnabled "LINE_EVICT" else .next (s.cohEvict l)

/-- Has the recall that set the no-cache mark of a line been 10 ms ago (R523)? While no clock runs, time passes uncounted (log 159). -/
def State.ncOver (s : State) (fa : Nat) : Bool := s.fab.nc.any (fun e => e.1 == fa && (decide (e.2 + 16000000 ≤ s.time) || !s.clockRuns))

/-- NC_EXPIRE (R523): 10 ms after the recall. -/
def execNcExpire (fa : Nat) (s : State) : Host.Outcome State Fault Refusal :=
  if s.ncOver fa && fa % 128 == 0 then .next { s with fab := { s.fab with nc := s.fab.nc.filter (fun e => e.1 != fa) } } else notEnabled "NC_EXPIRE"

/-! ### Responses (R519–R523) -/

/-- Put a line in its caching bank, which has room for it in the slice's ways (R409, R519); one that stands aside for a unit takes no place there. -/
def State.putLine (s : State) (l : FabLine) : State :=
  let s := if (s.fabLine l.slice l.vf l.fa).isSome ∨ 2 ^ 20 ≤ l.slice then s else s.l2Room l.slice (s.cacheBank l.slice l.fa)
  { s with fab := { s.fab with lines := l :: s.fab.lines.filter (fun x => !(x.slice == l.slice && x.vf == l.vf && x.fa == l.fa)) } }

/-- The loads of a thread whose line came without being allocated are performed, and L1 keeps no older copy of the sector (R207, R219, R243). -/
def State.loadOnce (s : State) (key : Nat) (r : Req) (data : List Byte) : State :=
  let s1 := match s.group r.g with | some gr => s.l1Drop gr.core r.pa true | none => s
  (s.sameRead key r).foldl (fun t e => t.loadLane e.1 e.2 ((data.drop (e.2.pa % 128)).take e.2.bytes)) s1

/-- A line that came for a prefetch with .keep is in the L1 of the core, but for a race-check page (R228, R257). -/
def State.prefDone (s : State) (r : Req) (g : Nat) : State :=
  match s.group g with
  | some gr => if r.hint = 0 ∧ !s.racing r.slice r.rchk then s.l1Put gr.core r.vf r.slice r.pa true r.home 15 else s
  | none => s

/-- The bytes of a stream's lane have come: they are checked for a race (R257, R309). -/
def State.streamDone (s : State) (key : Nat) (r : Req) (g k : Nat) (data : List Byte) : State :=
  ((s.dropReq key).streamGot r g k (0, 0, extended r.width (leNat ((data.drop (r.pa % 128)).take r.bytes)))).raceLane
    r.vf r.slice g r.lane r.va r.pc r.issued r.home r.rchk false none

/-- RD is answered: the line allocates, in S when another holder is listed and else in E, unless it is under a no-cache mark or the load
carries the hint; then the value is delivered (R208, R217, R519). -/
def State.rdDone (s : State) (key : Nat) (r : Req) (m : FabMsg) : State :=
  let fa := r.pa / 128 * 128
  let alloc := !s.ncMark r.pa && r.hint != 2
  let line : FabLine := { slice := r.slice, vf := r.vf, fa := fa, st := if m.shared then .S else .E, data := m.data, stamp := m.stamp }
  let s1 := if alloc then s.putLine line else s
  let s2 := if alloc then s1 else s1.putLine { line with slice := asideOf r.g r.slice, st := .S }
  match r.asker with
  | .group _ => if alloc then s1.loadAtHome key r else s1.loadOnce key r m.data
  | .stream g k false => s1.streamDone key r g k m.data
  | .pref g => if alloc then (s1.dropReq key).prefDone r g else s1.dropReq key
  | .copy g => (s2.dropReq key).updGroup g (fun gr => gr.wake .reply)
  | .job _ | .stream _ _ true | .matrix _ _ | .cp _ _ | .shadow _ => s2.dropReq key

/-- A write at a directory has its stamp: its witness reaches whoever asked (R221, R334, R359, R522). -/
def State.wrDone (s : State) (key : Nat) (r : Req) (m : FabMsg) (old : Nat) : State :=
  let q := { r with home := 0x200 + m.ndir }
  let n := m.stamp - Store.get 0 s.fab.base r.slice
  match r.asker with
  | .group _ =>
    let s1 := s.raceThread q r.kind.atomic (some (r.scope, n))
    s1.writeDone key q n (match r.kind with
      | .atom _ red => atomDst red old (s1.commitWit q n)
      | _ => (s1.commitWit q n).zeroExtend 128)
  | .job jk =>
    (match Store.find s.jobs jk with
     | some j => ((s.dropReq key).raceJob j r.va q.home r.rchk (some n)).jobWrote jk j q.home n
     | none => s.dropReq key)
  | .matrix c k =>
    let s1 := match Store.find (s.core c).mq k with
      | some o => s.raceAmax o c q.home r.rchk n
      | none => s
    (s1.dropReq key).updCore c (fun x =>
      { x with mq := Store.upd x.mq k (fun o => { o with merged := some (mkWit 1 2 (s.genOf r.slice) q.home n) }) })
  | .cp _ _ => (s.raceThread q r.kind.atomic (some (r.scope, n))).dropReq key
  | .stream _ _ _ | .copy _ | .shadow _ | .pref _ => s.dropReq key

/-- The agent applies the bytes of a WR that is answered keep to its copy, which becomes M (R523). -/
def State.applyKeep (s : State) (r : Req) (l : FabLine) (stamp : Nat) : State :=
  let old := leNat (l.slice_ r.pa r.bytes)
  let bs := match r.kind with
    | .atom op _ => leBytes r.bytes (atomNew op r.width r.bytes old r.data.toNat)
    | _ => leBytes r.bytes r.data.toNat
  s.putLine { l with st := .M, data := setBytes l.data (r.pa % 128) bs, stamp := max l.stamp stamp }

/-- A response reaches its request. -/
def State.rspReq (s : State) (key : Nat) (r : Req) (kind : Nat) (m : FabMsg) : State :=
  if m.status = 2 then s.failAsk key r 0x13 0
  else if m.status = 3 then s.failAsk key r 0x17 3
  else
    match kind with
    | 1 => s.rdDone key r m
    | 2 =>
      let fa := r.pa / 128 * 128
      let s1 := if s.ncMark r.pa then s
        else s.putLine { slice := r.slice, vf := r.vf, fa := fa, st := .M, data := m.data, stamp := m.stamp }
      { s1 with reqs := Store.put s1.reqs key { r with fab := .unsent } }
    | 3 =>
      let s1 := if m.status = 1 then (match s.fabLine r.slice r.vf r.pa with | some l => s.applyKeep r l m.stamp | none => s) else s
      s1.wrDone key r m 0
    | _ => s.wrDone key r m (leNat (m.data.take r.bytes))

/-- Does a response fit the message it answers: a line to RD and RDX, the old value to ATM, keep only to a WR of a line held in E, M or O? -/
def State.rspFits (s : State) (r : Req) (kind : Nat) (m : FabMsg) : Bool :=
  decide (m.status ≤ 3) &&
  (if 2 ≤ m.status then true
   else
     match kind with
     | 1 | 2 => m.status == 0 && m.data.length == 128
     | 3 => (m.status == 1) == (s.cohSt r.slice r.vf r.pa).ours
     | _ => m.status == 0 && decide (r.bytes ≤ m.data.length))

/-- A response as the agent uses it: a line is decrypted for the VF that asked (R510). -/
def State.plainRsp (s : State) (r : Req) (kind : Nat) (m : FabMsg) : FabMsg :=
  if kind ≤ 2 ∧ m.status < 2 then { m with data := s.lineDec r.vf (r.pa / 128 * 128) m.data } else m

/-- RSP (R519–R523): the counter is heard, then the response is delivered; one that nothing waits for is discarded. -/
def execRsp (m : FabMsg) (port : Nat) (s : State) : Host.Outcome State Fault Refusal :=
  if !s.arrives 8 m port then notEnabled "RSP"
  else
    let s1 := s.msgArrived m port
    match s.reqs.find? (fun e => match e.2.fab with | .sent t _ => t == m.tag | .unsent => false) with
    | some (key, r) =>
      (match r.fab with
       | .sent _ kind =>
         if s.rspFits r kind m then .next (((s1.meterAdd r.vf 4 (32 * fabTokens m)).rspReq key r kind (s.plainRsp r kind m)).retryRecalls) else notEnabled "RSP"
       | .unsent => notEnabled "RSP")
    | none => .next { s1 with fab := { s1.fab with probes := s1.fab.probes.filter (fun t => t != m.tag) } }

/-! ### Failover (R524) -/

/-- The secondary directory of a directory for a line of a VF. -/
def State.secondary (s : State) (vf fa n : Nat) : Nat := ((s.route vf fa).map Route.ndir2).getD n

/-- Is directory n the home of a line of a VF? -/
def State.homedAt (s : State) (vf fa n : Nat) : Bool := match s.route vf fa with | some r => r.ndir == n | none => false

/-- Step 2: lines in M and O go to the secondary, others are dropped, and NC marks with them. -/
def State.failLines (s : State) (n : Nat) : State :=
  let hit := s.fab.lines.filter (fun l => s.homedAt l.vf l.fa n)
  let s1 := hit.foldl (fun t l =>
    if l.st = .M ∨ l.st = .O then (match t.route l.vf l.fa with | some rt => t.writeBack rt rt.ndir2 0 l.fa (some l) | none => t) else t) s
  { s1 with fab := { s1.fab with
      lines := s1.fab.lines.filter (fun l => !(s.homedAt l.vf l.fa n)),
      nc := s1.fab.nc.filter (fun e => !(s.fab.routes.any (fun r => r.ndir == n && decide (r.base ≤ e.1) && decide (e.1 ≤ r.limit)))) } }

/-- Step 3: outstanding loads, and the reads for ownership of stores, are sent again; writes and atomics fail. -/
def State.failReqs (s : State) (n : Nat) : State :=
  (s.reqs.filter (fun e => e.2.coh && s.homedAt e.2.vf e.2.pa n)).foldl (fun t e =>
    match e.2.fab with
    | .sent _ k =>
      if k ≤ 2 then { t with reqs := Store.upd t.reqs e.1 (fun r => { r with fab := .unsent, home := 0x200 + s.secondary r.vf r.pa n }) }
      else t.failAsk e.1 e.2 0x17 2
    | .unsent => t) s

/-- FAIL (R524): steps 1 to 3 are taken, and the slices that use the directory begin to renew; the rest follows when they have. -/
def execFail (m : FabMsg) (port : Nat) (s : State) : Host.Outcome State Fault Refusal :=
  if !s.arrives 11 m port ∨ s.failingAt m.ndir then notEnabled "FAIL"
  else
    let n := m.ndir
    let users := s.usersOf n
    let s1 := ((s.msgArrived m port).failLines n).failReqs n
    let s2 := users.foldl (fun t i => if t.stalled i then t else t.startRenewal i) s1
    .next (if users = [] then s2.failOver n m.tag
      else { s2 with fab := { s2.fab with failing := s2.fab.failing ++ [{ dir := n, tag := m.tag, slices := users }] } })

/-! ### Sending shares (R516, R518) -/

/-- Has the VF a non-critical message that waits for the port? -/
def State.vfWaits (s : State) (p vf : Nat) : Bool :=
  s.reqs.any (fun e => e.2.vf == vf && [1, 2, 3].any (s.waitsAs e.1 e.2) &&
    (match s.route vf e.2.pa with | some rt => s.wayOf rt == some p | none => false))

/-- RATE scaled by the width (R518). -/
def Port.scaled (p : Port) (rate : Nat) : Nat :=
  match p.width with
  | 3 => rate
  | 2 => rate / 2
  | 1 => rate / 4
  | _ => 0

/-- Give n tokens to buckets in proportion to weights, each at most to its DEPTH; what is left is answered. -/
def Port.give (p : Port) (to_ : List (Nat × Nat)) (n : Nat) : Port × Nat :=
  let sum := (to_.map Prod.snd).sum
  to_.foldl (fun (acc : Port × Nat) e =>
    let room := ((Store.get (0 : Nat) p.depth e.1 : Nat) : Int) - Store.get 0 p.level e.1
    let k := min (n * e.2 / sum) room.toNat
    ({ acc.1 with level := Store.set 0 acc.1.level e.1 (Store.get 0 acc.1.level e.1 + k) }, acc.2 - k)) (p, n)

/-- The buckets of a slice that take surplus: below their DEPTH, with a message waiting. -/
def State.takers (s : State) (port : Nat) (p : Port) (sl : Nat) : List (Nat × Nat) :=
  p.rate.filter (fun e => (s.vf e.1).slice == sl && decide (Store.get 0 p.level e.1 < ((Store.get (0 : Nat) p.depth e.1 : Nat) : Int)) && s.vfWaits port e.1)

/-- Clusters a slice owns. -/
def State.ownCount (s : State) (sl : Nat) : Nat := (clustersOf (s.slice sl).clusters).length

/-- Steps 1–5 of R518 for a port. -/
def State.refilled (s : State) (port : Nat) (p : Port) : Port :=
  let up (vf : Nat) : Int := Store.get 0 p.level vf + p.scaled (Store.get 0 p.rate vf)
  let vfs := (p.rate.map Prod.fst ++ p.level.map Prod.fst).dedup
  let excess (vf : Nat) : Nat := (up vf - ((Store.get (0 : Nat) p.depth vf : Nat) : Int)).toNat
  let p1 := { p with level := vfs.foldl (fun l vf => Store.set 0 l vf (min ((Store.get (0 : Nat) p.depth vf : Nat) : Int) (up vf))) p.level }
  let slices := (vfs.map (fun v => (s.vf v).slice)).dedup
  let r := slices.foldl (fun (acc : Port × List (Nat × Nat)) sl =>
    let surplus := ((vfs.filter (fun v => (s.vf v).slice == sl)).map excess).sum
    let g := acc.1.give (s.takers port acc.1 sl) surplus
    (g.1, acc.2 ++ [(sl, g.2)])) (p1, [])
  (r.2.foldl (fun (q : Port) left =>
    let others := slices.filter (fun x => x != left.1 && !(s.takers port q x).isEmpty)
    let c := (others.map s.ownCount).sum
    others.foldl (fun q x => (q.give (s.takers port q x) (left.2 * s.ownCount x / c)).1) q) r.1)

/-- TOKEN_REFILL (R518). -/
def execTokenRefill (port : Nat) (s : State) : Host.Outcome State Fault Refusal :=
  if 16 ≤ port ∨ !s.powered then notEnabled "TOKEN_REFILL" else .next (s.updPort port (s.refilled port))

/-! ### Tables (R511, R516, R517) -/

/-- LSTATE. -/
def LinkSt.code : LinkSt → Nat
  | .down => 0
  | .normal => 1
  | .replay => 2
  | .retrain => 3

/-- The 64 bytes of a port on the status page. -/
def Port.status (p : Port) : List Byte :=
  leBytes 8 (p.st.code + 16 * p.width + 256 * p.retired.toNat) ++ p.health.flatMap (leBytes 2) ++ leBytes 8 p.fec.toNat ++ leBytes 8 p.crc.toNat ++
  leBytes 8 p.retrains.toNat ++ leBytes 8 p.dups.toNat ++ leBytes 16 0

/-- Address of a bucket (R516). -/
def State.bucketAt (s : State) (p vf : Nat) : Nat := s.sltbase + 0x80000 + 8 * (384 * p + vf)

/-- FABRIC_STATUS_WRITE (R516, R517): the status page, and LEVEL of every bucket in use. -/
def execFabricStatusWrite (s : State) : Host.Outcome State Fault Refusal :=
  if !s.powered ∨ s.sltbase = 0 ∨ s.stalled 16 then notEnabled "FABRIC_STATUS_WRITE"
  else
    let page := (List.range 16).flatMap (fun p => (s.port p).status)
    let tail := leBytes 8 s.fab.badmsg.toNat ++ leBytes 32 s.fab.failed.toNat
    let s1 := s.tblWrite (s.sltbase + 0x16000) (page ++ tail)
    .next ((List.range 16).foldl (fun t p =>
      ((s.port p).rate.map Prod.fst ++ (s.port p).depth.map Prod.fst ++ (s.port p).level.map Prod.fst).dedup.foldl (fun t vf =>
        t.tblWrite (t.bucketAt p vf + 2) (leBytes 4 (BitVec.ofInt 32 (Store.get 0 (s.port p).level vf)).toNat)) t) s1)

/-- A routing table entry of a VF, when valid (R511); the routes of a directory that has failed over lead to its secondary (R524). -/
def State.readRoute (s : State) (vf k : Nat) : Option Route :=
  let a := s.sltbase + 0x20000 + 0x400 * vf + 16 * k
  let n := s.nat (a + 8) 1
  let n2 := s.nat (a + 9) 1
  if s.nat (a + 12) 1 % 2 = 1 then
    some { vf := vf, base := s.nat a 4 % 2 ^ 28 * 2 ^ 21, limit := (s.nat (a + 4) 4 % 2 ^ 28 + 1) * 2 ^ 21 - 1, ndir := if s.fab.failed.getLsbD n then n2 else n,
           ndir2 := n2, porta := s.nat (a + 10) 1, portb := s.nat (a + 11) 1 }
  else none

/-- Re-read the routing tables of the enabled VFs. The routes that have failed over keep their secondary. -/
def State.readRoutes (s : State) : List Route :=
  (s.vfs.filter (fun e => e.2.enabled)).flatMap (fun e => (List.range 64).filterMap (s.readRoute e.1))

/-- RATE and DEPTH of a bucket in memory. -/
def State.bucketRate (s : State) (p vf : Nat) : Nat := s.nat (s.bucketAt p vf) 2
def State.bucketDepth (s : State) (p vf : Nat) : Nat := s.nat (s.bucketAt p vf + 6) 2

/-- Does the table keep the limit of R516? -/
def State.bucketsOk (s : State) : Bool :=
  (List.range 16).all (fun p => (List.range 16).all (fun sl =>
    decide (((s.enabledIn sl).map (s.bucketRate p)).sum ≤ 3125 * s.ownCount sl / 48)))

/-- Take the buckets of a port: RATE, DEPTH, and the LEVEL held, at most DEPTH. -/
def State.takeBuckets (s : State) (p : Nat) : State :=
  let vfs := (s.vfs.filter (fun e => e.2.enabled)).map Prod.fst
  s.updPort p (fun x =>
    { x with
      rate := vfs.foldl (fun m v => Store.set 0 m v (s.bucketRate p v)) [],
      depth := vfs.foldl (fun m v => Store.set 0 m v (s.bucketDepth p v)) [],
      level := vfs.foldl (fun m v => let d : Int := s.bucketDepth p v
                                     Store.set 0 m v (max (-d) (min d (Store.get 0 x.level v)))) [] })

/-- RELOAD (R517): the configuration page, the routing tables and the buckets are re-read; a bucket table that breaks the limit is refused with
reason 3, and a refused command changes nothing (R456, R516). -/
def execReload (cmd : W64) (s : State) : Host.Outcome State Fault Refusal :=
  match (List.range 4).findSome? (fun d => (s.takeCmd d 0x31 cmd).map (fun t => (d, t))) with
  | none => notEnabled "RELOAD"
  | some (d, s1) =>
    if cmd.extractLsb' 0 56 ≠ 0 then .next (s1.cmdAnswer d 0x31 1)
    else if !s1.bucketsOk then .next (s1.cmdAnswer d 0x31 3)
    else
      let c := s1.sltbase + 0x15000
      let rt := s1.nat (c + 24) 2
      let s2 := { s1 with fab := { s1.fab with
        pkgid := s1.nat c 2 % 4096, disable := BitVec.ofNat 16 (s1.nat (c + 8) 2), lhthresh := s1.nat (c + 16) 2,
        rtimeout := if rt = 0 then 1 else rt, routes := s1.readRoutes } }
      .next (((List.range 16).foldl State.takeBuckets s2).cmdAnswer d 0x31 0)

end Sys2Proof.Machine
end

