-- ==== Sys2Proof/Machine/Default.lean ====
section
/-! DEFINITION. What the machine does when nothing else is queued. Every order the manual leaves open is the inbox's; with an empty inbox the
machine takes the first enabled event of a fixed list, so that a program runs on by itself: what is in flight ends, then a core issues. -/

namespace Sys2Proof.Machine

/-- An event at a state: the meaning of an instruction of the table. -/
abbrev Event := State → Host.Outcome State Fault Refusal

/-- What an access in flight may do. -/
def reqEvents (k : Nat) (r : Req) : List Event :=
  match r.kind with
  | .load => [execLoadReply k true, execLoadReply k false, execRd k]
  | .store => [execHomeCommit k, execWr k, execRdx k]
  | .atom _ _ => [execAtomicPerform k, execAtm k, execWr k, execRdx k]

/-- What a group may do besides issuing. -/
def groupEvents (g : Nat) (gr : Group) : List Event :=
  [execWitnessSatisfied g, execTrapHandlerEntry g, execSysReply g, execSysNop g, execMeter g, execNotify g, execTlbinv g, execGroupRetire g] ++
  (List.range 4).flatMap (fun k => [execStreamEntryProduce g k, execStreamSpill g k, execHomeWatchAccept g k]) ++
  gr.absent.map (fun l => execRegisterLineFetch g l)

/-- What the matrix queue of a core may do. -/
def coreEvents (k : Nat) (c : Core) : List Event :=
  c.mq.flatMap (fun e => [execMatrixOpComplete k e.1, execMatrixOpStart k e.1]) ++ [execActivePlaceFill k]

/-- The issue cycle of the core that has a ready group and has run the fewest cycles. -/
def State.issueEvents (s : State) : List Event :=
  let rs := s.cores.filter (fun e => e.2.online && !e.2.halted && (e.2.carry != [] || e.2.tenants.any (fun t => s.readyOf e.1 t.vf != [])))
  (rs.filter (fun e => rs.all (fun x => decide (e.2.cycle.toNat ≤ x.2.cycle.toNat)))).map (fun e => execIssueCycle e.1)

/-- A message on the ring: a counter, where a core with a group has not heard as much, or a generation, where a core has not heard it. -/
def State.ringEvents (s : State) (m : RingMsg) : List Event :=
  if m.kind = 0 ∨ m.kind = 2 then
    ((s.groups.map (fun e => e.2.core)).dedup.filter (fun r => decide (s.heardAt r m.sl m.home < m.value))).map
      (fun r => execRingMessageReceive r m.word false)
  else if m.kind = 3 then ((List.range 196).filter (fun c => !s.genHeard.contains (c * 32 + m.sl))).map (fun r => execRingMessageReceive r m.word false)
  else []

/-- The renewals that run go on: homes drain, and the generation message follows (R415). -/
def State.renewalEvents (s : State) : List Event :=
  ((List.range 17).filter s.stalled).flatMap (fun i => (s.renewHomes i).map (execRenewalDrained i) ++ [execGenerationMessage i])

/-- What a queue may do; while it awaits the fabric it does not look again. -/
def State.queueEvents (s : State) (c q : Nat) : List Event :=
  if s.unitBusy (cpG c q) then [] else [execLaunch c q, execGraph c q, execSignal c q, execWait c q, execCopy c q]

/-- The events that the machine takes by itself, the first enabled one first. -/
def State.events (s : State) : List Event :=
  s.reqs.flatMap (fun e => reqEvents e.1 e.2) ++
  s.jobs.flatMap (fun e => [execCopyElementWrite e.1, execCopyJobComplete e.1, execEngineJobStart e.1, execCopyJobStop e.1]) ++
  s.groups.flatMap (fun e => groupEvents e.1 e.2) ++
  s.launches.flatMap (fun e => [execLaunchTurnBegin e.1, execLaunchComplete e.1, execGraphNodeComplete e.1]) ++
  (List.range 16).map (fun i => execBlockPlace i) ++
  s.cps.flatMap (fun e => execEntrySelect e.1 :: e.2.queues.flatMap (fun q => s.queueEvents e.1 q.1)) ++
  s.ctr.map (fun e => execCounterPublish (e.1 / 1024) (e.1 % 1024)) ++
  s.ring.flatMap s.ringEvents ++ s.renewalEvents ++
  s.cores.flatMap (fun e => coreEvents e.1 e.2) ++
  s.issueEvents ++
  (List.range 16).map (fun i => execQuiesceStep i)

end Sys2Proof.Machine
end

