-- ==== Sys2Proof/Machine/Approx.lean ====
section
/-! DEFINITION. The approximate functions of R165: the exact value to 192 binary places, the correctly rounded result, and
the result delivered, which lies within the error bound and is otherwise free (`Config.approxOffset`). -/

namespace Sys2Proof.Machine

/-- Binary places of the fixed-point values below; the error of each is below 2^-160, far below half a unit in the last
place of any .f32. -/
def fxP : Nat := 192
/-- One. -/
def fxOne : Int := 2 ^ fxP

/-- Multiply fixed-point values. -/
def fxMul (a b : Int) : Int := a * b / fxOne
/-- Divide fixed-point values. -/
def fxDiv (a b : Int) : Int := a * fxOne / b

/-- Sum of the terms of a power series: the next term is term × x / (k × (k + s)) while fuel lasts; `sg` alternates the sign. -/
def fxSeries (x : Int) (step : Int → Int) : Nat → Int → Int → Int → Int
  | 0, _, _, acc => acc
  | n + 1, k, t, acc => fxSeries x step n (k + 1) (fxMul t x / step k) (acc + t)

/-- e^x for 0 ≤ x ≤ 1. -/
def fxExp (x : Int) : Int := fxSeries x (fun k => k + 1) 64 0 fxOne 0

/-- Σ z^(2k+1)/(2k+1), the inverse hyperbolic tangent of z for |z| ≤ 1/3. -/
def fxAtanhAux (z2 : Int) : Nat → Int → Int → Int → Int
  | 0, _, _, acc => acc
  | n + 1, k, p, acc => fxAtanhAux z2 n (k + 2) (fxMul p z2) (acc + p / k)

/-- ln of m for m in [1, 2]. -/
def fxLn (m : Int) : Int :=
  let z := fxDiv (m - fxOne) (m + fxOne)
  2 * fxAtanhAux (fxMul z z) 64 1 z 0

/-- ln 2. -/
def fxLn2 : Int := fxLn (2 * fxOne)

/-- A value as fixed point; bits below the last place are dropped. -/
def fxOf (neg : Bool) (m : Nat) (e : Int) : Int :=
  let k : Int := if 0 ≤ (fxP : Int) + e then (m : Int) * 2 ^ ((fxP : Int) + e).toNat else (m : Int) / 2 ^ (-((fxP : Int) + e)).toNat
  if neg then -k else k

/-- e^x for any x, by x = n ln 2 + r; below e^-300 it is 0 to the places held. -/
def fxExpAny (x : Int) : Int :=
  if x < -300 * fxOne then 0
  else
    let n := x / fxLn2
    let r := x - n * fxLn2
    let y := fxExp r
    if 0 ≤ n then y * 2 ^ n.toNat else y / 2 ^ (-n).toNat

/-- 2^x for |x| ≤ 300. -/
def fxExp2 (x : Int) : Int :=
  let n := x / fxOne
  let y := fxExp (fxMul (x - n * fxOne) fxLn2)
  if 0 ≤ n then y * 2 ^ n.toNat else y / 2 ^ (-n).toNat

/-- arctan(1/d) to 352 binary places. -/
def atanInv (d : Int) : Nat → Int → Int → Int → Int
  | 0, _, _, acc => acc
  | n + 1, k, p, acc => atanInv d n (k + 2) (-p / (d * d)) (acc + p / k)

/-- π to 352 binary places, by Machin's formula. -/
def pi352 : Int :=
  16 * atanInv 5 80 1 (2 ^ 352 / 5) 0 - 4 * atanInv 239 26 1 (2 ^ 352 / 239) 0

/-- sin r and cos r for 0 ≤ r ≤ 2. -/
def fxSin (r : Int) : Int := fxSeries (-fxMul r r) (fun k => (2 * k + 2) * (2 * k + 3)) 40 0 r 0
def fxCos (r : Int) : Int := fxSeries (-fxMul r r) (fun k => (2 * k + 1) * (2 * k + 2)) 40 0 fxOne 0

/-- sin, or cos with `q0 = 1`, of the exact value (−1)^neg × m × 2^e, reduced against π exactly (R165). -/
def fxTrig (q0 : Int) (neg : Bool) (m : Nat) (e : Int) : Int :=
  let a : Int := if 0 ≤ 352 + e then (m : Int) * 2 ^ (352 + e).toNat else (m : Int) / 2 ^ (-(352 + e)).toNat
  let h := pi352 / 2
  let q := a / h
  let r := (a - q * h) / 2 ^ 160
  let k := (q + q0) % 4
  let y := if k = 0 then fxSin r else if k = 1 then fxCos r else if k = 2 then -fxSin r else -fxCos r
  if neg && q0 == 0 then -y else y

/-- The approximate functions. -/
inductive Afun where
  | rsq | ex2 | lg2 | sin | cos | tanh | sigm
  deriving DecidableEq, Repr

/-- Number of the function for the free offset: its opcode (R150). -/
def Afun.code : Afun → Nat
  | .rsq => 0x091 | .ex2 => 0x093 | .lg2 => 0x094 | .sin => 0x095 | .cos => 0x096 | .tanh => 0x097 | .sigm => 0x098

/-- The exact value to 192 places, of a finite non-zero operand. -/
def Afun.exact (f : Afun) (neg : Bool) (m : Nat) (e : Int) : Int :=
  match f with
  | .rsq => isqrt (if 0 ≤ e then 2 ^ (2 * fxP) / (m * 2 ^ e.toNat) else 2 ^ (2 * fxP + (-e).toNat) / m)
  | .ex2 => fxExp2 (max (-300 * fxOne) (min (300 * fxOne) (fxOf neg m e)))
  | .lg2 =>
    let l : Int := (bitLen m : Int) - 1
    (l + e) * fxOne + fxDiv (fxLn (fxOf false m (-l))) fxLn2
  | .sin => fxTrig 0 neg m e
  | .cos => fxTrig 1 neg m e
  | .tanh =>
    let x := min (100 * fxOne) (fxOf false m e)
    let y := fxExpAny (-2 * x)
    let t := fxDiv (fxOne - y) (fxOne + y)
    if neg then -t else t
  | .sigm =>
    let x := max (-300 * fxOne) (min (300 * fxOne) (fxOf neg m e))
    if 0 ≤ x then fxDiv fxOne (fxOne + fxExpAny (-x)) else
      let y := fxExpAny x
      fxDiv y (fxOne + y)

/-- Is the finite non-zero operand one whose result is exact (R165)? -/
def Afun.isExact (f : Afun) (neg : Bool) (m : Nat) (e : Int) : Bool :=
  let pow2 := decide (m = 2 ^ (bitLen m - 1))
  let lg := (bitLen m : Int) - 1 + e
  match f with
  | .rsq => pow2 && decide (lg % 2 = 0)
  | .lg2 => pow2
  | .ex2 =>
    let integral := decide (0 ≤ e) || decide (m % 2 ^ (-e).toNat = 0)
    let v := fxOf neg m e
    integral && decide (-149 * fxOne ≤ v) && decide (v < 128 * fxOne)
  | .tanh => decide (10 * fxOne ≤ fxOf false m e)
  | .sigm => !neg && decide (18 * fxOne ≤ fxOf false m e)
  | _ => false

/-- Units of error allowed (R165), and the absolute bound where there is one. -/
def Afun.ulps : Afun → Int
  | .rsq => 1
  | _ => 2
def Afun.absBound (f : Afun) (m : Nat) (e : Int) : Int :=
  match f with
  | .sin => 2 ^ (fxP - 24)
  | .cos => 2 ^ (fxP - 24)
  | .lg2 => if fxOne / 2 ≤ fxOf false m e ∧ fxOf false m e < 2 * fxOne then 2 ^ (fxP - 22) else 0
  | _ => 0

/-- One unit in the last place of a value (R165), subnormal spacing below 2^-126. -/
def fxUlp (x : Int) : Int :=
  let l : Int := (bitLen x.natAbs : Int) - 24
  2 ^ (max l ((fxP : Int) - 149)).toNat

/-- The .f32 bit pattern moved by `d` units along the order of the values; none where it would leave the finite ones. -/
def moveBits (b : Nat) (d : Int) : Option Nat :=
  let k : Int := if 2 ^ 31 ≤ b then -((b : Int) - 2 ^ 31) else b
  let j := k + d
  if j.natAbs ≤ Ty.f32.maxBits then some (if j < 0 then j.natAbs + 2 ^ 31 else j.natAbs) else none

/-- The fixed-point value of a finite bit pattern. -/
def fxBits (b : Nat) : Int :=
  match Ty.f32.dec b with
  | .fin n m e => fxOf n m e
  | _ => 0

/-- A finite non-zero operand `x`: the result delivered and its flags (R165, R166). An exact result is the correctly rounded
value; another is the rounded value moved by the free offset where that stays within the bound. -/
def Afun.finite (f : Afun) (x : W32) (neg : Bool) (m : Nat) (e : Int) : FRes :=
  let v := f.exact neg m e
  let r := Ty.f32.round .rne (decide (v < 0)) v.natAbs (-(fxP : Int)) false
  if f.isExact neg m e then
    ((match f with | .tanh => 0x3F800000 + Ty.f32.signBit neg | .sigm => 0x3F800000 | _ => if v = 0 then 0 else r.bits), 0)
  else if v.natAbs ≠ 0 ∧ r.big then (Ty.f32.infBits (decide (v < 0)), fOF ||| fIX)
  else
    let c := if v = 0 then 0 else r.bits
    let bound : Int := max (f.absBound m e) (f.ulps * fxUlp v) - 2 ^ 24
    let b := match moveBits c (Config.approxOffset f.code x) with
      | some b => if (fxBits b - v).natAbs ≤ bound.toNat then b else c
      | none => c
    let small := decide (b % 2 ^ 31 < 2 ^ 23)
    (b, fIX ||| flagIf small fUF)

/-- The function (R165, R166). -/
def Afun.apply (f : Afun) (x : W32) : FRes :=
  match Ty.f32.dec x.toNat with
  | .nan s => (Ty.f32.cnan, flagIf s fIV)
  | .inf g =>
    match f with
    | .rsq => if g then (Ty.f32.cnan, fIV) else (0, 0)
    | .ex2 => if g then (0, 0) else (Ty.f32.infBits false, 0)
    | .lg2 => if g then (Ty.f32.cnan, fIV) else (Ty.f32.infBits false, 0)
    | .sin => (Ty.f32.cnan, fIV)
    | .cos => (Ty.f32.cnan, fIV)
    | .tanh => (0x3F800000 + Ty.f32.signBit g, 0)
    | .sigm => if g then (0, 0) else (0x3F800000, 0)
  | .fin g m e =>
    if m = 0 then
      match f with
      | .rsq => (Ty.f32.infBits g, fDZ)
      | .ex2 => (0x3F800000, 0)
      | .lg2 => (Ty.f32.infBits true, fDZ)
      | .sin => (Ty.f32.signBit g, 0)
      | .cos => (0x3F800000, 0)
      | .tanh => (Ty.f32.signBit g, 0)
      | .sigm => (0x3F000000, 0)
    else if g && (f == .rsq || f == .lg2) then (Ty.f32.cnan, fIV)
    else f.finite x g m e

end Sys2Proof.Machine
end

