-- ==== Sys2Proof/Machine/Float.lean ====
section
/-! DEFINITION. Floating-point, packed, conversion and transcendental instructions (chapter 05, opcodes 0x080–0x0FF). -/

namespace Sys2Proof.Machine

/-- A source as a value of the instruction's type. -/
def fA (f : FmtG) (gr : Group) (l : Nat) : FVal := f.ty.dec (gr.fsrc f.ty l f.a)
def fB (f : FmtG) (gr : Group) (l : Nat) : FVal := f.ty.dec (gr.fsrc f.ty l f.b)
def fC (f : FmtG) (gr : Group) (l : Nat) : FVal := f.ty.dec (gr.fsrc f.ty l f.c)
/-- RND of format G. -/
def rmG (f : FmtG) : Rm := Rm.ofCode f.rnd
/-- Source a and the bit-pattern immediate of the K forms (R151). -/
def fAK (f : FmtK) (gr : Group) (l : Nat) : FVal := Ty.f32.dec (gr.fsrc .f32 l f.a)
def fImmK (f : FmtK) : FVal := Ty.f32.dec f.imm.toNat

/-! ### Arithmetic (R158–R160) -/

def faddRes (f : FmtG) (gr : Group) (_ : List Nat) (l : Nat) : Res := .float gr (Ty.f32.fadd (rmG f) (fA f gr l) (fB f gr l))
def execFadd (f : FmtG) (s : State) := produce (.fadd f) 1 (faddRes f) s
def faddKRes (f : FmtK) (gr : Group) (_ : List Nat) (l : Nat) : Res := .float gr (Ty.f32.fadd .rne (fAK f gr l) (fImmK f))
def execFaddK (f : FmtK) (s : State) := produce (.faddK f) 1 (faddKRes f) s
def fsubRes (f : FmtG) (gr : Group) (_ : List Nat) (l : Nat) : Res := .float gr (Ty.f32.fadd (rmG f) (fA f gr l) (fB f gr l).negate)
def execFsub (f : FmtG) (s : State) := produce (.fsub f) 1 (fsubRes f) s
def fmulRes (f : FmtG) (gr : Group) (_ : List Nat) (l : Nat) : Res := .float gr (Ty.f32.fmul (rmG f) (fA f gr l) (fB f gr l))
def execFmul (f : FmtG) (s : State) := produce (.fmul f) 1 (fmulRes f) s
def fmulKRes (f : FmtK) (gr : Group) (_ : List Nat) (l : Nat) : Res := .float gr (Ty.f32.fmul .rne (fAK f gr l) (fImmK f))
def execFmulK (f : FmtK) (s : State) := produce (.fmulK f) 1 (fmulKRes f) s
def ffmaRes (f : FmtG) (gr : Group) (_ : List Nat) (l : Nat) : Res :=
  .float gr (Ty.f32.ffma (rmG f) (fA f gr l) (fB f gr l) (fC f gr l))
def execFfma (f : FmtG) (s : State) := produce (.ffma f) 1 (ffmaRes f) s

/-- fscale (R159): n is one 32-bit register read as a signed integer. -/
def fscaleRes (f : FmtG) (gr : Group) (_ : List Nat) (l : Nat) : Res :=
  .float gr (fscale (rmG f) (fA f gr l) (gr.src32 l f.b).toInt)
def execFscale (f : FmtG) (s : State) := produce (.fscale f) 1 (fscaleRes f) s
def frndRes (f : FmtG) (gr : Group) (_ : List Nat) (l : Nat) : Res := .float gr (frnd (rmG f) (fA f gr l))
def execFrnd (f : FmtG) (s : State) := produce (.frnd f) 1 (frndRes f) s

/-! ### Comparison and classification (R161–R163) -/

def fminRes (f : FmtG) (gr : Group) (_ : List Nat) (l : Nat) : Res :=
  .float gr (Ty.f32.fminmax false (gr.fsrc .f32 l f.a) (gr.fsrc .f32 l f.b))
def execFmin (f : FmtG) (s : State) := produce (.fmin f) 1 (fminRes f) s
def fmaxRes (f : FmtG) (gr : Group) (_ : List Nat) (l : Nat) : Res :=
  .float gr (Ty.f32.fminmax true (gr.fsrc .f32 l f.a) (gr.fsrc .f32 l f.b))
def execFmax (f : FmtG) (s : State) := produce (.fmax f) 1 (fmaxRes f) s

def fcmpRes (f : FmtG) (gr : Group) (_ : List Nat) (l : Nat) : Res :=
  let x := fA f gr l
  let y := fB f gr l
  .float gr ((withBit (oldDst f gr l) (f.per.toNat / 8 % 32) (fcond (f.per.toNat % 8) x y)).toNat, flagIf (x.isSig || y.isSig) fIV)
def execFcmp (f : FmtG) (s : State) := produce (.fcmp f) 1 (fcmpRes f) s
def fclassRes (f : FmtG) (gr : Group) (_ : List Nat) (l : Nat) : Res := rawRes (2 ^ f.ty.fclass (gr.fsrc f.ty l f.a))
def execFclass (f : FmtG) (s : State) := produce (.fclass f) 1 (fclassRes f) s

/-! ### Reciprocal, root and transcendental (R164–R166) -/

def frcpRes (f : FmtG) (gr : Group) (_ : List Nat) (l : Nat) : Res := .float gr (frcp (rmG f) (fA f gr l))
def execFrcp (f : FmtG) (s : State) := produce (.frcp f) 1 (frcpRes f) s
def fsqrtRes (f : FmtG) (gr : Group) (_ : List Nat) (l : Nat) : Res := .float gr (fsqrt (rmG f) (fA f gr l))
def execFsqrt (f : FmtG) (s : State) := produce (.fsqrt f) 1 (fsqrtRes f) s

/-- An approximate function of source a. -/
def approxRes (fn : Afun) (f : FmtG) (gr : Group) (_ : List Nat) (l : Nat) : Res :=
  .float gr (fn.apply (BitVec.ofNat 32 (gr.fsrc .f32 l f.a)))
def execFrsq (f : FmtG) (s : State) := produce (.frsq f) 1 (approxRes .rsq f) s
def execFex2 (f : FmtG) (s : State) := produce (.fex2 f) 1 (approxRes .ex2 f) s
def execFlg2 (f : FmtG) (s : State) := produce (.flg2 f) 1 (approxRes .lg2 f) s
def execFsin (f : FmtG) (s : State) := produce (.fsin f) 1 (approxRes .sin f) s
def execFcos (f : FmtG) (s : State) := produce (.fcos f) 1 (approxRes .cos f) s
def execFtanh (f : FmtG) (s : State) := produce (.ftanh f) 1 (approxRes .tanh f) s
def execFsigm (f : FmtG) (s : State) := produce (.fsigm f) 1 (approxRes .sigm f) s

/-! ### Packed operations (R167, R168) -/

/-- Element k of a packed value (R92). -/
def half (x k : Nat) : Nat := x / 2 ^ (16 * k) % 2 ^ 16

/-- Apply an operation to both elements; the flags are OR-ed (R92). -/
def packed (op : Nat → FRes) : FRes := ((op 0).1 + 2 ^ 16 * (op 1).1, (op 0).2 ||| (op 1).2)

/-- Element k of a source. -/
def pel (f : FmtG) (gr : Group) (l : Nat) (x : BitVec 10) (k : Nat) : Nat := half (gr.fsrc f.ty l x) k

def hadd2Res (f : FmtG) (gr : Group) (_ : List Nat) (l : Nat) : Res :=
  .float gr (packed (fun k => f.ty.fadd (rmG f) (f.ty.dec (pel f gr l f.a k)) (f.ty.dec (pel f gr l f.b k))))
def execHadd2 (f : FmtG) (s : State) := produce (.hadd2 f) 1 (hadd2Res f) s
def hmul2Res (f : FmtG) (gr : Group) (_ : List Nat) (l : Nat) : Res :=
  .float gr (packed (fun k => f.ty.fmul (rmG f) (f.ty.dec (pel f gr l f.a k)) (f.ty.dec (pel f gr l f.b k))))
def execHmul2 (f : FmtG) (s : State) := produce (.hmul2 f) 1 (hmul2Res f) s
def hfma2Res (f : FmtG) (gr : Group) (_ : List Nat) (l : Nat) : Res :=
  .float gr (packed (fun k =>
    f.ty.ffma (rmG f) (f.ty.dec (pel f gr l f.a k)) (f.ty.dec (pel f gr l f.b k)) (f.ty.dec (pel f gr l f.c k))))
def execHfma2 (f : FmtG) (s : State) := produce (.hfma2 f) 1 (hfma2Res f) s
def hmax2Res (f : FmtG) (gr : Group) (_ : List Nat) (l : Nat) : Res :=
  .float gr (packed (fun k => f.ty.fminmax true (pel f gr l f.a k) (pel f gr l f.b k)))
def execHmax2 (f : FmtG) (s : State) := produce (.hmax2 f) 1 (hmax2Res f) s

/-- dp2 (R168). -/
def dp2Res (f : FmtG) (gr : Group) (_ : List Nat) (l : Nat) : Res :=
  let e (x : BitVec 10) (k : Nat) : FVal := f.ty.dec (pel f gr l x k)
  .float gr (dp2f (rmG f) (e f.a 0) (e f.b 0) (e f.a 1) (e f.b 1) (Ty.f32.dec (gr.fsrc .f32 l f.c)))
def execDp2 (f : FmtG) (s : State) := produce (.dp2 f) 1 (dp2Res f) s

/-! ### Conversion (R169–R173) -/

/-- cvt's source type (R169). -/
def cvtSrc (f : FmtG) : Ty := (Ty.ofCode (f.md.extractLsb' 0 5)).getD .b8

def cvtRes (f : FmtG) (gr : Group) (_ : List Nat) (l : Nat) : Res :=
  let t := cvtSrc f
  let x : W128 := if t.isFloat then BitVec.ofNat 128 (gr.fsrc t l f.a) else gr.src l f.a t.regs
  .conv gr (cvtTo t f.ty (rmG f) f.ovf x)
def execCvt (f : FmtG) (s : State) := produce (.cvt f) f.ty.regs (cvtRes f) s

/-- pack (R172). -/
def packRes (f : FmtG) (gr : Group) (_ : List Nat) (l : Nat) : Res :=
  let cv (x : BitVec 10) : Cv := cvtTo .f32 f.ty (rmG f) f.ovf (BitVec.ofNat 128 (gr.fsrc .f32 l x))
  match cv f.a, cv f.b with
  | .ok va fa, .ok vb fb =>
    let old := (oldDst f gr l).toNat
    let w := f.ty.width
    let two := va.toNat + 2 ^ w * vb.toNat
    let v := if w = 16 then two else if perBit0 f then old % 2 ^ 16 + 2 ^ 16 * two else old / 2 ^ 16 * 2 ^ 16 + two
    .conv gr (.ok (BitVec.ofNat 128 v) (fa ||| fb))
  | _, _ => .conv gr .trap
def execPack (f : FmtG) (s : State) := produce (.pack f) 1 (packRes f) s

/-- unpack (R173): an immediate or special source is a raw 32-bit pattern. -/
def unpackRes (f : FmtG) (gr : Group) (_ : List Nat) (l : Nat) : Res :=
  let w := f.ty.width
  let v := f.ty.dec ((gr.src32 l f.a).toNat / 2 ^ (w * (f.per.toNat % 4)) % 2 ^ w)
  .float gr (Ty.f32.exactBits v, flagIf v.isSig fIV)
def execUnpack (f : FmtG) (s : State) := produce (.unpack f) 1 (unpackRes f) s

end Sys2Proof.Machine
end

