-- ==== Sys2Proof/Machine/Dispatch.lean ====
section
/-! DEFINITION. The dispatcher: one arm per constructor of `Instr`, each one call of its meaning. -/

namespace Sys2Proof.Machine

/-- What an instruction or event does to the machine. -/
def exec (i : Instr) (s : State) : Host.Outcome State Fault Refusal :=
  match i with
  | .add f => Sys2Proof.Machine.execAdd f s
  | .addK f => Sys2Proof.Machine.execAddK f s
  | .sub f => Sys2Proof.Machine.execSub f s
  | .addc f => Sys2Proof.Machine.execAddc f s
  | .subb f => Sys2Proof.Machine.execSubb f s
  | .mul f => Sys2Proof.Machine.execMul f s
  | .mulK f => Sys2Proof.Machine.execMulK f s
  | .mulh f => Sys2Proof.Machine.execMulh f s
  | .mad f => Sys2Proof.Machine.execMad f s
  | .madh f => Sys2Proof.Machine.execMadh f s
  | .div f => Sys2Proof.Machine.execDiv f s
  | .rem f => Sys2Proof.Machine.execRem f s
  | .min f => Sys2Proof.Machine.execMin f s
  | .max f => Sys2Proof.Machine.execMax f s
  | .abs f => Sys2Proof.Machine.execAbs f s
  | .neg f => Sys2Proof.Machine.execNeg f s
  | .clamp f => Sys2Proof.Machine.execClamp f s
  | .and f => Sys2Proof.Machine.execAnd f s
  | .andK f => Sys2Proof.Machine.execAndK f s
  | .or f => Sys2Proof.Machine.execOr f s
  | .orK f => Sys2Proof.Machine.execOrK f s
  | .xor f => Sys2Proof.Machine.execXor f s
  | .xorK f => Sys2Proof.Machine.execXorK f s
  | .andn f => Sys2Proof.Machine.execAndn f s
  | .shl f => Sys2Proof.Machine.execShl f s
  | .shr f => Sys2Proof.Machine.execShr f s
  | .sra f => Sys2Proof.Machine.execSra f s
  | .rot f => Sys2Proof.Machine.execRot f s
  | .bfe f => Sys2Proof.Machine.execBfe f s
  | .bfi f => Sys2Proof.Machine.execBfi f s
  | .popc f => Sys2Proof.Machine.execPopc f s
  | .clz f => Sys2Proof.Machine.execClz f s
  | .ctz f => Sys2Proof.Machine.execCtz f s
  | .brev f => Sys2Proof.Machine.execBrev f s
  | .cmp f => Sys2Proof.Machine.execCmp f s
  | .sel f => Sys2Proof.Machine.execSel f s
  | .mov f => Sys2Proof.Machine.execMov f s
  | .movk f => Sys2Proof.Machine.execMovk f s
  | .lea f => Sys2Proof.Machine.execLea f s
  | .leaK f => Sys2Proof.Machine.execLeaK f s
  | .vbc f => Sys2Proof.Machine.execVbc f s
  | .rdlane f => Sys2Proof.Machine.execRdlane f s
  | .wrlane f => Sys2Proof.Machine.execWrlane f s
  | .shfl f => Sys2Proof.Machine.execShfl f s
  | .lsh f => Sys2Proof.Machine.execLsh f s
  | .vote f => Sys2Proof.Machine.execVote f s
  | .lred f => Sys2Proof.Machine.execLred f s
  | .lscan f => Sys2Proof.Machine.execLscan f s
  | .addmin f => Sys2Proof.Machine.execAddmin f s
  | .addmax f => Sys2Proof.Machine.execAddmax f s
  | .dp4 f => Sys2Proof.Machine.execDp4 f s
  | .fadd f => Sys2Proof.Machine.execFadd f s
  | .faddK f => Sys2Proof.Machine.execFaddK f s
  | .fsub f => Sys2Proof.Machine.execFsub f s
  | .fmul f => Sys2Proof.Machine.execFmul f s
  | .fmulK f => Sys2Proof.Machine.execFmulK f s
  | .ffma f => Sys2Proof.Machine.execFfma f s
  | .fmin f => Sys2Proof.Machine.execFmin f s
  | .fmax f => Sys2Proof.Machine.execFmax f s
  | .fcmp f => Sys2Proof.Machine.execFcmp f s
  | .fclass f => Sys2Proof.Machine.execFclass f s
  | .frnd f => Sys2Proof.Machine.execFrnd f s
  | .fscale f => Sys2Proof.Machine.execFscale f s
  | .frcp f => Sys2Proof.Machine.execFrcp f s
  | .frsq f => Sys2Proof.Machine.execFrsq f s
  | .fsqrt f => Sys2Proof.Machine.execFsqrt f s
  | .fex2 f => Sys2Proof.Machine.execFex2 f s
  | .flg2 f => Sys2Proof.Machine.execFlg2 f s
  | .fsin f => Sys2Proof.Machine.execFsin f s
  | .fcos f => Sys2Proof.Machine.execFcos f s
  | .ftanh f => Sys2Proof.Machine.execFtanh f s
  | .fsigm f => Sys2Proof.Machine.execFsigm f s
  | .hadd2 f => Sys2Proof.Machine.execHadd2 f s
  | .hmul2 f => Sys2Proof.Machine.execHmul2 f s
  | .hfma2 f => Sys2Proof.Machine.execHfma2 f s
  | .hmax2 f => Sys2Proof.Machine.execHmax2 f s
  | .dp2 f => Sys2Proof.Machine.execDp2 f s
  | .cvt f => Sys2Proof.Machine.execCvt f s
  | .pack f => Sys2Proof.Machine.execPack f s
  | .unpack f => Sys2Proof.Machine.execUnpack f s
  | .nop f => Sys2Proof.Machine.execNop f s
  | .bra f => Sys2Proof.Machine.execBra f s
  | .brx f => Sys2Proof.Machine.execBrx f s
  | .dbra f => Sys2Proof.Machine.execDbra f s
  | .call f => Sys2Proof.Machine.execCall f s
  | .callx f => Sys2Proof.Machine.execCallx f s
  | .ret f => Sys2Proof.Machine.execRet f s
  | .rgn f => Sys2Proof.Machine.execRgn f s
  | .join f => Sys2Proof.Machine.execJoin f s
  | .brk f => Sys2Proof.Machine.execBrk f s
  | .exit f => Sys2Proof.Machine.execExit f s
  | .yield f => Sys2Proof.Machine.execYield f s
  | .trap f => Sys2Proof.Machine.execTrap f s
  | .bkpt f => Sys2Proof.Machine.execBkpt f s
  | .ld f => Sys2Proof.Machine.execLd f s
  | .st f => Sys2Proof.Machine.execSt f s
  | .sld f => Sys2Proof.Machine.execSld f s
  | .sst f => Sys2Proof.Machine.execSst f s
  | .pref f => Sys2Proof.Machine.execPref f s
  | .atomAdd f => Sys2Proof.Machine.execAtomAdd f s
  | .atomMin f => Sys2Proof.Machine.execAtomMin f s
  | .atomMax f => Sys2Proof.Machine.execAtomMax f s
  | .atomAnd f => Sys2Proof.Machine.execAtomAnd f s
  | .atomOr f => Sys2Proof.Machine.execAtomOr f s
  | .atomXor f => Sys2Proof.Machine.execAtomXor f s
  | .atomExch f => Sys2Proof.Machine.execAtomExch f s
  | .atomCas f => Sys2Proof.Machine.execAtomCas f s
  | .redAdd f => Sys2Proof.Machine.execRedAdd f s
  | .redMin f => Sys2Proof.Machine.execRedMin f s
  | .redMax f => Sys2Proof.Machine.execRedMax f s
  | .redAnd f => Sys2Proof.Machine.execRedAnd f s
  | .redOr f => Sys2Proof.Machine.execRedOr f s
  | .redXor f => Sys2Proof.Machine.execRedXor f s
  | .wjoin f => Sys2Proof.Machine.execWjoin f s
  | .wjoinr f => Sys2Proof.Machine.execWjoinr f s
  | .wtest f => Sys2Proof.Machine.execWtest f s
  | .wwait f => Sys2Proof.Machine.execWwait f s
  | .wcanc f => Sys2Proof.Machine.execWcanc f s
  | .wscop f => Sys2Proof.Machine.execWscop f s
  | .rdcr f => Sys2Proof.Machine.execRdcr f s
  | .wrcr f => Sys2Proof.Machine.execWrcr f s
  | .rdflt f => Sys2Proof.Machine.execRdflt f s
  | .rte f => Sys2Proof.Machine.execRte f s
  | .sys f => Sys2Proof.Machine.execSys f s
  | .halt f => Sys2Proof.Machine.execHalt f s
  | .tlbi f => Sys2Proof.Machine.execTlbi f s
  | .ldio f => Sys2Proof.Machine.execLdio f s
  | .stio f => Sys2Proof.Machine.execStio f s
  | .mbxw f => Sys2Proof.Machine.execMbxw f s
  | .engx f => Sys2Proof.Machine.execEngx f s
  | .strm f => Sys2Proof.Machine.execStrm f s
  | .strmx f => Sys2Proof.Machine.execStrmx f s
  | .oqst f => Sys2Proof.Machine.execOqst f s
  | .lds f => Sys2Proof.Machine.execLds f s
  | .sts f => Sys2Proof.Machine.execSts f s
  | .pres f => Sys2Proof.Machine.execPres f s
  | .fmask f => Sys2Proof.Machine.execFmask f s
  | .atomsAdd f => Sys2Proof.Machine.execAtomsAdd f s
  | .atomsMin f => Sys2Proof.Machine.execAtomsMin f s
  | .atomsMax f => Sys2Proof.Machine.execAtomsMax f s
  | .atomsAnd f => Sys2Proof.Machine.execAtomsAnd f s
  | .atomsOr f => Sys2Proof.Machine.execAtomsOr f s
  | .atomsXor f => Sys2Proof.Machine.execAtomsXor f s
  | .atomsExch f => Sys2Proof.Machine.execAtomsExch f s
  | .atomsCas f => Sys2Proof.Machine.execAtomsCas f s
  | .cpy f => Sys2Proof.Machine.execCpy f s
  | .cpyo f => Sys2Proof.Machine.execCpyo f s
  | .cpyg f => Sys2Proof.Machine.execCpyg f s
  | .gang f => Sys2Proof.Machine.execGang f s
  | .oclm f => Sys2Proof.Machine.execOclm f s
  | .orel f => Sys2Proof.Machine.execOrel f s
  | .old f => Sys2Proof.Machine.execOld f s
  | .mma f => Sys2Proof.Machine.execMma f s
  | .mzero f => Sys2Proof.Machine.execMzero f s
  | .scacc f => Sys2Proof.Machine.execScacc f s
  | .mdrain f => Sys2Proof.Machine.execMdrain f s
  | .mrd f => Sys2Proof.Machine.execMrd f s
  | .bini f => Sys2Proof.Machine.execBini f s
  | .barr f => Sys2Proof.Machine.execBarr f s
  | .bwait f => Sys2Proof.Machine.execBwait f s
  | .barw f => Sys2Proof.Machine.execBarw f s
  | .binv f => Sys2Proof.Machine.execBinv f s
  | .bqry f => Sys2Proof.Machine.execBqry f s
  | .fetchLine g lane => Sys2Proof.Machine.execFetchLine g lane s
  | .issueCycle core => Sys2Proof.Machine.execIssueCycle core s
  | .pathQuantumExpired g => Sys2Proof.Machine.execPathQuantumExpired g s
  | .groupSwapOut g => Sys2Proof.Machine.execGroupSwapOut g s
  | .activePlaceFill core => Sys2Proof.Machine.execActivePlaceFill core s
  | .trapHandlerEntry g => Sys2Proof.Machine.execTrapHandlerEntry g s
  | .blockEnd b => Sys2Proof.Machine.execBlockEnd b s
  | .loadReply r fromL1 => Sys2Proof.Machine.execLoadReply r fromL1 s
  | .homeCommit r => Sys2Proof.Machine.execHomeCommit r s
  | .atomicPerform r => Sys2Proof.Machine.execAtomicPerform r s
  | .witnessSatisfied g => Sys2Proof.Machine.execWitnessSatisfied g s
  | .groupRetire g => Sys2Proof.Machine.execGroupRetire g s
  | .l1Fill core vf line => Sys2Proof.Machine.execL1Fill core vf line s
  | .counterPublish slice home => Sys2Proof.Machine.execCounterPublish slice home s
  | .counterRepublish slice home => Sys2Proof.Machine.execCounterRepublish slice home s
  | .ringMessageReceive rcv msg bad => Sys2Proof.Machine.execRingMessageReceive rcv msg bad s
  | .renewalRequest slice home => Sys2Proof.Machine.execRenewalRequest slice home s
  | .renewalDrained slice home => Sys2Proof.Machine.execRenewalDrained slice home s
  | .generationMessage slice => Sys2Proof.Machine.execGenerationMessage slice s
  | .streamEntryProduce g q => Sys2Proof.Machine.execStreamEntryProduce g q s
  | .streamSpill g q => Sys2Proof.Machine.execStreamSpill g q s
  | .preemptGroup g => Sys2Proof.Machine.execPreemptGroup g s
  | .copyElementWrite j => Sys2Proof.Machine.execCopyElementWrite j s
  | .copyJobComplete j => Sys2Proof.Machine.execCopyJobComplete j s
  | .copyJobStop j => Sys2Proof.Machine.execCopyJobStop j s
  | .engineJobStart j => Sys2Proof.Machine.execEngineJobStart j s
  | .gangRendezvousComplete b base => Sys2Proof.Machine.execGangRendezvousComplete b base s
  | .gangmisFailure b base => Sys2Proof.Machine.execGangmisFailure b base s
  | .matrixOpStart core op => Sys2Proof.Machine.execMatrixOpStart core op s
  | .matrixOpComplete core op => Sys2Proof.Machine.execMatrixOpComplete core op s
  | .barrierWitnessArrival slot ix => Sys2Proof.Machine.execBarrierWitnessArrival slot ix s
  | .orphanArrival core ix => Sys2Proof.Machine.execOrphanArrival core ix s
  | .homeWatchAccept g n => Sys2Proof.Machine.execHomeWatchAccept g n s
  | .scrubRead core line => Sys2Proof.Machine.execScrubRead core line s
  | .sramUncorrectable core owner => Sys2Proof.Machine.execSramUncorrectable core owner s
  | .clusterNetworkError cluster b => Sys2Proof.Machine.execClusterNetworkError cluster b s
  | .blockPlace slice => Sys2Proof.Machine.execBlockPlace slice s
  | .launchTurnBegin l => Sys2Proof.Machine.execLaunchTurnBegin l s
  | .capacityHold l blockid => Sys2Proof.Machine.execCapacityHold l blockid s
  | .refreshDue ch bank => Sys2Proof.Machine.execRefreshDue ch bank s
  | .refpbRepay ch bank => Sys2Proof.Machine.execRefpbRepay ch bank s
  | .refreshComplete ch bank => Sys2Proof.Machine.execRefreshComplete ch bank s
  | .rowPrecharge ch bank => Sys2Proof.Machine.execRowPrecharge ch bank s
  | .activationThreshold ch bank row => Sys2Proof.Machine.execActivationThreshold ch bank row s
  | .throttleEnd ch bank vf => Sys2Proof.Machine.execThrottleEnd ch bank vf s
  | .trackerWindowEnd ch bank => Sys2Proof.Machine.execTrackerWindowEnd ch bank s
  | .alertBackOff ch bank => Sys2Proof.Machine.execAlertBackOff ch bank s
  | .hbmScrubRead ch ecc => Sys2Proof.Machine.execHbmScrubRead ch ecc s
  | .scrubEscalate ch ecc => Sys2Proof.Machine.execScrubEscalate ch ecc s
  | .hbmUncorrectable ch addr => Sys2Proof.Machine.execHbmUncorrectable ch addr s
  | .macMismatch line level => Sys2Proof.Machine.execMacMismatch line level s
  | .rootLost slice region => Sys2Proof.Machine.execRootLost slice region s
  | .launch cp q => Sys2Proof.Machine.execLaunch cp q s
  | .graph cp q => Sys2Proof.Machine.execGraph cp q s
  | .signal cp q => Sys2Proof.Machine.execSignal cp q s
  | .wait cp q => Sys2Proof.Machine.execWait cp q s
  | .copy cp q => Sys2Proof.Machine.execCopy cp q s
  | .launchComplete l => Sys2Proof.Machine.execLaunchComplete l s
  | .graphNodeComplete l => Sys2Proof.Machine.execGraphNodeComplete l s
  | .entrySelect cp => Sys2Proof.Machine.execEntrySelect cp s
  | .queueRefill cp q => Sys2Proof.Machine.execQueueRefill cp q s
  | .refillTimer cp q => Sys2Proof.Machine.execRefillTimer cp q s
  | .doorbell vf q => Sys2Proof.Machine.execDoorbell vf q s
  | .waitSlotPoll cp slot => Sys2Proof.Machine.execWaitSlotPoll cp slot s
  | .spilledWaitPoll cp q => Sys2Proof.Machine.execSpilledWaitPoll cp q s
  | .holdtExpired cp q => Sys2Proof.Machine.execHoldtExpired cp q s
  | .entryTimeout cp q n => Sys2Proof.Machine.execEntryTimeout cp q n s
  | .noticePost die => Sys2Proof.Machine.execNoticePost die s
  | .sysNop g => Sys2Proof.Machine.execSysNop g s
  | .meter g => Sys2Proof.Machine.execMeter g s
  | .notify g => Sys2Proof.Machine.execNotify g s
  | .tlbinv g => Sys2Proof.Machine.execTlbinv g s
  | .sysReply g => Sys2Proof.Machine.execSysReply g s
  | .stage2InvalidatePage die cmd => Sys2Proof.Machine.execStage2InvalidatePage die cmd s
  | .stage2InvalidateVf die cmd => Sys2Proof.Machine.execStage2InvalidateVf die cmd s
  | .queueStart die cmd => Sys2Proof.Machine.execQueueStart die cmd s
  | .queueStop die cmd => Sys2Proof.Machine.execQueueStop die cmd s
  | .mailboxInbound die mbx msg => Sys2Proof.Machine.execMailboxInbound die mbx msg s
  | .haltTimerExpired g => Sys2Proof.Machine.execHaltTimerExpired g s
  | .mbxin die msg => Sys2Proof.Machine.execMbxin die msg s
  | .mbxout die => Sys2Proof.Machine.execMbxout die s
  | .inpop die mbx => Sys2Proof.Machine.execInpop die mbx s
  | .registerWrite who reg value => Sys2Proof.Machine.execRegisterWrite who reg value s
  | .powerGood die image => Sys2Proof.Machine.execPowerGood die image s
  | .table cmd => Sys2Proof.Machine.execTable cmd s
  | .create cmd => Sys2Proof.Machine.execCreate cmd s
  | .destroy cmd => Sys2Proof.Machine.execDestroy cmd s
  | .vfon cmd => Sys2Proof.Machine.execVfon cmd s
  | .vfoff cmd => Sys2Proof.Machine.execVfoff cmd s
  | .lend cmd => Sys2Proof.Machine.execLend cmd s
  | .recall cmd => Sys2Proof.Machine.execRecall cmd s
  | .recallJobDeadline cluster => Sys2Proof.Machine.execRecallJobDeadline cluster s
  | .merge cmd => Sys2Proof.Machine.execMerge cmd s
  | .split cmd => Sys2Proof.Machine.execSplit cmd s
  | .resize cmd => Sys2Proof.Machine.execResize cmd s
  | .exportSlice cmd => Sys2Proof.Machine.execExportSlice cmd s
  | .importSlice cmd => Sys2Proof.Machine.execImportSlice cmd s
  | .core cmd => Sys2Proof.Machine.execCore cmd s
  | .flags cmd => Sys2Proof.Machine.execFlags cmd s
  | .region cmd => Sys2Proof.Machine.execRegion cmd s
  | .reload cmd => Sys2Proof.Machine.execReload cmd s
  | .quiesceStep slice => Sys2Proof.Machine.execQuiesceStep slice s
  | .gourdExchange slice cores => Sys2Proof.Machine.execGourdExchange slice cores s
  | .haltCores cores => Sys2Proof.Machine.execHaltCores cores s
  | .timeSliceEnd slice => Sys2Proof.Machine.execTimeSliceEnd slice s
  | .boostLimit => Sys2Proof.Machine.execBoostLimit s
  | .meterCopy => Sys2Proof.Machine.execMeterCopy s
  | .getVersion session => Sys2Proof.Machine.execGetVersion session s
  | .getCapabilities session => Sys2Proof.Machine.execGetCapabilities session s
  | .negotiateAlgorithms session => Sys2Proof.Machine.execNegotiateAlgorithms session s
  | .getDigests session => Sys2Proof.Machine.execGetDigests session s
  | .getCertificate session slot => Sys2Proof.Machine.execGetCertificate session slot s
  | .challenge session slot => Sys2Proof.Machine.execChallenge session slot s
  | .getMeasurements session index => Sys2Proof.Machine.execGetMeasurements session index s
  | .keyExchange session => Sys2Proof.Machine.execKeyExchange session s
  | .finish session => Sys2Proof.Machine.execFinish session s
  | .heartbeat session => Sys2Proof.Machine.execHeartbeat session s
  | .keyUpdate session => Sys2Proof.Machine.execKeyUpdate session s
  | .endSession session => Sys2Proof.Machine.execEndSession session s
  | .evidence session vf meter nonce => Sys2Proof.Machine.execEvidence session vf meter nonce s
  | .install session kind target gen key => Sys2Proof.Machine.execInstall session kind target gen key s
  | .keyProg session stream key => Sys2Proof.Machine.execKeyProg session stream key s
  | .kSetGo session stream => Sys2Proof.Machine.execKSetGo session stream s
  | .kSetStop session stream => Sys2Proof.Machine.execKSetStop session stream s
  | .lockInterfaceRequest session msg => Sys2Proof.Machine.execLockInterfaceRequest session msg s
  | .getDeviceInterfaceReport session msg => Sys2Proof.Machine.execGetDeviceInterfaceReport session msg s
  | .startInterfaceRequest session msg => Sys2Proof.Machine.execStartInterfaceRequest session msg s
  | .stopInterfaceRequest session msg => Sys2Proof.Machine.execStopInterfaceRequest session msg s
  | .tdispAbort => Sys2Proof.Machine.execTdispAbort s
  | .frozenRegisterWrite reg value => Sys2Proof.Machine.execFrozenRegisterWrite reg value s
  | .wrongStreamTlp stream vf posted => Sys2Proof.Machine.execWrongStreamTlp stream vf posted s
  | .hostMmio vf offset write tee stream => Sys2Proof.Machine.execHostMmio vf offset write tee stream s
  | .nymlinkRead addr bytes => Sys2Proof.Machine.execNymlinkRead addr bytes s
  | .nymlinkWrite addr data => Sys2Proof.Machine.execNymlinkWrite addr data s
  | .rd r => Sys2Proof.Machine.execRd r s
  | .rdx r => Sys2Proof.Machine.execRdx r s
  | .wr r => Sys2Proof.Machine.execWr r s
  | .atm r => Sys2Proof.Machine.execAtm r s
  | .probe dir => Sys2Proof.Machine.execProbe dir s
  | .rsp m port => Sys2Proof.Machine.execRsp m port s
  | .rcl m port => Sys2Proof.Machine.execRcl m port s
  | .fail m port => Sys2Proof.Machine.execFail m port s
  | .badmsg m port => Sys2Proof.Machine.execBadmsg m port s
  | .criticalDuplicate m port => Sys2Proof.Machine.execCriticalDuplicate m port s
  | .lineEvict slice fa => Sys2Proof.Machine.execLineEvict slice fa s
  | .ncExpire fa => Sys2Proof.Machine.execNcExpire fa s
  | .remoteTimeout r => Sys2Proof.Machine.execRemoteTimeout r s
  | .linkTrained port width => Sys2Proof.Machine.execLinkTrained port width s
  | .crcFailure port lane => Sys2Proof.Machine.execCrcFailure port lane s
  | .replayPassed port => Sys2Proof.Machine.execReplayPassed port s
  | .retrain port ok => Sys2Proof.Machine.execRetrain port ok s
  | .laneRetire port lane => Sys2Proof.Machine.execLaneRetire port lane s
  | .healthDecay port => Sys2Proof.Machine.execHealthDecay port s
  | .portDisable port => Sys2Proof.Machine.execPortDisable port s
  | .tokenRefill port => Sys2Proof.Machine.execTokenRefill port s
  | .fabricStatusWrite => Sys2Proof.Machine.execFabricStatusWrite s
  | .registerLineFetch g line => Sys2Proof.Machine.execRegisterLineFetch g line s
  | .gourdWriteOut b => Sys2Proof.Machine.execGourdWriteOut b s
  | .powerLoss => Sys2Proof.Machine.execPowerLoss s
  | .l2Uncorrectable line sector => Sys2Proof.Machine.execL2Uncorrectable line sector s
  | .doeDiscovery index => Sys2Proof.Machine.execDoeDiscovery index s
  | .outboundRingTake die mbx => Sys2Proof.Machine.execOutboundRingTake die mbx s
  | .unsupportedTdispRequest session msg => Sys2Proof.Machine.execUnsupportedTdispRequest session msg s

end Sys2Proof.Machine
end

