-- ==== Sys2Proof/Machine/Step.lean ====
section
/-! DEFINITION. The step of the machine: the next pick of the issue cycles, or the next event. -/

namespace Sys2Proof.Machine

/-- Run a pick: start the issue, execute the instruction it decodes to. -/
def stepIssue (iss : Issue) (s : State) : Host.Outcome State Fault Refusal :=
  match s.group iss.g with
  | none => .next s
  | some gr =>
    match s.startIssue iss with
    | .done t => .next t
    | .none t second => afterIssue gr (t.cur.getD iss) second (.next t)
    | .run t i second => afterIssue gr (t.cur.getD iss) second (exec i t)

/-- The first event of a list that the state enables; with none, nothing happens. -/
def stepEvents (s : State) : List Event → Host.Outcome State Fault Refusal
  | [] => .next s
  | e :: rest =>
    match e s with
    | .refused _ => stepEvents s rest
    | r => r

/-- One step. -/
def step (s : State) : Host.Outcome State Fault Refusal :=
  match s.issueQ with
  | iss :: rest => stepIssue iss { s with issueQ := rest }
  | [] =>
    match s.inbox with
    | e :: rest => exec e { s with inbox := rest }
    | [] => stepEvents s s.events

/-- The state with an instruction word placed where the next step fetches. -/
def State.withFetchWord (s : State) (_nbits w : Nat) : State := s.place (BitVec.ofNat 96 w)

end Sys2Proof.Machine
end

