-- ==== Sys2Proof/Machine/Olas.lean ====
section
/-! DEFINITION. The assembler olas from its parsed source on (chapter 02): packing into lines with targets, pairs and parity, labels, the data section,
the footprint list and the kernel header, and what it refuses. -/

namespace Sys2Proof.Machine

/-- An item of a kernel's source (R75, R80). Labels are numbers. A branch names its target's label; its OFFSET and TSLOT are olas's. -/
inductive SrcItem where
  /-- An instruction; `plus` when it is written with `+`; the label of a J-format target. -/
  | instr (i : Instr) (plus : Bool) (target : Option Nat)
  | label (l : Nat)
  | proc
  | endproc
  | vregs (n : Nat)
  | sregs (n : Nat)
  | divdepth (n : Nat)
  | pool (rf sp acc : Nat)
  | tiers (n : Nat)
  | producer (g : Nat)
  | scratch (n : Nat)
  | quota (kib : Nat)
  | trapvec (l : Nat)
  | footprint (argoff len mode : Nat)
  | align (n : Nat)
  | line
  | data
  | text
  | bytes (bs : List Byte)
  | space (n : Nat)
  deriving DecidableEq, Repr

/-- What olas refuses a source for (R79, R80, R189, R288, R307, R529). -/
inductive AsmError where
  | pairMark
  | pairForbidden
  | wbsAlone
  | field (reason : Nat)
  | budget
  | reach
  | undefinedLabel (l : Nat)
  | doubleLabel (l : Nat)
  | directive
  | noEntry
  /-- `.spill` where `.quota` is 0 (R307). -/
  | quota
  deriving DecidableEq, Repr

/-- A packed slot: its instruction, its label for a target, whether it may be entered, whether the next slot joins it. -/
structure AsmSlot where
  i      : Instr
  target : Option Nat := none
  tgt    : Bool := false
  pair   : Bool := false
  deriving DecidableEq, Repr

/-- What the kernel declares (R80), with the defaults. -/
structure AsmDecl where
  vregs    : Nat := 8
  sregs    : Nat := 8
  divdepth : Nat := 1
  partw    : Nat := 0x01020040
  tiers    : Nat := 3
  producer : Nat := 0xFFFF
  scratch  : Nat := 0
  quota    : Nat := 0
  trapvec  : Option Nat := none
  /-- ARGOFF, LENGTH, MODE, in source order. -/
  foot     : List (Nat × Nat × Nat) := []
  deriving DecidableEq, Repr

/-- The packing in progress: the slots so far, latest first, labels with their slot number, pending labels, the procedure's budgets, the entry. -/
structure AsmCode where
  slots  : List AsmSlot := []
  labels : Store Nat := []
  mark   : Bool := false
  /-- A `+` here has an instruction to join: none after a label, a `.line`, or the second of a pair. -/
  joins  : Bool := false
  inProc : Bool := false
  vreg   : Nat := 8
  sreg   : Nat := 8
  entry  : Option Nat := none
  deriving DecidableEq, Repr

/-- The canonical nop as an instruction, and a procedure mark of `m` granules (R81). -/
def nopInstr (m : Nat) : Instr :=
  .nop { h := { wbs := 0, greg := 511, gbit := 0, gneg := 0, dst := noneSpec }, a := noneSpec, b := noneSpec, c := noneSpec, md := BitVec.ofNat 30 m }

/-- A count in granules of 8. -/
def granules (n : Nat) : Nat := (n + 7) / 8

/-- Change the slot packed last. -/
def AsmCode.last (c : AsmCode) (f : AsmSlot → AsmSlot) : AsmCode :=
  match c.slots with
  | [] => c
  | x :: xs => { c with slots := f x :: xs }

/-- Does the slot after this instruction bear a target bit on its account (R49, R78)? -/
def isCallInstr (i : Instr) : Bool :=
  match i with
  | .call _ => true
  | .callx _ => true
  | _ => false

/-- Does the slot packed next follow a call? -/
def AsmCode.afterCall (c : AsmCode) : Bool := match c.slots with | x :: _ => isCallInstr x.i | [] => false

/-- Pack `n` padding nops: the first of them bears the target bit of a label that stands there, or of a call before it (R49, R78, R79). -/
def AsmCode.pad (c : AsmCode) : Nat → AsmCode
  | 0 => c
  | n + 1 => { c with slots := List.replicate n { i := nopInstr 0 } ++ { i := nopInstr 0, tgt := c.mark || c.afterCall } :: c.slots, mark := false }

/-- Fill with nops to the next line (R78, R80). -/
def AsmCode.fill (c : AsmCode) : AsmCode := c.pad ((5 - c.slots.length % 5) % 5)

/-- The end of the text: a label that stands there names a nop, and a call in its last slot is followed by one (R49, R79, log 127). -/
def AsmCode.finish (c : AsmCode) : AsmCode := let c1 := c.fill; if c1.mark || c1.afterCall then c1.pad 5 else c1

/-- The field that R73 would reject in an instruction, under the budgets in force (R79). -/
def asmField (i : Instr) (v s : Nat) : Option AsmError :=
  let u := use i
  let g := u.h.greg.toNat
  match staticReason i with
  | some r => some (.field r)
  | none =>
    if !(decide (g < 8 * granules v) || (decide (256 ≤ g) && decide (g - 256 < 8 * granules s)) || g == 511) ||
        !u.ops.all (OpUse.budgetOk (8 * granules v) (8 * granules s)) then some .budget
    else none

/-- Pack one instruction (R78); `pairs` when the next instruction joins it, so that a first of a pair does not stand in slot 4. -/
def AsmCode.put (c : AsmCode) (i : Instr) (plus pairs : Bool) (target : Option Nat) : Except AsmError AsmCode :=
  match asmField i c.vreg c.sreg with
  | some e => .error e
  | none =>
    if plus && !c.joins then .error .pairMark
    else if pairs && plus then .error .pairMark
    else if (use i).h.wbs == 1 && !(pairs && producesResult i) then .error .wbsAlone
    else if (plus || pairs) && noPairOp (opcode i) then .error .pairForbidden
    else
      let c1 := if pairs && c.slots.length % 5 == 4 then c.fill else c
      let c2 := if plus then c1.last (fun x => { x with pair := true }) else c1
      let n := c2.slots.length
      let entry := if c.entry.isNone && !c.inProc then some n else c.entry
      .ok { c2 with
        slots := { i := i, target := target, tgt := c1.mark || c1.afterCall || (c.entry.isNone && !c.inProc) } :: c2.slots,
        mark := false, joins := !plus, entry := entry }

/-- Does the instruction set SPILL (R307)? -/
def spills (i : Instr) : Bool := match i with | .strm f => f.eflg.getLsbD 2 | _ => false

/-- Does the next instruction of the text join the one before it? What stands in the data section (true) is no part of the text. -/
def nextPlus : Bool → List SrcItem → Bool
  | _, [] => false
  | _, .data :: rest => nextPlus true rest
  | _, .text :: rest => nextPlus false rest
  | true, _ :: rest => nextPlus true rest
  | false, .instr _ p _ :: _ => p
  | false, .label _ :: _ => false
  | false, .line :: _ => false
  | false, .proc :: _ => false
  | false, .endproc :: _ => false
  | false, .align _ :: _ => false
  | false, _ :: rest => nextPlus false rest

/-- Is the next instruction of the text the first of a pair? -/
def nextPair : Bool → List SrcItem → Bool
  | _, [] => false
  | _, .data :: rest => nextPair true rest
  | _, .text :: rest => nextPair false rest
  | true, _ :: rest => nextPair true rest
  | false, .instr _ _ _ :: rest => nextPlus false rest
  | false, .line :: _ => false
  | false, .proc :: _ => false
  | false, .endproc :: _ => false
  | false, .align _ :: _ => false
  | false, _ :: rest => nextPair false rest

/-- The vector budget that a procedure declares, before its end (R80, R81). -/
def procBudget (v : Nat) : List SrcItem → Nat
  | [] => v
  | .endproc :: _ => v
  | .vregs n :: rest => procBudget n rest
  | _ :: rest => procBudget v rest

/-- Is the item one that has a place in the text alone: an instruction or a directive of the code (R80, log 146)? -/
def SrcItem.textOnly : SrcItem → Bool
  | .instr _ _ _ => true
  | .line => true
  | .proc => true
  | .endproc => true
  | _ => false

/-- A power of two from 64 on. -/
def alignOk (n : Nat) : Bool := decide (64 ≤ n) && decide (2 ^ n.log2 = n)

/-- Pack the text (R78, R80, R81, R529). `d` holds the kernel's declarations. Labels in the data section are placed by the data pass. -/
def packText (d : AsmDecl) : List SrcItem → Bool → AsmCode → Except AsmError AsmCode
  | [], _, c => .ok c
  | .data :: rest, _, c => packText d rest true c
  | .text :: rest, _, c => packText d rest false c
  | .vregs n :: rest, b, c =>
    if c.inProc && decide (granules d.vregs < granules n) then .error .directive else packText d rest b c
  | x :: rest, true, c => if x.textOnly then .error .directive else packText d rest true c
  | .instr i p t :: rest, false, c =>
    if spills i && d.quota == 0 then .error .quota
    else match c.put i p (nextPlus false rest) t with
    | .error e => .error e
    | .ok c1 => packText d rest false c1
  | .label l :: rest, false, c =>
    if (Store.find c.labels l).isSome then .error (.doubleLabel l)
    else
      -- a label before a pair that would start in slot 4 stands at the pair's slot, in the next line
      let c1 := if nextPair false rest && c.slots.length % 5 == 4 then c.fill else c
      packText d rest false { c1 with labels := Store.put c1.labels l c1.slots.length, mark := true, joins := false }
  | .proc :: rest, false, c =>
    let b := procBudget d.vregs rest
    if c.inProc then .error .directive
    else
      let c1 := c.fill
      packText d rest false { c1 with
        slots := { i := nopInstr (granules b), tgt := true } :: c1.slots, inProc := true, vreg := b, mark := false, joins := false }
  | .endproc :: rest, false, c =>
    if c.inProc then packText d rest false { c with inProc := false, vreg := d.vregs, joins := false } else .error .directive
  | .bytes _ :: _, false, _ => .error .directive
  | .space _ :: _, false, _ => .error .directive
  | .line :: rest, false, c => packText d rest false { c.fill with joins := false }
  | .align n :: rest, false, c =>
    if !alignOk n then .error .directive
    else
      let c1 := c.fill
      let off := 256 + 64 * (c1.slots.length / 5)
      packText d rest false { c1.pad (5 * (((n - off % n) % n) / 64)) with joins := false }
  | _ :: rest, false, c => packText d rest false c

/-- The data section from an image offset (R80, R82): its bytes and labels. -/
def packData (base : Nat) : List SrcItem → Bool → List Byte → Store Nat → Except AsmError (List Byte × Store Nat)
  | [], _, bs, ls => .ok (bs, ls)
  | .data :: rest, _, bs, ls => packData base rest true bs ls
  | .text :: rest, _, bs, ls => packData base rest false bs ls
  | _ :: rest, false, bs, ls => packData base rest false bs ls
  | .label l :: rest, true, bs, ls =>
    if (Store.find ls l).isSome then .error (.doubleLabel l) else packData base rest true bs (Store.put ls l (base + bs.length))
  | .bytes x :: rest, true, bs, ls => packData base rest true (bs ++ x) ls
  | .space n :: rest, true, bs, ls => packData base rest true (bs ++ List.replicate n 0) ls
  | .align n :: rest, true, bs, ls =>
    if alignOk n then packData base rest true (bs ++ List.replicate ((n - (base + bs.length) % n) % n) 0) ls else .error .directive
  | _ :: rest, true, bs, ls => packData base rest true bs ls

/-- The declarations of a kernel, outside its procedures (R80); a value outside its range is refused (R288 for `.pool`). -/
def declare : List SrcItem → Bool → AsmDecl → Except AsmError AsmDecl
  | [], _, d => .ok d
  | .proc :: rest, _, d => declare rest true d
  | .endproc :: rest, _, d => declare rest false d
  | .vregs n :: rest, p, d => if n = 0 ∨ 256 < n then .error .directive else declare rest p (if p then d else { d with vregs := n })
  | .sregs n :: rest, p, d => if n = 0 ∨ 128 < n then .error .directive else declare rest p { d with sregs := n }
  | .divdepth n :: rest, p, d => if n = 0 ∨ 64 < n then .error .directive else declare rest p { d with divdepth := n }
  | .pool a b c :: rest, p, d =>
    let rf := (a + 63) / 64
    let sp := (b + 3) / 4
    if a = 0 ∨ 6144 < a ∨ c % 128 ≠ 0 ∨ 8192 < 64 * rf + 4 * sp + c then .error .directive
    else declare rest p { d with partw := rf + 256 * sp + 2 ^ 20 * (c / 128) }
  | .tiers n :: rest, p, d => if n < 3 ∨ 8 < n then .error .directive else declare rest p { d with tiers := n }
  | .producer g :: rest, p, d => if 4095 < g then .error .directive else declare rest p { d with producer := g }
  | .scratch n :: rest, p, d => if 2 ^ 32 ≤ n then .error .directive else declare rest p { d with scratch := n }
  | .quota k :: rest, p, d => if k % 4 ≠ 0 ∨ 2 ^ 34 ≤ k then .error .directive else declare rest p { d with quota := k / 4 }
  | .trapvec l :: rest, p, d => declare rest p { d with trapvec := some l }
  | .footprint a n m :: rest, p, d =>
    if a % 8 ≠ 0 ∨ 2 ^ 16 ≤ a ∨ 2 ^ 64 ≤ n ∨ m = 0 ∨ 3 < m ∨ 256 ≤ d.foot.length then .error .directive
    else declare rest p { d with foot := d.foot ++ [(a, n, m)] }
  | _ :: rest, p, d => declare rest p d

/-- The image offset of a slot's instruction address (R82). -/
def slotAddr (n : Nat) : Nat := 256 + 64 * (n / 5) + n % 5

/-- An instruction with the OFFSET and TSLOT of its target (R55); refused beyond the reach. -/
def branchTo (i : Instr) (line dst : Nat) : Except AsmError Instr :=
  let off : Int := (dst / 64 : Nat) - (line / 64 : Nat)
  if off < -(2 ^ 26) ∨ 2 ^ 26 ≤ off then .error .reach
  else
    let o := BitVec.ofInt 27 off
    let t := BitVec.ofNat 3 (dst % 64)
    match i with
    | .bra f => .ok (.bra { f with off := o, tslot := t })
    | .dbra f => .ok (.dbra { f with off := o, tslot := t })
    | .call f => .ok (.call { f with off := o, tslot := t })
    | .rgn f => .ok (.rgn { f with off := o, tslot := t })
    | _ => .error .directive

/-- The words of the slots from number `n` on, with their targets. -/
def resolve (labels : Store Nat) : Nat → List AsmSlot → Except AsmError (List W96)
  | _, [] => .ok []
  | n, x :: xs =>
    let i : Except AsmError Instr :=
      match x.target with
      | none => .ok x.i
      | some l =>
        match Store.find labels l with
        | none => .error (.undefinedLabel l)
        | some k => branchTo x.i (slotAddr n) (slotAddr k)
    match i, resolve labels (n + 1) xs with
    | .ok y, .ok ws => .ok ((encode y).getD nopWord :: ws)
    | .error e, _ => .error e
    | _, .error e => .error e

/-- A fetch line (R45): five words, their targets, their pairs, and parity. -/
def asmLine (ws : List W96) (xs : List AsmSlot) : BitVec 512 :=
  let p : Nat := ((List.range 5).map (fun k => (ws.getD k 0).toNat * 2 ^ (96 * k))).sum
  let par : Nat := ((List.range 8).map (fun j => onesCount 60 (p / 2 ^ (60 * j) % 2 ^ 60) % 2 * 2 ^ (24 + j))).sum
  let tgt : Nat := ((List.range 5).map (fun k => if (xs.getD k { i := nopInstr 0 }).tgt then 2 ^ (19 + k) else 0)).sum
  let prs : Nat := ((List.range 4).map (fun k => if (xs.getD k { i := nopInstr 0 }).pair then 2 ^ (15 + k) else 0)).sum
  BitVec.ofNat 512 (p + (par + tgt + prs) * 2 ^ 480)

/-- The lines of packed slots. -/
def asmLines : Nat → List W96 → List AsmSlot → List Byte
  | 0, _, _ => []
  | n + 1, ws, xs => leBytes 64 (asmLine (ws.take 5) (xs.take 5)).toNat ++ asmLines n (ws.drop 5) (xs.drop 5)

/-- The kernel header (R83). -/
def asmHeader (d : AsmDecl) (entry trap foot : Nat) : List Byte :=
  leBytes 4 0x4F4C4B31 ++ leBytes 2 1 ++ leBytes 2 0 ++ leBytes 1 (granules d.vregs) ++ leBytes 1 (granules d.sregs) ++ leBytes 1 d.divdepth ++
  leBytes 1 d.tiers ++ leBytes 4 d.partw ++ leBytes 4 d.scratch ++ leBytes 2 d.producer ++ leBytes 2 d.foot.length ++ leBytes 4 d.quota ++
  leBytes 4 0 ++ leBytes 8 trap ++ leBytes 8 entry ++ leBytes 8 foot ++ List.replicate 200 0

/-- The footprint list (R84). -/
def asmFoot (d : AsmDecl) : List Byte :=
  d.foot.flatMap (fun f => leBytes 2 f.1 ++ leBytes 1 f.2.2 ++ List.replicate 5 0 ++ leBytes 8 f.2.1)

/-- Zeros up to the next multiple of `n`. -/
def padTo (n : Nat) (bs : List Byte) : List Byte := bs ++ List.replicate ((n - bs.length % n) % n) 0

/-- The image of one kernel, or why olas refuses it (R78–R84, R529). Without a data section the footprint list stands at the next 16-byte boundary
after the last line (log 123). -/
def assemble (src : List SrcItem) : Except AsmError (List Byte) :=
  match declare src false {} with
  | .error e => .error e
  | .ok d =>
    match packText d src false { vreg := d.vregs, sreg := d.sregs } with
    | .error e => .error e
    | .ok c0 =>
      let c := c0.finish
      let xs := c.slots.reverse
      let n := xs.length / 5
      let dbase := (256 + 64 * n + 255) / 256 * 256
      match c.entry, packData dbase src false [] [], resolve c.labels 0 xs with
      | none, _, _ => .error .noEntry
      | _, .error e, _ => .error e
      | _, _, .error e => .error e
      | some en, .ok (dat, dl), .ok ws =>
        match dl.find? (fun l => (Store.find c.labels l.1).isSome) with
        | some l => .error (.doubleLabel l.1)
        | none =>
          let tv : Except AsmError Nat :=
            match d.trapvec with
            | none => .ok 0
            | some l =>
              match Store.find c.labels l with
              | some k => .ok (slotAddr k)
              | none => .error (.undefinedLabel l)
          match tv with
          | .error e => .error e
          | .ok t =>
            let body := asmLines n ws xs
            let img := if dat = [] then body else padTo 256 body ++ dat
            let img2 := if d.foot = [] then img else padTo 16 img ++ asmFoot d
            let fp := if d.foot = [] then 0 else 256 + (padTo 16 img).length
            .ok (asmHeader d (slotAddr en) t fp ++ img2)

end Sys2Proof.Machine
end

