-- ==== Sys2Proof/Safety.lean ====
section
/-! DEFINITION. The terms in which claims are stated: a run without a fault of the model, an instruction that takes effect, what it writes
and what it leaves. -/

namespace Sys2Proof.Machine

/-- The memory is in its canonical form. -/
def State.memOk (s : State) : Prop := Memory.wf s.mem = true

/-- The memory is in its canonical form, and no exported blob holds a byte that an unlisted address reads as. -/
def State.canonical (s : State) : Prop := s.memOk ∧ ∀ e ∈ s.exports, ∀ c ∈ e.mem, c.2 ≠ memDefault

/-- A step that answers a next state. -/
def State.stepsTo (s t : State) : Prop := step s = .next t

/-- No source of the instruction carries a fault: no queue entry of a passing thread (R312), no latch of a thread that is read (R68). -/
def Group.sound (gr : Group) (i : Instr) (once : Bool) (pc : W64) (ps : List Nat) : Bool :=
  ps.all (fun l => (gr.queueFault (queuesOf i) l pc).isNone) && (if fromLowest i once then ps.take 1 else ps).all (fun l => (gr.lostLatch i l).isNone)

/-- The instruction in course takes effect: the issue, its group, and the threads in which it does, of `vote` and `lred` those that take part. There is a passing thread (R25, R28),
no check of R73 fails, no register, latch or queue that it reads is still to come (R217, R299, R310), no named queue is idle (R310), and no
source carries a fault (R68, R312). -/
def issuing (i : Instr) (once : Bool) (s : State) : Option (Issue × Group × List Nat) :=
  match s.cur with
  | none => none
  | some iss =>
    match s.group iss.g with
    | none => none
    | some gr =>
      let ps := gr.takers i (use i).h (gr.passing (use i).h once (iss.path gr))
      if ps ≠ [] ∧ failedCheck iss gr i = none ∧
          gr.guardWait (use i).h (if fromLowest i once then (iss.path gr).take 1 else iss.path gr) = none ∧ gr.srcWait i once ps = none ∧
          (queuesOf i).find? (fun k => (gr.oq.getD k {}).st == .idle) = none ∧ gr.sound i once iss.pc ps = true then
        some (iss, gr, ps)
      else none

/-- What a register-result instruction leaves of a thread: all but its registers, its place and what its next issue depends on. -/
def Lane.rest (l : Lane) : Lane := { l with v := [], pend := [], pc := 0, issued := 0, exempt := false, wait := .none, prods := [] }

/-- What it leaves of a group: all but threads, scalar registers, latches, queues and FPSTAT. -/
def Group.rest (gr : Group) : Group := { gr with lanes := [], s := [], spend := [], latch := [], oq := [], fpstat := 0 }

/-- Register `r` of a destination of `n` registers from `b`. -/
def inDst (b n r : Nat) : Prop := b ≤ r ∧ r < b + n

/-- The registers after an instruction that writes `val` to `n` registers of its destination in the threads `ps`, and no other register
(R25); with WBS no register is written (R67). -/
def Group.wrote (gr gr' : Group) (h : Hdr) (n : Nat) (ps : List Nat) (val : Nat → W128) : Prop :=
  match h.wbs == 1, Operand.ofSpec h.dst with
  | false, .vreg b =>
    (∀ l ∈ ps, ∀ k < n, (gr'.lane l).rd (b + k) = (val l).extractLsb' (32 * k) 32) ∧
    (∀ l r, (l ∉ ps ∨ ¬ inDst b n r) → (gr'.lane l).rd r = (gr.lane l).rd r) ∧ (∀ r, gr'.rd r = gr.rd r)
  | false, .sreg b =>
    (∀ k < n, gr'.rd (b + k) = (val (ps.headD 0)).extractLsb' (32 * k) 32) ∧
    (∀ r, ¬ inDst b n r → gr'.rd r = gr.rd r) ∧ (∀ l r, (gr'.lane l).rd r = (gr.lane l).rd r)
  | _, _ => (∀ l r, (gr'.lane l).rd r = (gr.lane l).rd r) ∧ (∀ r, gr'.rd r = gr.rd r)

/-- The threads of the path have moved on to Next(PC), the others stand where they stood (R183). -/
def Group.moved (gr gr' : Group) (iss : Issue) : Prop :=
  ∀ l, (gr'.lane l).pc = if l ∈ iss.path gr then nextPc iss.pc else (gr.lane l).pc

/-- Whose operands give the result of thread `l`: with a scalar destination the lowest passing thread's (R25). -/
def leader (i : Instr) (ps : List Nat) (l : Nat) : Nat := if isScalSpec (use i).h.dst then ps.headD 0 else l

/-- The instruction completes: in each thread of `ps` it writes `val`, ORs `fl` into FPSTAT, enters its value into the first latch, pops the
queues it names, moves its path on, and leaves everything else of the machine as it was. -/
def completes (i : Instr) (n : Nat) (s : State) (iss : Issue) (gr : Group) (ps : List Nat) (val : Nat → W128) (fl : Nat → Flags) : Prop :=
  ∃ gr', exec i s = .next (s.putGroup iss.g gr') ∧ gr.wrote gr' (use i).h n ps val ∧ gr.moved gr' iss ∧
    gr'.fpstat = ps.foldl (fun x l => x ||| fl (leader i ps l)) gr.fpstat ∧
    (∀ l ∈ ps, gr'.latchVal l 0 n = lowRegs n (val (leader i ps l))) ∧
    gr'.oq = (gr.popQueues (queuesOf i)).oq ∧
    (∀ l, (gr'.lane l).rest = (gr.lane l).rest) ∧ gr'.rest = gr.rest

/-- In every state in which the instruction takes effect it completes with `val` of the group before the issue, provided `ok` holds of each
thread's operands. -/
def givesIf (i : Instr) (n : Nat) (ok : Group → Nat → Prop) (val : Group → List Nat → Nat → W128) : Prop :=
  ∀ s iss gr ps, issuing i (isScalSpec (use i).h.dst) s = some (iss, gr, ps) → (∀ l ∈ ps, ok gr (leader i ps l)) →
    completes i n s iss gr ps (val gr ps) (fun _ => 0)

/-- As `givesIf`, for all operands. -/
def gives (i : Instr) (n : Nat) (val : Group → List Nat → Nat → W128) : Prop := givesIf i n (fun _ _ => True) val

/-- A float result: in every state in which the instruction takes effect, and no exception of a thread's result is enabled in FPCTL, it
completes with the results and ORs their exceptions into FPSTAT (R98–R100). -/
def givesF (i : Instr) (r : Group → Nat → FRes) : Prop :=
  ∀ s iss gr ps, issuing i (isScalSpec (use i).h.dst) s = some (iss, gr, ps) →
    (∀ l ∈ ps, (r gr (leader i ps l)).2 &&& gr.fpctl = 0) →
    completes i 1 s iss gr ps (fun l => BitVec.ofNat 128 (r gr l).1) (fun l => (r gr l).2)

/-- The group apart from its threads and the lines its instruction path holds. -/
def Group.body (gr : Group) : Group := { gr with lanes := [], ilines := [] }

/-- A fault of the result in every thread that is read: each of these parks with `code` and EXTRA at the instruction (R261, R267). The instruction
takes no effect, and the threads that did not park issue it again (R127; log 11). -/
def parksIf (i : Instr) (code : Byte) (extra : Group → Nat → W32) (bad : Group → Nat → Prop) : Prop :=
  ∀ s iss gr ps, issuing i (isScalSpec (use i).h.dst) s = some (iss, gr, ps) → (∀ l ∈ ps, bad gr (leader i ps l)) →
    ∃ gr', exec i s = .next (s.putGroup iss.g gr') ∧
      (∀ l ∈ if isScalSpec (use i).h.dst then ps.take 1 else ps, (gr'.lane l).run = .parked ∧ (gr'.lane l).flt.code = code ∧
        (gr'.lane l).flt.extra = extra gr (leader i ps l) ∧ (gr'.lane l).flt.pc = iss.pc ∧ (gr'.lane l).flt.resume = iss.pc) ∧
      (∀ l, l ∉ (if isScalSpec (use i).h.dst then ps.take 1 else ps) → gr'.lane l = gr.lane l) ∧
      (∀ l r, (gr'.lane l).rd r = (gr.lane l).rd r) ∧ (∀ l, (gr'.lane l).pc = (gr.lane l).pc) ∧ gr'.body = gr.body

/-- In every state in which the instruction takes effect and `pre` holds, it answers a next state that differs from the one before in the
issuing group alone, and `post` says how. -/
def inGroup (i : Instr) (once : Bool) (pre : State → Issue → Group → List Nat → Prop)
    (post : State → Issue → Group → List Nat → Group → Prop) : Prop :=
  ∀ s iss gr ps, issuing i once s = some (iss, gr, ps) → pre s iss gr ps →
    ∃ gr', exec i s = .next (s.putGroup iss.g gr') ∧ post s iss gr ps gr'

/-- The passing threads become what `f` gives; the rest of the path goes on at Next(PC), and every other thread stays (R183). -/
def Group.threads (gr gr' : Group) (iss : Issue) (ps : List Nat) (f : Nat → Lane → Lane) : Prop :=
  ∀ l, gr'.lane l = if l ∈ ps then f l (gr.lane l) else if l ∈ iss.path gr then (gr.lane l).goTo (nextPc iss.pc) else gr.lane l

/-- A thread that takes a precise fault at `pc` (R260, R267), its registers, stack and place unchanged. -/
def parked (gr : Group) (code : Byte) (extra : W32) (pc : W64) (l : Nat) (x : Lane) : Lane := x.park l gr.trapvec (preciseFault code extra pc)

/-- The transfer to `t` passes the checks of R48 on the line `d`, with no change of the machine but to the group. -/
def State.reaches (s : State) (gr : Group) (t : W64) (d : BitVec 512) : Prop := s.enter gr t false = (s, .ok d)

/-- The transfer to `t` finds its line, and no entry there (step 2 of R48). -/
def State.misses (s : State) (gr : Group) (t : W64) : Prop := s.enter gr t false = (s, .badTarget)

/-- The home of a translated address (R201). -/
def State.homeFor (s : State) (gr : Group) (tr : Tr) : Nat :=
  if tr.coh then s.dirHome (s.jobVf gr) tr.pa else s.homeOf tr.pa

/-- The request that a thread's global access becomes (R217): its place in program order, its bytes, its home, its data and the witness it
presents. -/
def State.asks (s : State) (iss : Issue) (gr : Group) (a : AccSpec) (l : Nat) (va : W64) (tr : Tr) (data : W128) (w : W64)
    (wits : List W64) : Req :=
  { g := iss.g, lane := l, seq := s.nextSeq, kind := a.kind, sp := none, vf := s.jobVf gr, slice := s.sliceOf gr, va := va, pa := tr.pa,
    home := s.homeFor gr tr, coh := tr.coh, rchk := tr.rchk, width := a.width, bytes := a.bytes, data := data, wit := s.standIn gr w,
    wits := wits, scope := a.scope, hint := a.hint, dst := a.dst, pc := iss.pc, issued := (gr.lane l).issued + 1, fab := .unsent }

/-- The page and the watches let the thread's access through (R218, R377). -/
def State.permits (s : State) (gr : Group) (a : AccSpec) (l : Nat) (va : W64) (tr : Tr) : Prop :=
  ¬ (s.homeFor gr tr = hostHome ∧ gr.priv = false ∧ s.tstate (s.jobVf gr) = 3) ∧ (a.kind.atomic = true → s.homeFor gr tr ≠ hostHome) ∧
    ((a.kind.writes = false ∨ a.kind.atomic = true) → tr.r = true) ∧ (a.kind.writes = true → tr.w = true) ∧
    gr.lsuWatch l va a.bytes a.kind.writes = none

/-- What issuing accesses leaves of the group: its registers, stacks and run states. The destination is marked as still to come. -/
def Group.issued (gr gr' : Group) (iss : Issue) : Prop :=
  gr.moved gr' iss ∧ (∀ l r, (gr'.lane l).rd r = (gr.lane l).rd r) ∧ (∀ r, gr'.rd r = gr.rd r) ∧
    (∀ l, (gr'.lane l).rest = (gr.lane l).rest) ∧ gr'.fpstat = gr.fpstat ∧ gr'.fpctl = gr.fpctl ∧ gr'.latch = gr.latch ∧
    gr'.fltmask = gr.fltmask ∧ gr'.st = gr.st

/-- The accesses of an instruction are in flight: one request for each issuing thread, under the next issue number, and nothing else begun or
written. -/
def inFlight (i : Instr) (s : State) (iss : Issue) (gr : Group) (ls : List Nat) (req : Nat → Req) : Prop :=
  ∃ t gr', exec i s = .next t ∧ t.group iss.g = some gr' ∧ gr.issued gr' iss ∧
    gr'.oq = (gr.popQueues (queuesOf i)).oq ∧
    t.nextSeq = s.nextSeq + 1 ∧ (∀ l ∈ ls, Store.find t.reqs (reqKey s.nextSeq l) = some (req l)) ∧
    (∀ k, (∀ l ∈ ls, k ≠ reqKey s.nextSeq l) → Store.find t.reqs k = Store.find s.reqs k) ∧
    (∀ g, g ≠ iss.g → t.group g = s.group g) ∧ t.mem = s.mem ∧ t.poison = s.poison ∧ t.blocks = s.blocks ∧ t.cores = s.cores ∧
    t.slots = s.slots ∧ t.ctr = s.ctr

/-- A global access that no check stops becomes requests: the witness of every issuing thread is satisfied, its address is aligned,
translated without a change of the TLBs (with any translation, where one thread issues) and permitted, and a message that it needs finds an entry of
the remote-wait table. -/
def globalIssues (i : Instr) (f : FmtM) (once : Bool) (k : ReqKind) (data : Group → Nat → W128) (regs : Nat) : Prop :=
  ∀ s iss gr ps (tr : Nat → Tr), issuing i once s = some (iss, gr, ps) →
    let a := accSpec f k regs
    let ls := issuers once ps
    let va := fun l => gr.src64 l f.a + f.off.signExtend 64
    let w := fun l => gr.presented l f.c
    (∀ l ∈ ls, s.sat gr true (w l) = .yes ∧ (va l).toNat % widthBytes f.width = 0 ∧ (s.translate gr.core (s.vfOf gr) (va l)).2 = .ok (tr l) ∧
      s.permits gr a l (va l) (tr l) ∧ s.noEntry (s.asks iss gr a l (va l) (tr l) (data gr l) (w l) (ls.map w)) = false) →
    (ls.length = 1 ∨ ∀ l ∈ ls, (s.translate gr.core (s.vfOf gr) (va l)).1 = s) →
    inFlight i s iss gr ls (fun l => s.asks iss gr a l (va l) (tr l) (data gr l) (w l) (ls.map w))

/-- While the witness of an issuing thread is not satisfied, the path waits at the instruction and nothing else happens (R214, R299). -/
def awaitsWitness (i : Instr) (once : Bool) (c : BitVec 10) : Prop :=
  inGroup i once (fun s _ gr ps => ∃ l ∈ issuers once ps, s.sat gr true (gr.presented l c) = .no)
    (fun _ iss gr _ gr' => gr' = gr.stay (iss.path gr) .witness)

/-- While a message that the access of an issuing thread needs finds no entry in its die's remote-wait table, the path waits at the instruction and
nothing else happens (R299, R520); no witness and no line of a table is waited for. -/
def awaitsEntry (i : Instr) (f : FmtM) (once : Bool) (k : ReqKind) (data : Group → Nat → W128) (regs : Nat) : Prop :=
  ∀ tr : Tr, inGroup i once (fun s iss gr ps =>
    let a := accSpec f k regs
    let ls := issuers once ps
    let w := fun l => gr.presented l f.c
    (∀ l ∈ ls, s.sat gr true (w l) = .yes ∧ s.effAsk f gr l = none) ∧
    ∃ l ∈ ls, (effAddr f gr l).toNat % widthBytes f.width = 0 ∧ (s.translate gr.core (s.vfOf gr) (effAddr f gr l)).2 = .ok tr ∧
      s.permits gr a l (effAddr f gr l) tr ∧ s.noEntry (s.asks iss gr a l (effAddr f gr l) tr (data gr l) (w l) (ls.map w)) = true)
    (fun _ iss gr _ gr' => gr' = gr.stay (iss.path gr) .reply)

/-- A fault of an access: where `pre` holds of every issuing thread, each parks with `code` and EXTRA, in a per-path form every passing thread
does as the lowest; nothing is requested. Where the addresses are translated, one thread issues or no translation changes the state. -/
def accessFaults (i : Instr) (once walks : Bool) (va : Group → Nat → W64) (c : BitVec 10) (code : Byte)
    (pre : State → Group → Nat → W32 → Prop) : Prop :=
  ∀ s iss gr ps (x : Nat → W32), issuing i once s = some (iss, gr, ps) →
    (∀ l ∈ issuers once ps, s.sat gr true (gr.presented l c) = .yes ∧ pre s gr l (x l)) →
    (walks = false ∨ (issuers once ps).length = 1 ∨ ∀ l ∈ issuers once ps, (s.translate gr.core (s.vfOf gr) (va gr l)).1 = s) →
    ∃ t gr', exec i s = .next t ∧ t.group iss.g = some gr' ∧ t.reqs = s.reqs ∧ t.mem = s.mem ∧
      ∀ l ∈ ps, let o := if once then ps.headD 0 else l
        gr'.lane l = (gr.lane l).park l gr.trapvec { preciseFault code (x o) iss.pc with addr := some (va gr o) }

/-- A witness instruction completes: `val` is written in the threads of `ps`, the path goes on, and all but OBS, the queues and the
destination stays; no latch is written (R66). -/
def witnessGives (i : Instr) (f : FmtM) (n : Nat) (once : Bool) (pre : State → Group → List Nat → Nat → Prop)
    (val : State → Group → List Nat → Nat → W128) : Prop :=
  inGroup i once (fun s _ gr ps => ∀ l ∈ issuers once ps, pre s gr ps l) (fun s iss gr ps gr' =>
    gr.wrote gr' f.h n ps (val s gr ps) ∧ gr.moved gr' iss ∧ (∀ l, (gr'.lane l).rest = (gr.lane l).rest) ∧
    gr'.oq = (gr.popQueues (queuesOf i)).oq ∧
    gr'.latch = gr.latch ∧ gr'.fpstat = gr.fpstat ∧ { gr'.rest with obs := 0 } = { gr.rest with obs := 0 })

/-- The state that the checks leave for the instruction to act on: the queues that it names are popped. -/
def State.popped (s : State) (iss : Issue) (gr : Group) (i : Instr) : State := s.putGroup iss.g (gr.popQueues (queuesOf i))

/-- An instruction that writes `n` registers of its destination in the threads `ps` and no latch (R66), moves its path on, and leaves the rest
of its group. -/
def Group.result (gr gr' : Group) (i : Instr) (iss : Issue) (n : Nat) (ps : List Nat) (val : Nat → W128) : Prop :=
  gr.wrote gr' (use i).h n ps val ∧ gr.moved gr' iss ∧ (∀ l, (gr'.lane l).rest = (gr.lane l).rest) ∧
    gr'.oq = (gr.popQueues (queuesOf i)).oq ∧
    gr'.latch = gr.latch ∧ gr'.fpstat = gr.fpstat ∧ gr'.rest = gr.rest

/-- The instruction writes no register: its path moves on, and the group is `g1` but for its threads and the lines it holds. -/
def Group.goesOn (gr gr' g1 : Group) (iss : Issue) (ps : List Nat) : Prop :=
  gr.threads gr' iss ps (fun _ x => x.goTo (nextPc iss.pc)) ∧ gr'.body = g1.body

/-- Every thread of `ps` parks at the instruction with the fault, and nothing else of the machine changes but the queues popped. -/
def parksAll (i : Instr) (once : Bool) (pre : State → Issue → Group → List Nat → Prop) (x : Issue → Group → List Nat → FaultInfo) : Prop :=
  inGroup i once pre (fun _ iss gr ps gr' =>
    (∀ l ∈ ps, gr'.lane l = (gr.lane l).park l gr.trapvec (x iss gr ps)) ∧ (∀ r, gr'.rd r = gr.rd r) ∧
    gr'.body = (gr.popQueues (queuesOf i)).body)

/-- A thread's scratchpad access meets a Full line, and nothing keeps it from being performed: its witness is satisfied, its address aligned and in
range, no earlier access of its group is in flight, and its slice does not renew its stamps. -/
def State.fullAt (s : State) (iss : Issue) (gr : Group) (f : FmtE) (l : Nat) (loc : Nat × Nat × Nat) (sh : Share) : Prop :=
  let n := widthBytes f.width
  let ad := gr.src32 l f.a + f.soff.signExtend 32
  s.sat gr true (gr.presented l f.c) = .yes ∧ ad.toNat % n = 0 ∧ s.spAddr gr ad n = some loc ∧ s.share loc.1 loc.2.1 = some sh ∧
    (sh.line (loc.2.2 / 128)).pend = 0 ∧ (sh.line (loc.2.2 / 128)).w = true ∧ (∀ i < n, Store.get false sh.poison (loc.2.2 + i) = false) ∧
    (∀ e ∈ s.reqs, e.2.g ≠ iss.g ∧ e.1 < reqKey s.nextSeq 0) ∧ s.stalled (s.sliceOf gr) = false

/-- The request of a thread's scratchpad access. -/
def State.shareAsks (s : State) (iss : Issue) (gr : Group) (f : FmtE) (k : ReqKind) (ps : List Nat) (l : Nat) (loc : Nat × Nat × Nat) (sh : Share)
    (data : W128) : Req :=
  { g := iss.g, lane := l, seq := s.nextSeq, kind := k, sp := some (loc.1, loc.2.1), vf := s.jobVf gr, slice := s.sliceOf gr,
    va := (gr.src32 l f.a + f.soff.signExtend 32).zeroExtend 64, pa := loc.2.2, home := spHome sh.core, coh := false, rchk := false,
    width := f.width, bytes := widthBytes f.width, data := data, wit := s.standIn gr (gr.presented l f.c),
    wits := ps.map (fun i => gr.presented i f.c), scope := f.eflg.extractLsb' 0 3, hint := 0, dst := f.h.dst, pc := iss.pc,
    issued := (gr.lane l).issued + 1, fab := .unsent }

/-- A scratchpad access that no check stops becomes requests, which wait for the copy of their lines (R324): witnesses satisfied, addresses aligned
and in range, and every line Empty. -/
def scratchIssues (i : Instr) (f : FmtE) (k : ReqKind) (data : Group → Nat → W128) : Prop :=
  ∀ s iss gr ps (loc : Nat → Nat × Nat × Nat) (sh : Nat → Share), issuing i false s = some (iss, gr, ps) →
    let n := widthBytes f.width
    let ad := fun l => gr.src32 l f.a + f.soff.signExtend 32
    let w := fun l => gr.presented l f.c
    (∀ l ∈ ps, s.sat gr true (w l) = .yes ∧ (ad l).toNat % n = 0 ∧ s.spAddr gr (ad l) n = some (loc l) ∧
      s.share (loc l).1 (loc l).2.1 = some (sh l) ∧ ((sh l).line ((loc l).2.2 / 128)).pend ≠ 0) →
    inFlight i s iss gr ps (fun l => s.shareAsks iss gr f k ps l (loc l) (sh l) (data gr l))

/-- A scratchpad access of one thread to a Full line is performed as it issues (R324): what its request does happens in that step, and the path
goes on. -/
def scratchAtOnce (i : Instr) (f : FmtE) (k : ReqKind) (regs : Nat) (data : Group → Nat → W128) : Prop :=
  ∀ s iss gr l loc sh, issuing i false s = some (iss, gr, [l]) → s.fullAt iss gr f l loc sh →
    ∃ (u : State) (gr1 : Group), exec i s = .next ((u.updGroup iss.g (fun g1 => g1.advance iss (iss.path gr))).perform (reqKey s.nextSeq l)
        (s.shareAsks iss gr f k [l] l loc sh (data gr l))) ∧
      u.reqs = Store.put s.reqs (reqKey s.nextSeq l) (s.shareAsks iss gr f k [l] l loc sh (data gr l)) ∧ u.group iss.g = some gr1 ∧
      gr1.lane l = ((gr.pending (reqKey s.nextSeq l) l f.h.dst regs).lane l) ∧ (∀ r, gr1.rd r = gr.rd r) ∧ u.mem = s.mem ∧ u.blocks = s.blocks ∧
      u.ctr = s.ctr

/-- The matrix operation is at the end of its core's queue, and its path goes on, or waits where the operation holds its group (R346, R347). -/
def queued (i : Instr) (src : Group → Nat → W64) (pre : State → Issue → Group → Block → Share → W64 → Prop) : Prop :=
  ∀ s iss gr ps k sh b, issuing i true s = some (iss, gr, ps) → s.shareAt gr.blk gr.core = some (k, sh) → s.block gr.blk = some b →
    pre s iss gr b sh (src gr (ps.headD 0)) →
    ∃ t gr' o, exec i s = .next t ∧ t.group iss.g = some gr' ∧
      (t.core gr.core).mq = Store.put (s.core gr.core).mq (s.core gr.core).mqNext o ∧ (t.core gr.core).mqNext = (s.core gr.core).mqNext + 1 ∧
      o.instr = i ∧ o.blk = gr.blk ∧ o.issuers = [iss.opIssuer gr (iss.path gr)] ∧ o.src = src gr (ps.headD 0) ∧ o.started = false ∧ t.mem = s.mem ∧ t.reqs = s.reqs ∧ t.tiles = s.tiles ∧ t.nextSeq = s.nextSeq + 1 ∧
      (∀ l r, (gr'.lane l).rd r = (gr.lane l).rd r) ∧ (∀ r, gr'.rd r = gr.rd r) ∧ gr'.fpstat = gr.fpstat ∧ gr'.latch = gr.latch ∧
      (∀ l, (gr'.lane l).run = (gr.lane l).run) ∧
      (∀ l ∈ iss.path gr, if holdsIssuers i then (gr'.lane l).pc = (gr.lane l).pc ∧ (gr'.lane l).wait = .drain (s.core gr.core).mqNext
        else (gr'.lane l).pc = nextPc iss.pc)

/-- The event happens wherever `pre` holds, with `post` of the states before and after. -/
def takes (e : Instr) (pre : State → Prop) (post : State → State → Prop) : Prop := ∀ s, pre s → ∃ t, exec e s = .next t ∧ post s t

/-- The request is to bring the value of its destination's registers, in a thread that has not exited (R217); a firmware group does not wait in a
`halt`, which an entry of the error log could end (R281, R429). -/
def State.awaits (s : State) (k : Nat) (q : Req) (gr : Group) (b : Nat) : Prop :=
  s.group q.g = some gr ∧ (gr.priv = true → gr.haltq = none) ∧ Operand.ofSpec q.dst = .vreg b ∧ q.lane < gr.lanes.length ∧ (gr.lane q.lane).run ≠ .exited ∧
    ∀ j < q.regs, k ∈ Store.get [] (gr.lane q.lane).pend (b + j)

/-- It is the request's turn at its home (R418): it may be served, its VF and its row go before what else waits there, and no port turns it away
(R486). -/
def State.inTurn (s : State) (k : Nat) (q : Req) : Prop :=
  s.servable k q = true ∧ (s.hbmRefillFor (s.atHbm q)).hbmTurn k q = true ∧ s.barred q = false

/-- The bytes that a store of the request puts into memory: of firmware, those that the tables' access codes let it write (R13). -/
def State.puts (s : State) (q : Req) (bs : List Byte) : List Byte := if q.vf = fwVf then s.granted .fw q.pa bs else bs

/-- The bytes that a write of a copy job puts into memory: of firmware's jobs, those that the tables' access codes let them write (R13). -/
def State.jobPuts (s : State) (x : Job) (a : Nat) (bs : List Byte) : List Byte := if x.physical then s.granted .fw a bs else bs

/-- The request's destination holds the value and the request is no longer in flight; the group's other registers and the other requests are
unchanged, but for the count of those it passed (R418). -/
def State.delivered (s t : State) (k : Nat) (q : Req) (gr : Group) (b : Nat) (v : W128) : Prop :=
  Store.find t.reqs k = none ∧ ∃ gr', t.group q.g = some gr' ∧
    (∀ j < q.regs, (gr'.lane q.lane).rd (b + j) = v.extractLsb' (32 * j) 32) ∧
    (∀ l r, l ≠ q.lane ∨ ¬ inDst b q.regs r → (gr'.lane l).rd r = (gr.lane l).rd r) ∧ (∀ r, gr'.rd r = gr.rd r) ∧
    (∀ j, j ≠ k → (Store.find t.reqs j).map (fun r => { r with passed := 0 }) = (Store.find s.reqs j).map (fun r => { r with passed := 0 }))

/-- Every group is as before, except that an entry of the error log may reach the firmware groups of its die (R281, R429). -/
def State.groupsKept (s t : State) : Prop := ∀ h, t.group h = s.group h ∨ ∃ x, s.group h = some x ∧ x.priv = true

/-- Every group but `g` is as before, except that an entry of the error log may reach the firmware groups of its die (R281, R429). -/
def State.apart (s t : State) (g : Nat) : Prop := ∀ h, h ≠ g → t.group h = s.group h ∨ ∃ x, s.group h = some x ∧ x.priv = true

/-- It is the VF's turn for an access to HBM4E, if there is one, and no bank that it goes to makes it wait (R418, R420). -/
def State.hbmGoes (s : State) (x : Option (Nat × Nat)) (vf : Nat) : Prop := (s.hbmRefillFor x).vfTurn x vf = true

/-- The VF is as before, but for what it is metered: write-backs of L2 lines count for the VFs that wrote them (R410, R469). -/
def State.sameVf (s t : State) (v : Nat) : Prop := { t.vf v with meter := [] } = { s.vf v with meter := [] }

/-- The bytes at an address are `bs`, and every other byte of the memory is as before. -/
def State.storedAt (s t : State) (a : Nat) (bs : List Byte) : Prop :=
  (∀ i < bs.length, t.byte (a + i) = bs.getD i 0) ∧ ∀ x, x < a ∨ a + bs.length ≤ x → t.byte x = s.byte x

/-- The group is now `gr'`, and everything else of the machine is as before. -/
def State.groupTo (s t : State) (g : Nat) (gr' : Group) : Prop :=
  t.group g = some gr' ∧ (∀ h, h ≠ g → t.group h = s.group h) ∧ t = { s with groups := t.groups }

/-- The entry of a queue has completed: DONE counts it, it is begun no more, and FAILED is set where it failed (R438). -/
def State.entryOver (s t : State) (c q n : Nat) (failed : Bool) : Prop :=
  (t.queue c q).done = (s.queue c q).done + 1 ∧ (∀ b ∈ (t.queue c q).begun, b.n ≠ n) ∧
    (t.queue c q).failed = ((s.queue c q).failed || failed)

/-- The queue is Stopped with the code and the number of the entry it concerns (R436). -/
def State.stoppedAt (t : State) (c q : Nat) (err : Byte) (n : Nat) : Prop :=
  (t.queue c q).st = .stopped ∧ (t.queue c q).err = err ∧ (t.queue c q).index = BitVec.ofNat 16 n

/-- The reply is the last of the messages of the die's mailbox 0, behind those that wait for room, and waits itself only where they do or the
ring is full (R444). -/
def State.replied (s t : State) (die : Nat) (m : W64) : Prop :=
  (t.mbox die 0).outb ++ (t.die die).notices = (s.mbox die 0).outb ++ (s.die die).notices ++ [m] ∧
    ((s.die die).notices = [] → (s.mbox die 0).outb.length < 16 → (t.die die).notices = [])

/-- The VF's accesses are not checked for races: its slice's detector is off (R256). -/
def State.unraced (s : State) (vf : Nat) : Prop := s.racing (s.vf vf).slice true = false

/-- `n` bytes at `a` hold no TSTATE byte of the interface table, whose change would advance the layout generation (R480). -/
def State.offTable (s : State) (a n : Nat) : Prop := a + n ≤ s.sltbase + 0xC400 ∨ s.sltbase + 0xC400 + 64 * 384 ≤ a

/-- The die's log takes an entry of the type, unit and VF, or with 64 entries unread counts it as dropped (R429). -/
def State.logs (s t : State) (d : Nat) (type : Byte) (unit vf : Nat) : Prop :=
  if (s.die d).head - (s.die d).tail = 64 then (t.die d).dropped = (s.die d).dropped + 1 ∧ (t.die d).log = (s.die d).log
  else (t.die d).head = (s.die d).head + 1 ∧
    ∃ e, Store.find (t.die d).log ((s.die d).head.toNat % 64) = some e ∧ e.type = type ∧ e.unit = unit ∧ e.vf = vf

/-- The commands that write rows of the slice table other than TABLE, CREATE, VFON and VFOFF (R456, R530). -/
def rowCommands : List Nat := [0x22, 0x25, 0x26, 0x27, 0x28, 0x29, 0x2A, 0x2B, 0x2C, 0x2D]

/-- The slice controller takes the command from die `d` and reads its block (R456); the state is then `u`. No stamp space is being renewed (R239). -/
def State.commandRead (s u : State) (d op : Nat) (cmd : W64) (b : CmdBlk) : Prop :=
  s.anyStall = false ∧ (s.cmd = none ∨ op = 0x26) ∧ d < 4 ∧ s.takeCmd d op cmd = some u ∧ (∀ x, x < d → s.takeCmd x op cmd = none) ∧ u.cmdBlock cmd = some b

/-- As `commandRead`, and there is memory behind the rows that the command writes (R530). -/
def State.commanded (s u : State) (d op : Nat) (cmd : W64) (b : CmdBlk) : Prop :=
  s.commandRead u d op cmd b ∧ (op ∈ rowCommands → u.backed u.sltbase = true)

/-- The bytes that lie in no context image of a group (R290, R291), nor in a sector that one begins or ends in. -/
def State.offImages (s : State) (x : Nat) : Prop :=
  ∀ e ∈ s.groups, ∀ a, e.2.image = some a → x < a / 32 * 32 ∨ a + (0xC00 + 1024 * e.2.vgran + 512 * e.2.divd) + 32 ≤ x

/-- Of the memory nothing changes but the context images of groups. -/
def State.imagesOnly (s t : State) : Prop := ∀ x, s.offImages x → t.byte x = s.byte x

/-- The reply to a command of the slice controller: the opcode and the reason, with bit 0 set on a refusal (R456). -/
def sliceReply (op reason : Nat) : W64 := BitVec.ofNat 64 (op * 2 ^ 56 + reason * 256 + (if reason = 0 then 0 else 1))

/-- The header fields of an unguarded instruction with the given DST. -/
def bareHdr (dst : BitVec 10) : Hdr := { wbs := 0, greg := 511, gbit := 0, gneg := 0, dst := dst }

/-- The issue in course when the threads of a pick have fetched the line `d`: those that run at its pc, and whether it begins a pair. -/
def Issue.started (iss : Issue) (gr : Group) (d : BitVec 512) : Issue :=
  let k := (iss.pc.extractLsb' 0 3).toNat
  { iss with lanes := laneMask (iss.live gr), first := linePair d k && !iss.second, other := fld 10 86 (lineSlot d (k + 1)) }

/-- The state at the start of an issue in which the group's threads of the pick have fetched the line `d`: the group holds the line, a path switch
has cleared its latches, and the instruction in course is the pick's. -/
def State.fetched (s : State) (iss : Issue) (gr : Group) (d : BitVec 512) : State :=
  { s.putGroup iss.g ((gr.toIssue iss (laneMask (iss.live gr))).hold iss.pc d) with cur := some (iss.started gr d) }

/-- The pick at the head of the queue fetches the line `d` without a fault and stands at one of its slots. -/
def State.fetches (s u : State) (iss : Issue) (gr : Group) (d : BitVec 512) : Prop :=
  ∃ rest, s.issueQ = iss :: rest ∧ s.group iss.g = some gr ∧ iss.live gr ≠ [] ∧
    State.issueLine { s with issueQ := rest } (gr.toIssue iss (laneMask (iss.live gr))) ((iss.live gr).headD 0) iss.pc = (u, .line d) ∧
    (iss.pc.extractLsb' 0 3).toNat ≤ 4 ∧ iss.pc.extractLsb' 3 3 = 0

end Sys2Proof.Machine
end

