-- ==== Sys2Proof/Certificates/Slice0/Obligations.lean ====
section
/-! DEFINITION. The statements about the model. -/

open Sys2Proof Sys2Proof.Machine

/-! ### Chapter 04 -/

/-- R123, R125, R128, R148 with R121: what the integer arithmetic instructions write, in every thread in which they take effect.
R124: addc and subb write the 32-bit sum or difference and the carry or borrow out as a pair. -/
def Obligations.IntegerArithmetic : Prop :=
  ((∀ f, gives (.add f) f.ty.regs (fun gr _ l => f.ty.fit (perBit0 f) (intA f gr l + intB f gr l))) ∧
  (∀ f, gives (.sub f) f.ty.regs (fun gr _ l => f.ty.fit (perBit0 f) (intA f gr l - intB f gr l))) ∧
  (∀ f, gives (.addK f) f.ty.regs (fun gr _ l => f.ty.fit (f.per.getLsbD 0) (f.ty.int (rawAK f gr l) + f.ty.int (immK f)))) ∧
  (∀ f, gives (.mul f) f.ty.regs (fun gr _ l => f.ty.enc (intA f gr l * intB f gr l))) ∧
  (∀ f, gives (.mulK f) f.ty.regs (fun gr _ l => f.ty.enc (f.ty.int (rawAK f gr l) * f.ty.int (immK f)))) ∧
  (∀ f, gives (.mulh f) f.ty.regs (fun gr _ l => f.ty.enc (intA f gr l * intB f gr l / 2 ^ f.ty.width))) ∧
  (∀ f, gives (.mad f) f.ty.regs (fun gr _ l => f.ty.enc (intA f gr l * intB f gr l + intC f gr l))) ∧
  (∀ f, gives (.madh f) f.ty.regs (fun gr _ l => f.ty.enc ((intA f gr l * intB f gr l + intC f gr l) / 2 ^ f.ty.width))) ∧
  (∀ f, gives (.min f) f.ty.regs (fun gr _ l => f.ty.enc (min (intA f gr l) (intB f gr l)))) ∧
  (∀ f, gives (.max f) f.ty.regs (fun gr _ l => f.ty.enc (max (intA f gr l) (intB f gr l)))) ∧
  (∀ f, gives (.abs f) f.ty.regs (fun gr _ l => f.ty.fit (perBit0 f) (intA f gr l).natAbs)) ∧
  (∀ f, gives (.neg f) f.ty.regs (fun gr _ l => f.ty.fit (perBit0 f) (-(intA f gr l)))) ∧
  (∀ f, gives (.clamp f) f.ty.regs (fun gr _ l => f.ty.enc (min (max (intA f gr l) (intB f gr l)) (intC f gr l)))) ∧
  (∀ f, gives (.addmin f) f.ty.regs (fun gr _ l =>
    f.ty.enc (min (f.ty.int (f.ty.fit (perBit0 f) (intA f gr l + intB f gr l))) (intC f gr l)))) ∧
  (∀ f, gives (.addmax f) f.ty.regs (fun gr _ l =>
    f.ty.enc (max (f.ty.int (f.ty.fit (perBit0 f) (intA f gr l + intB f gr l))) (intC f gr l))))) ∧
  ((∀ f, gives (.addc f) 2 (fun gr _ l =>
    BitVec.ofNat 128 ((gr.src32 l f.a).toNat + (gr.src32 l f.b).toNat + (gr.src32 l f.c).toNat % 2))) ∧
  (∀ f, gives (.subb f) 2 (fun gr _ l =>
    let t : Int := (gr.src32 l f.a).toNat - (gr.src32 l f.b).toNat - ((gr.src32 l f.c).toNat % 2 : Nat)
    BitVec.ofNat 128 ((t % 2 ^ 32).toNat + (if t < 0 then 2 ^ 32 else 0)))))

/-- R126, R127: div and rem truncate toward zero; a zero divisor gives all ones and the dividend under NT, and otherwise parks its thread
with INTDIV (with a scalar destination the lowest thread, whose operands the instruction reads). -/
def Obligations.Division : Prop :=
  (∀ f, givesIf (.div f) f.ty.regs (fun gr l => intB f gr l ≠ 0) (fun gr _ l => f.ty.enc ((intA f gr l).tdiv (intB f gr l)))) ∧
  (∀ f, givesIf (.rem f) f.ty.regs (fun gr l => intB f gr l ≠ 0) (fun gr _ l => f.ty.enc ((intA f gr l).tmod (intB f gr l)))) ∧
  (∀ f, perBit0 f = true → givesIf (.div f) f.ty.regs (fun gr l => intB f gr l = 0) (fun _ _ _ => f.ty.enc (-1))) ∧
  (∀ f, perBit0 f = true → givesIf (.rem f) f.ty.regs (fun gr l => intB f gr l = 0) (fun gr _ l => f.ty.enc (intA f gr l))) ∧
  (∀ f, perBit0 f = false → parksIf (.div f) 0x09 (fun _ _ => 0) (fun gr l => intB f gr l = 0)) ∧
  (∀ f, perBit0 f = false → parksIf (.rem f) 0x09 (fun _ _ => 0) (fun gr l => intB f gr l = 0))

/-- R129: the logic instructions act bit by bit; the K forms take the extended immediate for source b (R120).
R130: shifts by n, with w the width of the type: shl and shr give 0 for n at or above w, sra the sign, and rot turns by n mod w.
R131, R132: bit-field extract and insert at POS for min(LEN, w) bits, and the counts and the reversal of bits. -/
def Obligations.BitwiseOperations : Prop :=
  ((∀ f, gives (.and f) f.ty.regs (fun gr _ l => gr.src l f.a f.ty.regs &&& gr.src l f.b f.ty.regs)) ∧
  (∀ f, gives (.or f) f.ty.regs (fun gr _ l => gr.src l f.a f.ty.regs ||| gr.src l f.b f.ty.regs)) ∧
  (∀ f, gives (.xor f) f.ty.regs (fun gr _ l => gr.src l f.a f.ty.regs ^^^ gr.src l f.b f.ty.regs)) ∧
  (∀ f, gives (.andn f) f.ty.regs (fun gr _ l => gr.src l f.a f.ty.regs &&& ~~~(gr.src l f.b f.ty.regs))) ∧
  (∀ f, gives (.andK f) f.ty.regs (fun gr _ l => gr.src l f.a f.ty.regs &&& lowRegs f.ty.regs (f.imm.signExtend 128))) ∧
  (∀ f, gives (.orK f) f.ty.regs (fun gr _ l => gr.src l f.a f.ty.regs ||| lowRegs f.ty.regs (f.imm.signExtend 128))) ∧
  (∀ f, gives (.xorK f) f.ty.regs (fun gr _ l => gr.src l f.a f.ty.regs ^^^ lowRegs f.ty.regs (f.imm.signExtend 128)))) ∧
  ((∀ f, gives (.shl f) f.ty.regs (fun gr _ l =>
    BitVec.ofNat 128 (if f.ty.width ≤ shiftCount f gr l then 0 else rawA f gr l * 2 ^ shiftCount f gr l % 2 ^ f.ty.width))) ∧
  (∀ f, gives (.shr f) f.ty.regs (fun gr _ l =>
    BitVec.ofNat 128 (if f.ty.width ≤ shiftCount f gr l then 0 else rawA f gr l / 2 ^ shiftCount f gr l))) ∧
  (∀ f, gives (.sra f) f.ty.regs (fun gr _ l =>
    let v : Int := if 2 ^ (f.ty.width - 1) ≤ rawA f gr l then (rawA f gr l : Int) - 2 ^ f.ty.width else rawA f gr l
    BitVec.ofNat 128 ((v / 2 ^ min (shiftCount f gr l) f.ty.width % 2 ^ f.ty.width).toNat))) ∧
  (∀ f, gives (.rot f) f.ty.regs (fun gr _ l =>
    let n := shiftCount f gr l % f.ty.width
    BitVec.ofNat 128 (rawA f gr l * 2 ^ n % 2 ^ f.ty.width + rawA f gr l / 2 ^ (f.ty.width - n))))) ∧
  ((∀ f, gives (.bfe f) f.ty.regs (fun gr _ l =>
    let c := (gr.src32 l f.c).toNat
    let len := min (c / 256 % 256) f.ty.width
    let x := rawA f gr l / 2 ^ (c % 256) % 2 ^ len
    if len = 0 then 0 else if f.ty.signed ∧ 2 ^ (len - 1) ≤ x then f.ty.enc ((x : Int) - 2 ^ len) else BitVec.ofNat 128 x)) ∧
  (∀ f, gives (.bfi f) f.ty.regs (fun gr _ l =>
    let c := (gr.src32 l f.c).toNat
    let m : W128 := BitVec.ofNat 128 ((2 ^ min (c / 256 % 256) f.ty.width - 1) * 2 ^ (c % 256) % 2 ^ f.ty.width)
    (gr.src l f.a f.ty.regs &&& ~~~m) ||| (BitVec.ofNat 128 (rawB f gr l * 2 ^ (c % 256)) &&& m))) ∧
  (∀ f, gives (.popc f) 1 (fun gr _ l => BitVec.ofNat 128 (onesCount f.ty.width (rawA f gr l)))) ∧
  (∀ f, gives (.clz f) 1 (fun gr _ l => BitVec.ofNat 128 (f.ty.width - bitLen (rawA f gr l)))) ∧
  (∀ f, gives (.ctz f) 1 (fun gr _ l =>
    BitVec.ofNat 128 (((List.range f.ty.width).find? (fun k => rawA f gr l / 2 ^ k % 2 = 1)).getD f.ty.width))) ∧
  (∀ f, gives (.brev f) f.ty.regs (fun gr _ l =>
    BitVec.ofNat 128 ((List.range f.ty.width).foldl (fun x k => x + rawA f gr l / 2 ^ k % 2 * 2 ^ (f.ty.width - 1 - k)) 0))))

/-- R133–R136: cmp writes one bit and keeps the others, sel chooses by a bit, mov and movk move, lea adds a scaled index.
Model's choices: log 149. -/
def Obligations.CompareSelectMove : Prop :=
  (∀ f, gives (.cmp f) 1 (fun gr _ l =>
    withBit (gr.dstVal l f.h.dst 1) (f.per.toNat / 8 % 32) (icond (f.per.toNat % 8) (intA f gr l) (intB f gr l)))) ∧
  (∀ f, gives (.sel f) f.ty.regs (fun gr _ l =>
    if (gr.src32 l f.c).getLsbD (f.per.toNat % 32) then gr.src l f.a f.ty.regs else gr.src l f.b f.ty.regs)) ∧
  (∀ f, gives (.mov f) f.ty.regs (fun gr _ l => gr.src l f.a f.ty.regs)) ∧
  (∀ f, gives (.movk f) f.ty.regs (fun gr _ l =>
    if f.per.getLsbD 0 then gr.dstVal l f.h.dst 1 ||| (f.imm.zeroExtend 128 <<< 32) else lowRegs f.ty.regs (f.imm.signExtend 128))) ∧
  (∀ f, gives (.lea f) 2 (fun gr _ l =>
    let x : W64 := if f.ty == .i32 then (gr.src32 l f.b).signExtend 64
      else if f.ty == .n32 then (gr.src32 l f.b).zeroExtend 64 else gr.src64 l f.b
    (gr.src64 l f.a + (x <<< (f.per.toNat % 8))).zeroExtend 128)) ∧
  (∀ f, gives (.leaK f) 2 (fun gr _ l => (gr.src64 l f.a + ((f.imm.signExtend 64 : W64) <<< f.per.toNat)).zeroExtend 128))

/-- R138–R143: what lane instructions read of other lanes; wrlane writes lane L alone, whatever its state.
R137, R144–R147, R149: the votes, reductions and prefixes over the participating lanes, and the packed dot product.
Model's choices: log 13. -/
def Obligations.LaneInstructions : Prop :=
  ((∀ f, gives (.vbc f) f.ty.regs (fun gr _ l => gr.srcAt l ((gr.src32 l f.b).toNat % 32) f.a f.ty.regs)) ∧
  (∀ f, gives (.rdlane f) f.ty.regs (fun gr _ l => gr.srcAt l ((gr.src32 l f.b).toNat % 32) f.a f.ty.regs)) ∧
  (∀ f, gives (.shfl f) f.ty.regs (fun gr _ l =>
    gr.srcAt l (shflLane (f.per.toNat % 4) (32 / 2 ^ (f.per.toNat / 4 % 8)) l (gr.src32 l f.b).toNat) f.a f.ty.regs)) ∧
  (∀ f, gives (.lsh f) f.ty.regs (fun gr _ l =>
    let j : Int := (l : Int) - (gr.src32 l f.b).toInt
    if 0 ≤ j ∧ j ≤ 31 then gr.srcAt l j.toNat f.a f.ty.regs else gr.src l f.c f.ty.regs)) ∧
  (∀ f s iss gr ps b, issuing (.wrlane f) true s = some (iss, gr, ps) → f.h.wbs = 0 → Operand.ofSpec f.h.dst = .vreg b →
    let m := (gr.src32 (ps.headD 0) f.b).toNat % 32
    m < gr.lanes.length →
    ∃ gr', exec (.wrlane f) s = .next (s.putGroup iss.g gr') ∧ gr.moved gr' iss ∧
      (∀ k < f.ty.regs, (gr'.lane m).rd (b + k) = (gr.src (ps.headD 0) f.a f.ty.regs).extractLsb' (32 * k) 32) ∧
      (∀ l r, (l ≠ m ∨ ¬ inDst b f.ty.regs r) → (gr'.lane l).rd r = (gr.lane l).rd r) ∧ (∀ r, gr'.rd r = gr.rd r) ∧
      (∀ l, (gr'.lane l).rest = (gr.lane l).rest) ∧ gr'.rest = gr.rest ∧ gr'.fpstat = gr.fpstat)) ∧
  ((∀ f, gives (.vote f) 1 (fun gr ps l =>
    let pp := participants f.h gr ps
    let bit (i : Nat) : Bool := (gr.src32 i f.a).getLsbD (f.per.toNat / 4 % 32)
    let d := f.per.toNat / 128 % 32
    let old := gr.dstVal l f.h.dst 1
    match f.per.toNat % 4 with
    | 0 => BitVec.ofNat 128 (pp.foldl (fun x i => x + (if bit i then 2 ^ i else 0)) 0)
    | 1 => withBit old d (pp.any bit)
    | 2 => withBit old d (pp.all bit)
    | _ => withBit old d (pp.all bit || pp.all (fun i => !bit i)))) ∧
  (∀ f, gives (.lred f) 1 (fun gr ps l =>
    let w := 32 / 2 ^ (f.per.toNat / 8 % 8)
    let op := f.per.toNat % 8
    (((((participants f.h gr ps).filter (fun i => i / w == l / w)).map (fun i => gr.src32 i f.a)).foldl (redOp f.ty op) (redId f.ty op)).zeroExtend 128))) ∧
  (∀ f, gives (.lscan f) 1 (fun gr ps l =>
    let w := 32 / 2 ^ (f.per.toNat / 8 % 8)
    let op := f.per.toNat % 8
    (((ps.filter (fun i => i / w == l / w && (decide (i < l) || (!f.per.getLsbD 6 && i == l)))).map (fun i => gr.src32 i f.a)).foldl
      (redOp f.ty op) (redId f.ty op)).zeroExtend 128)) ∧
  (∀ f, gives (.dp4 f) 1 (fun gr _ l =>
    let d : Ty := if f.ty.signed then .i32 else .n32
    let el (x : W32) (k : Nat) : Int := f.ty.int (BitVec.ofNat 128 (x.toNat / 2 ^ (f.ty.width * k)))
    d.fit (perBit0 f) ((List.range (32 / f.ty.width)).foldl (fun x k => x + el (gr.src32 l f.a) k * el (gr.src32 l f.b) k) (d.int (gr.src l f.c 1))))))

/-! ### Chapter 05 -/

/-- R98–R100, R158–R160: float arithmetic, scaling and rounding to an integral value, rounded once; flags go to FPSTAT.
R161–R163: the smaller or larger operand, a comparison into one bit, and the class of a value.
R156, R165, R166: the approximate functions depend on their operand alone; within the bound of R165 the result is the model's free
offset `Config.approxOffset` from the rounded value, so the statement holds for every such offset.
Model's choices: log 97. -/
def Obligations.FloatOperations : Prop :=
  ((∀ f, givesF (.fadd f) (fun gr l => Ty.f32.fadd (rmG f) (fA f gr l) (fB f gr l))) ∧
  (∀ f, givesF (.faddK f) (fun gr l => Ty.f32.fadd .rne (fAK f gr l) (fImmK f))) ∧
  (∀ f, givesF (.fsub f) (fun gr l => Ty.f32.fadd (rmG f) (fA f gr l) (fB f gr l).negate)) ∧
  (∀ f, givesF (.fmul f) (fun gr l => Ty.f32.fmul (rmG f) (fA f gr l) (fB f gr l))) ∧
  (∀ f, givesF (.fmulK f) (fun gr l => Ty.f32.fmul .rne (fAK f gr l) (fImmK f))) ∧
  (∀ f, givesF (.ffma f) (fun gr l => Ty.f32.ffma (rmG f) (fA f gr l) (fB f gr l) (fC f gr l))) ∧
  (∀ f, givesF (.fscale f) (fun gr l => fscale (rmG f) (fA f gr l) (gr.src32 l f.b).toInt)) ∧
  (∀ f, givesF (.frnd f) (fun gr l => frnd (rmG f) (fA f gr l))) ∧
  (∀ f, givesF (.frcp f) (fun gr l => frcp (rmG f) (fA f gr l))) ∧
  (∀ f, givesF (.fsqrt f) (fun gr l => fsqrt (rmG f) (fA f gr l)))) ∧
  ((∀ f, givesF (.fmin f) (fun gr l => Ty.f32.fminmax false (gr.fsrc .f32 l f.a) (gr.fsrc .f32 l f.b))) ∧
  (∀ f, givesF (.fmax f) (fun gr l => Ty.f32.fminmax true (gr.fsrc .f32 l f.a) (gr.fsrc .f32 l f.b))) ∧
  (∀ f, givesF (.fcmp f) (fun gr l =>
    ((withBit (gr.dstVal l f.h.dst 1) (f.per.toNat / 8 % 32) (fcond (f.per.toNat % 8) (fA f gr l) (fB f gr l))).toNat,
     flagIf ((fA f gr l).isSig || (fB f gr l).isSig) fIV))) ∧
  (∀ f, gives (.fclass f) 1 (fun gr _ l => BitVec.ofNat 128 (2 ^ f.ty.fclass (gr.fsrc f.ty l f.a))))) ∧
  ((∀ f, givesF (.frsq f) (fun gr l => Afun.rsq.apply (BitVec.ofNat 32 (gr.fsrc .f32 l f.a)))) ∧
  (∀ f, givesF (.fex2 f) (fun gr l => Afun.ex2.apply (BitVec.ofNat 32 (gr.fsrc .f32 l f.a)))) ∧
  (∀ f, givesF (.flg2 f) (fun gr l => Afun.lg2.apply (BitVec.ofNat 32 (gr.fsrc .f32 l f.a)))) ∧
  (∀ f, givesF (.fsin f) (fun gr l => Afun.sin.apply (BitVec.ofNat 32 (gr.fsrc .f32 l f.a)))) ∧
  (∀ f, givesF (.fcos f) (fun gr l => Afun.cos.apply (BitVec.ofNat 32 (gr.fsrc .f32 l f.a)))) ∧
  (∀ f, givesF (.ftanh f) (fun gr l => Afun.tanh.apply (BitVec.ofNat 32 (gr.fsrc .f32 l f.a)))) ∧
  (∀ f, givesF (.fsigm f) (fun gr l => Afun.sigm.apply (BitVec.ofNat 32 (gr.fsrc .f32 l f.a)))))

/-- R92, R167, R168: the packed instructions act on both halves and OR their exceptions; dp2 adds two products to a .f32.
R169–R173, R100, R102: a conversion that neither traps on overflow nor raises an enabled exception gives its value and exceptions;
unpack widens an element exactly. -/
def Obligations.PackedAndConversions : Prop :=
  ((∀ f, givesF (.hadd2 f) (fun gr l => packed (fun k =>
    f.ty.fadd (rmG f) (f.ty.dec (half (gr.fsrc f.ty l f.a) k)) (f.ty.dec (half (gr.fsrc f.ty l f.b) k))))) ∧
  (∀ f, givesF (.hmul2 f) (fun gr l => packed (fun k =>
    f.ty.fmul (rmG f) (f.ty.dec (half (gr.fsrc f.ty l f.a) k)) (f.ty.dec (half (gr.fsrc f.ty l f.b) k))))) ∧
  (∀ f, givesF (.hfma2 f) (fun gr l => packed (fun k =>
    f.ty.ffma (rmG f) (f.ty.dec (half (gr.fsrc f.ty l f.a) k)) (f.ty.dec (half (gr.fsrc f.ty l f.b) k)) (f.ty.dec (half (gr.fsrc f.ty l f.c) k))))) ∧
  (∀ f, givesF (.hmax2 f) (fun gr l => packed (fun k => f.ty.fminmax true (half (gr.fsrc f.ty l f.a) k) (half (gr.fsrc f.ty l f.b) k)))) ∧
  (∀ f, givesF (.dp2 f) (fun gr l =>
    let e (x : BitVec 10) (k : Nat) : FVal := f.ty.dec (half (gr.fsrc f.ty l x) k)
    dp2f (rmG f) (e f.a 0) (e f.b 0) (e f.a 1) (e f.b 1) (Ty.f32.dec (gr.fsrc .f32 l f.c))))) ∧
  ((∀ f s iss gr ps (v : Nat → W128) (fl : Nat → Flags), issuing (.cvt f) (isScalSpec f.h.dst) s = some (iss, gr, ps) →
    (∀ l ∈ ps, cvtTo (cvtSrc f) f.ty (rmG f) f.ovf
        (if (cvtSrc f).isFloat then BitVec.ofNat 128 (gr.fsrc (cvtSrc f) (leader (.cvt f) ps l) f.a)
         else gr.src (leader (.cvt f) ps l) f.a (cvtSrc f).regs) = .ok (v (leader (.cvt f) ps l)) (fl (leader (.cvt f) ps l)) ∧
      fl (leader (.cvt f) ps l) &&& gr.fpctl = 0) →
    completes (.cvt f) f.ty.regs s iss gr ps v fl) ∧
  (∀ f s iss gr ps (va vb : Nat → W128) (fa fb : Nat → Flags), issuing (.pack f) (isScalSpec f.h.dst) s = some (iss, gr, ps) →
    (∀ l ∈ ps, let x := leader (.pack f) ps l
      cvtTo .f32 f.ty (rmG f) f.ovf (BitVec.ofNat 128 (gr.fsrc .f32 x f.a)) = .ok (va x) (fa x) ∧
      cvtTo .f32 f.ty (rmG f) f.ovf (BitVec.ofNat 128 (gr.fsrc .f32 x f.b)) = .ok (vb x) (fb x) ∧ (fa x ||| fb x) &&& gr.fpctl = 0) →
    completes (.pack f) 1 s iss gr ps (fun l =>
      let old := (gr.dstVal l f.h.dst 1).toNat
      let two := (va l).toNat + 2 ^ f.ty.width * (vb l).toNat
      BitVec.ofNat 128 (if f.ty.width = 16 then two else if perBit0 f then old % 2 ^ 16 + 2 ^ 16 * two else old / 2 ^ 16 * 2 ^ 16 + two))
      (fun l => fa l ||| fb l)) ∧
  (∀ f, givesF (.unpack f) (fun gr l =>
    let v := f.ty.dec ((gr.src32 l f.a).toNat / 2 ^ (f.ty.width * (f.per.toNat % 4)) % 2 ^ f.ty.width)
    (Ty.f32.exactBits v, flagIf v.isSig fIV))))

/-- R100, R260, R267: a float result that raises an exception enabled in FPCTL parks its thread with FPE, whose EXTRA holds every exception
that arose, and takes no effect; with a scalar destination the lowest thread parks, and the others issue the instruction again (log 11). Stated
for fadd, fmul, ffma, frcp and fsqrt. -/
def Obligations.FloatTraps : Prop :=
  let traps (i : Instr) (r : Group → Nat → FRes) : Prop :=
    ∀ s iss gr ps, issuing i (isScalSpec (use i).h.dst) s = some (iss, gr, ps) → (∀ l ∈ ps, (r gr (leader i ps l)).2 &&& gr.fpctl ≠ 0) →
      ∃ gr', exec i s = .next (s.putGroup iss.g gr') ∧
        (∀ l ∈ if isScalSpec (use i).h.dst then ps.take 1 else ps, (gr'.lane l).run = .parked ∧ (gr'.lane l).flt.code = 0x07 ∧
          (gr'.lane l).flt.extra = (r gr (leader i ps l)).2.zeroExtend 32 ∧ (gr'.lane l).flt.resume = iss.pc) ∧
        (∀ l x, (gr'.lane l).rd x = (gr.lane l).rd x) ∧ (∀ l, (gr'.lane l).pc = (gr.lane l).pc) ∧ (∀ x, gr'.rd x = gr.rd x) ∧
        gr'.latch = gr.latch ∧ gr'.oq = gr.oq
  (∀ f, traps (.fadd f) (fun gr l => Ty.f32.fadd (rmG f) (fA f gr l) (fB f gr l))) ∧
  (∀ f, traps (.fmul f) (fun gr l => Ty.f32.fmul (rmG f) (fA f gr l) (fB f gr l))) ∧
  (∀ f, traps (.ffma f) (fun gr l => Ty.f32.ffma (rmG f) (fA f gr l) (fB f gr l) (fC f gr l))) ∧
  (∀ f, traps (.frcp f) (fun gr l => frcp (rmG f) (fA f gr l))) ∧
  (∀ f, traps (.fsqrt f) (fun gr l => fsqrt (rmG f) (fA f gr l)))

/-! ### Chapter 06 -/

/-- R184, R177, R197: nop only moves the path on; yield also ends the path's turn and, when the group has no other live path and its tenant a ready
pending group, leaves its active place to the oldest of them; the place stays empty for 4 cycles (R298; one swap a cycle).
R228: pref moves the path on and changes no register and no byte; it begins no access of a thread. A line that it reads and that fails its check sets
an event of firmware groups (R281, R429), which is all that another group sees of it; stated where no translation waits for a coherent table line. -/
def Obligations.HintsAndPrefetch : Prop :=
  ((∀ f, inGroup (.nop f) false (fun _ _ _ _ => True) (fun _ iss gr ps gr' =>
    gr.threads gr' iss ps (fun _ x => x.goTo (nextPc iss.pc)) ∧ gr'.body = (gr.popQueues (queuesOf (.nop f))).body)) ∧
  (let gone (f : FmtG) (iss : Issue) (gr : Group) : Group := (gr.popQueues (queuesOf (.yield f))).advance iss (iss.path gr)
   let leaves (f : FmtG) (s : State) (iss : Issue) (gr : Group) : Prop :=
     let u := s.putGroup iss.g (gone f iss gr)
     (gone f iss gr).paths.length ≤ 1 ∧ gr.st = .active ∧ (s.core gr.core).maySwap = true ∧ (u.heir (gone f iss gr)).isSome
   let after (gr gr' : Group) (iss : Issue) (ps : List Nat) (q : List OpQueue) : Prop :=
     gr.threads gr' iss ps (fun _ x => x.goTo (nextPc iss.pc)) ∧ gr'.s = gr.s ∧ gr'.fpstat = gr.fpstat ∧ gr'.oq = q
   (∀ f, inGroup (.yield f) false (fun s iss gr _ => ¬ leaves f s iss gr) (fun _ iss gr ps gr' =>
     after gr gr' iss ps (gr.popQueues (queuesOf (.yield f))).oq ∧ gr'.quantum = 0 ∧ gr'.latch = gr.latch ∧ gr'.st = gr.st)) ∧
   (∀ f s iss gr ps, issuing (.yield f) false s = some (iss, gr, ps) → leaves f s iss gr →
     ∃ t gr', exec (.yield f) s = .next t ∧ t.group iss.g = some gr' ∧
       after gr gr' iss ps (leaveQueues (ringCap (s.quotaOf gr)) (gr.popQueues (queuesOf (.yield f))).oq) ∧
       gr'.st = .pending ∧ gr'.latch = [] ∧ (t.core gr.core).active = (s.core gr.core).active.filter (· != iss.g) ∧
       (s.core gr.core).cycle.toNat + 4 ∈ (t.core gr.core).vacated ∧ (t.core gr.core).maySwap = false ∧
       (t.core gr.core).offers = (s.core gr.core).offers ++ ((s.putGroup iss.g (gone f iss gr)).heir (gone f iss gr)).toList ∧
       (∀ h, h ≠ iss.g → t.group h = s.group h) ∧ t.mem = s.mem ∧ t.reqs = s.reqs))) ∧
  (∀ f s iss gr ps, issuing (.pref f) false s = some (iss, gr, ps) → (gr.priv = true → gr.haltq = none) →
    (∀ l ∈ ps, s.effAsk f gr l = none) →
    ∃ t gr' ev, exec (.pref f) s = .next t ∧ t.group iss.g = some gr' ∧ gr.threads gr' iss ps (fun _ x => x.goTo (nextPc iss.pc)) ∧
      gr'.body = { (gr.popQueues (queuesOf (.pref f))).body with events := ev } ∧ (gr.priv = false → ev = gr.events) ∧
      (∀ h, h ≠ iss.g → t.group h = s.group h ∨ ∃ x, s.group h = some x ∧ x.priv = true) ∧
      t.mem = s.mem ∧ t.blocks = s.blocks ∧ (∀ e ∈ t.reqs, e ∈ s.reqs ∨ e.2.g = prefG iss.g))

/-- R185–R187: bra and brx put the passing threads at their target, dbra decrements its counter and does so while the result is not 0; the
rest of the path goes on, and no other register, flag or byte changes. The target line passes R48; brx is stated here for one target. -/
def Obligations.Branches : Prop :=
  (∀ f, inGroup (.bra f) false (fun s iss gr _ => ∃ d, s.reaches gr (jTarget f iss.pc) d) (fun _ iss gr ps gr' =>
    gr.threads gr' iss ps (fun _ x => x.goTo (jTarget f iss.pc)) ∧ gr'.body = (gr.popQueues (queuesOf (.bra f))).body)) ∧
  (∀ f a, inGroup (.brx f) false (fun s _ gr ps => (∀ l ∈ ps, regTarget f gr l = a) ∧ ∃ d, s.reaches gr a d) (fun _ iss gr ps gr' =>
    gr.threads gr' iss ps (fun _ x => x.goTo a) ∧ gr'.body = (gr.popQueues (queuesOf (.brx f))).body)) ∧
  (∀ f n, Operand.ofSpec f.h.dst = .vreg n → inGroup (.dbra f) false
    (fun s iss gr ps => (∃ l ∈ ps, (gr.lane l).rd n ≠ 1) → ∃ d, s.reaches gr (jTarget f iss.pc) d) (fun _ iss gr ps gr' =>
    gr.threads gr' iss ps (fun _ x =>
      (x.setReg n (x.rd n - 1)).goTo (if x.rd n - 1 = 0 then nextPc iss.pc else jTarget f iss.pc)) ∧
    gr'.body = (gr.popQueues (queuesOf (.dbra f))).body)) ∧
  (∀ f n, Operand.ofSpec f.h.dst = .sreg n → inGroup (.dbra f) true
    (fun s iss gr _ => gr.rd n ≠ 1 → ∃ d, s.reaches gr (jTarget f iss.pc) d) (fun _ iss gr ps gr' =>
    gr.threads gr' iss ps (fun _ x => x.goTo (if gr.rd n - 1 = 0 then nextPc iss.pc else jTarget f iss.pc)) ∧
    gr'.body = ((gr.popQueues (queuesOf (.dbra f))).setReg n (gr.rd n - 1)).body))

/-- R188–R190, R193: call and callx push Next(PC) and go to a procedure within the group's budget; ret goes to the address of the topmost call
entry and drops it with what stands above it, after which the regions are re-examined. -/
def Obligations.Calls : Prop :=
  let fits (gr : Group) (t : W64) (d : BitVec 512) : Prop := ∀ m, markOf (lineSlot d (t.extractLsb' 0 3).toNat) = some m → m ≤ gr.vgran
  let pushed (iss : Issue) (t : W64) (x : Lane) : Lane := { x.goTo t with stack := .call (nextPc iss.pc) :: x.stack }
  (∀ f, inGroup (.call f) false
    (fun s iss gr ps => (∀ l ∈ ps, (gr.lane l).stack.length < gr.divd) ∧
      ∃ d, s.reaches gr (jTarget f iss.pc) d ∧ fits gr (jTarget f iss.pc) d) (fun _ iss gr ps gr' =>
    gr.threads gr' iss ps (fun _ x => pushed iss (jTarget f iss.pc) x) ∧ gr'.body = (gr.popQueues (queuesOf (.call f))).body)) ∧
  (∀ f a, inGroup (.callx f) false
    (fun s _ gr ps => (∀ l ∈ ps, (gr.lane l).stack.length < gr.divd ∧ regTarget f gr l = a) ∧ ∃ d, s.reaches gr a d ∧ fits gr a d)
    (fun _ iss gr ps gr' =>
    gr.threads gr' iss ps (fun _ x => pushed iss a x) ∧ gr'.body = (gr.popQueues (queuesOf (.callx f))).body)) ∧
  (∀ f a (rest : Nat → List ConvEntry), inGroup (.ret f) false
    (fun s _ gr ps => (∀ l ∈ ps, popToCall (gr.lane l).stack = some (a, rest l)) ∧ ∃ d, s.reaches gr a d) (fun _ iss gr ps gr' =>
    ∃ g1 : Group, gr.threads g1 iss ps (fun l x => { x.goTo a with stack := rest l }) ∧
      g1.body = (gr.popQueues (queuesOf (.ret f))).body ∧ gr' = g1.release))

/-- R191–R195: rgn enters a region; join leaves the one it names and waits there, or goes on; brk leaves n regions and waits at the join of
the outermost; a waiting thread is released, past its join, exactly when no thread of the group that has not exited holds its region. -/
def Obligations.Regions : Prop :=
  (∀ f, inGroup (.rgn f) false (fun _ _ gr ps => f.tslot.toNat ≤ 4 ∧ ∀ l ∈ ps, (gr.lane l).stack.length < gr.divd) (fun _ iss gr ps gr' =>
    gr.threads gr' iss ps (fun _ x =>
      { x.goTo (nextPc iss.pc) with stack := .region (f.md.extractLsb' 0 16) (jTarget f iss.pc) :: x.stack }) ∧
    gr'.body = (gr.popQueues (queuesOf (.rgn f))).body)) ∧
  (∀ f, inGroup (.join f) false (fun _ _ _ _ => True) (fun _ iss gr ps gr' =>
    ∃ g1 : Group, gr.threads g1 iss ps (fun _ x => match x.stack with
      | .region y _ :: rest => if y = f.md.extractLsb' 0 16
          then { x with stack := rest, run := .waiting, awaiting := y, issued := x.issued + 1, wait := .none, exempt := false }
          else x.goTo (nextPc iss.pc)
      | _ => x.goTo (nextPc iss.pc)) ∧
      g1.body = (gr.popQueues (queuesOf (.join f))).body ∧ gr' = g1.release)) ∧
  (∀ f (out : Nat → W16 × W64 × List ConvEntry), inGroup (.brk f) false
    (fun _ _ gr ps => ∀ l ∈ ps, popRegions f.md.toNat (gr.lane l).stack = some (out l)) (fun _ iss gr ps gr' =>
    ∃ g1 : Group, gr.threads g1 iss ps (fun l x =>
        { x.goTo (out l).2.1 with stack := (out l).2.2, run := .waiting, awaiting := (out l).1 }) ∧
      g1.body = (gr.popQueues (queuesOf (.brk f))).body ∧ gr' = g1.release)) ∧
  (∀ (gr : Group) (l : Nat), (gr.release.lane l) =
    if (gr.lane l).run = .waiting ∧ (∀ k < gr.lanes.length, (gr.lane k).run ≠ .exited →
        ∀ y a, ConvEntry.region y a ∈ (gr.lane k).stack → y ≠ (gr.lane l).awaiting)
    then { gr.lane l with run := .running, pc := nextPc (gr.lane l).pc, wait := .none, served := gr.turnNo } else gr.lane l)

/-- R188–R191, R194, R267: what faults in control flow, each thread left at the instruction with its stack and registers as they were: a target
that is no entry, a full convergence stack, a procedure beyond the budget, a ret without a call entry, a brk without its regions. -/
def Obligations.ControlFaults : Prop :=
  let faults (i : Instr) (pre : State → Issue → Group → Nat → Prop) (code : Byte) (extra : W32) : Prop :=
    inGroup i false (fun s iss gr ps => ∀ l ∈ ps, pre s iss gr l) (fun _ iss gr ps gr' =>
      ∀ l ∈ ps, gr'.lane l = parked gr code extra iss.pc l (gr.lane l))
  (∀ f, faults (.bra f) (fun s iss gr _ => s.misses gr (jTarget f iss.pc)) 0x03 0) ∧
  (∀ f a, faults (.brx f) (fun s _ gr l => regTarget f gr l = a ∧ s.misses gr a) 0x03 0) ∧
  (∀ f, faults (.call f) (fun _ _ gr l => gr.divd ≤ (gr.lane l).stack.length) 0x06 0) ∧
  (∀ f, faults (.callx f) (fun _ _ gr l => gr.divd ≤ (gr.lane l).stack.length) 0x06 0) ∧
  (∀ f m, faults (.call f) (fun s iss gr l => (gr.lane l).stack.length < gr.divd ∧ ∃ d, s.reaches gr (jTarget f iss.pc) d ∧
    markOf (lineSlot d ((jTarget f iss.pc).extractLsb' 0 3).toNat) = some m ∧ gr.vgran < m) 0x05 (BitVec.ofNat 32 m)) ∧
  (∀ f, faults (.rgn f) (fun _ _ _ _ => 4 < f.tslot.toNat) 0x03 0) ∧
  (∀ f, faults (.rgn f) (fun _ _ gr l => f.tslot.toNat ≤ 4 ∧ gr.divd ≤ (gr.lane l).stack.length) 0x06 0) ∧
  (∀ f, faults (.ret f) (fun _ _ gr l => ∀ a, ConvEntry.call a ∉ (gr.lane l).stack) 0x01 10) ∧
  (∀ f, faults (.brk f) (fun _ _ gr l => popRegions f.md.toNat (gr.lane l).stack = none) 0x01 11)

/-- R196, R193: exit ends the passing threads for good; in a group that no barrier slot counts, only the regions are re-examined, and with
its last thread the group leaves the active set.
R198, R260: trap and bkpt park every passing thread with their code and immediate; the thread resumes after them. -/
def Obligations.ExitAndTraps : Prop :=
  ((∀ f s iss gr ps, issuing (.exit f) false s = some (iss, gr, ps) →
    ∃ t gr', exec (.exit f) s = .next t ∧ t.group iss.g = some gr' ∧ (∀ l ∈ ps, (gr'.lane l).run = .exited) ∧
      t.mem = s.mem ∧ t.reqs = s.reqs ∧ t.slots = s.slots ∧ t.tiles = s.tiles) ∧
  (∀ f s iss gr ps, issuing (.exit f) false s = some (iss, gr, ps) → s.bars.all (fun e => !e.2.covers e.1 gr) = true →
    ∃ g1 : Group, gr.threads g1 iss ps (fun _ x =>
        { x with run := .exited, issued := x.issued + 1, inHandler := false, wait := .none, bar := none, barLate := [] }) ∧
      g1.body = (gr.popQueues (queuesOf (.exit f))).body ∧
      (g1.release.allExited = false ∨ gr.st ≠ .active → exec (.exit f) s = .next (s.putGroup iss.g g1.release)) ∧
      (g1.release.allExited = true → gr.st = .active →
        exec (.exit f) s = .next ((s.putGroup iss.g { g1.release with st := .retiring }).updCore gr.core
          (fun c => { c with active := c.active.filter (· != iss.g) }))))) ∧
  ((∀ f, inGroup (.trap f) false (fun _ _ _ _ => True) (fun _ iss gr ps gr' =>
    gr.threads gr' iss ps (fun l x => parked gr 0x61 (0x10000 ||| (f.md.extractLsb' 0 16).zeroExtend 32) (nextPc iss.pc) l x) ∧
    gr'.body = (gr.popQueues (queuesOf (.trap f))).body)) ∧
  (∀ f, inGroup (.bkpt f) false (fun _ _ _ _ => True) (fun _ iss gr ps gr' =>
    gr.threads gr' iss ps (fun l x => parked gr 0x18 (0xF0000 ||| (f.md.extractLsb' 0 16).zeroExtend 32) (nextPc iss.pc) l x) ∧
    gr'.body = (gr.popQueues (queuesOf (.bkpt f))).body)))

/-! ### Chapter 07 -/

/-- R200, R214, R217–R222: loads and stores of global memory become one request for each thread, or one for the path (sld, sst): the bytes at
source a plus OFF, the data of source b, the presented witness; while a witness is not satisfied the path waits.
R224–R226: the atomics and reductions become requests with their operation; a cas carries its comparand and its new value;
an immediate of the .f32 width is converted (R64, R216).
Model's choices: log 102, 176. -/
def Obligations.LoadsAndStores : Prop :=
  ((∀ f, globalIssues (.ld f) f false .load (fun _ _ => 0) (widthRegs f.width)) ∧
  (∀ f, globalIssues (.sld f) f true .load (fun _ _ => 0) (widthRegs f.width)) ∧
  (∀ f, globalIssues (.st f) f false .store (fun gr l => gr.dataSrc f.width l f.b (widthRegs f.width)) 2) ∧
  (∀ f, globalIssues (.sst f) f true .store (fun gr l => gr.dataSrc f.width l f.b (widthRegs f.width)) 2) ∧
  (∀ f, awaitsWitness (.ld f) false f.c) ∧ (∀ f, awaitsWitness (.sld f) true f.c) ∧
  (∀ f, awaitsWitness (.st f) false f.c) ∧ (∀ f, awaitsWitness (.sst f) true f.c)) ∧
  ((∀ f, awaitsEntry (.ld f) f false .load (fun _ _ => 0) (widthRegs f.width)) ∧
  (∀ f, awaitsEntry (.sld f) f true .load (fun _ _ => 0) (widthRegs f.width)) ∧
  (∀ f, awaitsEntry (.st f) f false .store (fun gr l => gr.dataSrc f.width l f.b (widthRegs f.width)) 2) ∧
  (∀ f, awaitsEntry (.sst f) f true .store (fun gr l => gr.dataSrc f.width l f.b (widthRegs f.width)) 2)) ∧
  (let d (f : FmtM) (gr : Group) (l : Nat) : W128 := gr.dataSrc f.width l f.b (widthRegs f.width)
  ∀ f,
  globalIssues (.atomAdd f) f false (.atom .add false) (d f) 4 ∧ globalIssues (.atomMin f) f false (.atom .min false) (d f) 4 ∧
  globalIssues (.atomMax f) f false (.atom .max false) (d f) 4 ∧ globalIssues (.atomAnd f) f false (.atom .and false) (d f) 4 ∧
  globalIssues (.atomOr f) f false (.atom .or false) (d f) 4 ∧ globalIssues (.atomXor f) f false (.atom .xor false) (d f) 4 ∧
  globalIssues (.atomExch f) f false (.atom .exch false) (d f) 4 ∧
  globalIssues (.atomCas f) f false (.atom .cas false) (fun gr l => gr.dataSrc f.width l f.b (2 * widthRegs f.width)) 4 ∧
  globalIssues (.redAdd f) f false (.atom .add true) (d f) 2 ∧ globalIssues (.redMin f) f false (.atom .min true) (d f) 2 ∧
  globalIssues (.redMax f) f false (.atom .max true) (d f) 2 ∧ globalIssues (.redAnd f) f false (.atom .and true) (d f) 2 ∧
  globalIssues (.redOr f) f false (.atom .or true) (d f) 2 ∧ globalIssues (.redXor f) f false (.atom .xor true) (d f) 2 ∧
  awaitsWitness (.atomAdd f) false f.c ∧ awaitsWitness (.atomCas f) false f.c ∧ awaitsWitness (.redAdd f) false f.c)

/-- R218, R266: an access that is misaligned, has no translation or is not permitted parks its thread, or for sld and sst its path, with ALIGN
and the size, XLATE and the failing stage, or PERM and the kind of access; the record holds the address.
Model's choices: log 11. -/
def Obligations.AccessFaults : Prop :=
  let va (f : FmtM) (gr : Group) (l : Nat) : W64 := gr.src64 l f.a + f.off.signExtend 64
  let align (i : Instr) (f : FmtM) (once : Bool) : Prop := accessFaults i once false (va f) f.c 0x12 (fun _ gr l x =>
    (va f gr l).toNat % widthBytes f.width ≠ 0 ∧ x = BitVec.ofNat 32 (widthBytes f.width))
  let xlate (i : Instr) (f : FmtM) (once : Bool) : Prop := accessFaults i once true (va f) f.c 0x10 (fun s gr l x =>
    (va f gr l).toNat % widthBytes f.width = 0 ∧ ∃ e, (s.translate gr.core (s.vfOf gr) (va f gr l)).2 = .error e ∧ e.ask = none ∧ x = e.extra)
  let perm (i : Instr) (f : FmtM) (once : Bool) (k : W32) (bad : State → Group → Tr → Prop) : Prop :=
    accessFaults i once true (va f) f.c 0x11 (fun s gr l x => (va f gr l).toNat % widthBytes f.width = 0 ∧ x = k ∧
      ∃ tr, (s.translate gr.core (s.vfOf gr) (va f gr l)).2 = .ok tr ∧ ¬ (s.homeFor gr tr = hostHome) ∧ bad s gr tr)
  ∀ f, align (.ld f) f false ∧ align (.st f) f false ∧ align (.sld f) f true ∧ align (.sst f) f true ∧ align (.atomAdd f) f false ∧
    xlate (.ld f) f false ∧ xlate (.st f) f false ∧ xlate (.sld f) f true ∧ xlate (.sst f) f true ∧ xlate (.atomAdd f) f false ∧
    perm (.ld f) f false 0 (fun _ _ tr => tr.r = false) ∧ perm (.sld f) f true 0 (fun _ _ tr => tr.r = false) ∧
    perm (.st f) f false 1 (fun _ _ tr => tr.w = false) ∧ perm (.sst f) f true 1 (fun _ _ tr => tr.w = false) ∧
    perm (.atomAdd f) f false 0 (fun _ _ tr => tr.r = false) ∧ perm (.atomAdd f) f false 1 (fun _ _ tr => tr.r = true ∧ tr.w = false)

/-- R229–R232, R234: what the witness instructions write (wjoinr joins what every thread whose guard passes holds, the null
witness where a vector guard passes in none); a wwait whose witness is not
satisfied holds the path.
R209, R213: Join of two witnesses that are not null has the greater stamp and at least both scopes; it is exact only for two exact witnesses
of one home, and a null witness leaves the other as it is. -/
def Obligations.WitnessInstructions : Prop :=
  ((∀ f, let ok := fun (s : State) (gr : Group) l => s.join gr (gr.src64 l f.a) (gr.src64 l f.b)
    witnessGives (.wjoin f) f 2 (isScalSpec f.h.dst) (fun s gr _ l => ∃ w, ok s gr l = .ok w)
      (fun s gr ps l => match ok s gr (leader (.wjoin f) ps l) with | .ok w => w.zeroExtend 128 | _ => 0)) ∧
  (∀ f, witnessGives (.wtest f) f 1 (isScalSpec f.h.dst)
    (fun s gr _ l => wKind (gr.src64 l f.a) = 0 ∨ genAge (s.genAt gr.core (s.sliceOf gr)) (gr.src64 l f.a) < 8)
    (fun s gr ps l => let o := leader (.wtest f) ps l
      withBit (gr.dstVal o f.h.dst 1) (f.off.toNat % 32) (s.sat gr false (gr.src64 o f.a) == .yes))) ∧
  (∀ f, witnessGives (.wwait f) f 2 (isScalSpec f.h.dst) (fun s gr _ l => s.sat gr true (gr.src64 l f.a) = .yes)
    (fun s gr ps l => let w := gr.src64 (leader (.wwait f) ps l) f.a
      if wKind w = 3 then (s.standIn gr w).zeroExtend 128
      else if wKind w ≠ 0 ∧ genAge (s.genAt gr.core (s.sliceOf gr)) w ≠ 0 then 0 else w.zeroExtend 128)) ∧
  (∀ f, inGroup (.wwait f) (isScalSpec f.h.dst)
    (fun s _ gr ps => ∃ l ∈ issuers (isScalSpec f.h.dst) ps, s.sat gr true (gr.src64 l f.a) = .no)
    (fun _ iss gr _ gr' => gr' = gr.stay (iss.path gr) .witness)) ∧
  (∀ f, witnessGives (.wscop f) f 2 (isScalSpec f.h.dst) (fun _ _ _ _ => True)
    (fun _ gr ps l => (wscopVal (gr.src64 (leader (.wscop f) ps l) f.a) f.scope).zeroExtend 128)) ∧
  (∀ f (w : Nat → W64), witnessGives (.wjoinr f) f 2 false (fun s gr _ l => s.joinArg gr (gr.src64 l f.a) = .ok (w l))
    (fun s gr ps _ => ((ps.map w).foldl (s.join2 (s.sliceOf gr) gr.core) 0).zeroExtend 128)) ∧
  (∀ f (s : State) (iss : Issue) (gr : Group) b, s.cur = some iss → s.group iss.g = some gr → iss.path gr ≠ [] → f.h.greg.toNat < 256 →
    failedCheck iss gr (.wjoinr f) = none → gr.guardWait f.h (iss.path gr) = none → gr.passing f.h false (iss.path gr) = [] →
    gr.specWait 0 f.h.dst 2 = none → Operand.ofSpec f.h.dst = .sreg b →
    ∃ gr', exec (.wjoinr f) s = .next (s.putGroup iss.g gr') ∧ (∀ r, gr'.rd r = if b ≤ r ∧ r < b + 2 then 0 else gr.rd r) ∧
      ∀ l r, (gr'.lane l).rd r = (gr.lane l).rd r)) ∧
  (∀ (s : State) sl core (a b : W64),
    (wKind a = 0 → s.join2 sl core a b = b) ∧ (wKind b = 0 → wKind a ≠ 0 → s.join2 sl core a b = a) ∧
    (wKind a ≠ 0 → wKind b ≠ 0 →
      let j := s.join2 sl core a b
      wStamp j = max (wStamp a) (wStamp b) ∧ wGen j = s.genAt core sl ∧
      (wScope a).toNat ≤ (wScope j).toNat ∧ (wScope b).toNat ≤ (wScope j).toNat ∧
      (wKind j = 1 ↔ wKind a = 1 ∧ wKind b = 1 ∧ wHome a = wHome b) ∧ (wKind j ≠ 1 → wKind j = 2 ∧ wHome j = 0x3FF)))

/-! ### Chapter 09 -/

/-- R276, R34–R43: rdcr writes the register that it names; SLICE and VF of a firmware group, which the manual leaves open, are free values.
Model's choices: log 20. -/
def Obligations.ControlRegisterReads : Prop :=
  (∀ f, inGroup (.rdcr f) (isScalSpec f.h.dst) (fun _ _ gr _ => crFree gr f.imm = false) (fun s iss gr ps gr' =>
    gr.result gr' (.rdcr f) iss (crRegs f.imm) ps (fun _ => (s.crRead gr 0 f.imm).zeroExtend 128))) ∧
  (∀ f s iss gr ps, issuing (.rdcr f) (isScalSpec f.h.dst) s = some (iss, gr, ps) → crFree gr f.imm = true →
    ∃ gr' fresh, exec (.rdcr f) s = .next (({ s with free := s.free + 1 } : State).putGroup iss.g gr') ∧
      gr.result gr' (.rdcr f) iss (crRegs f.imm) ps (fun _ => (s.crRead gr fresh f.imm).zeroExtend 128)) ∧
  (∀ (s : State) (gr : Group) fresh, s.crRead gr fresh 0x00 = gr.pathq.zeroExtend 64 ∧ s.crRead gr fresh 0x01 = gr.fpctl.zeroExtend 64 ∧
    s.crRead gr fresh 0x02 = gr.fpstat.zeroExtend 64 ∧ s.crRead gr fresh 0x03 = gr.trapvec ∧ s.crRead gr fresh 0x05 = gr.gang.zeroExtend 64 ∧
    s.crRead gr fresh 0x06 = gr.obs ∧ s.crRead gr fresh 0x07 = (s.genAt gr.core (s.sliceOf gr)).zeroExtend 64 ∧
    s.crRead gr fresh 0x0A = BitVec.ofNat 64 (gr.core % 49) ∧ s.crRead gr fresh 0x0C = BitVec.ofNat 64 (gr.core / 49) ∧
    s.crRead gr fresh 0x10 = BitVec.ofNat 64 gr.groupid)

/-- R277, R36, R376: what wrcr changes: a PATHQ of 0 is 1, FPSTAT bits clear where the value holds 1, WATCHn keeps legal fields and withdraws
its home watch, and a new home watch is sent to the line's home; a register with no writable field keeps its value. -/
def Obligations.ControlRegisterWrites : Prop :=
  let v (f : FmtS) (gr : Group) (ps : List Nat) : W64 := (gr.src (ps.headD 0) f.a (crRegs f.imm)).setWidth 64
  let writes (ix : W16) (pre : State → Group → W64 → Prop) (g1 : State → Group → Group → W64 → Group) : Prop :=
    ∀ f : FmtS, f.imm = ix → inGroup (.wrcr f) true (fun s _ gr ps => pre s gr (v f gr ps)) (fun s iss gr ps gr' =>
      gr.goesOn gr' (g1 s gr (gr.popQueues (queuesOf (.wrcr f))) (v f gr ps)) iss ps)
  writes 0x00 (fun _ _ _ => True) (fun _ _ p x => { p with pathq := if x.extractLsb' 0 8 = 0 then 1 else x.extractLsb' 0 8 }) ∧
  writes 0x01 (fun _ _ _ => True) (fun _ _ p x => { p with fpctl := x.extractLsb' 0 5 }) ∧
  writes 0x02 (fun _ _ _ => True) (fun _ _ p x => { p with fpstat := p.fpstat &&& ~~~(x.extractLsb' 0 5) }) ∧
  writes 0x03 (fun _ _ _ => True) (fun _ _ p x => { p with trapvec := x }) ∧
  writes 0x08 (fun _ _ _ => True) (fun _ _ p x => { p with stallc := x.extractLsb' 0 32 }) ∧
  (∀ n < 4, writes (BitVec.ofNat 16 (0x18 + n)) (fun _ _ x => (watchValue x).extractLsb' 62 2 ≠ 2)
    (fun _ _ p x => { p with watch := p.watch.set n (watchValue x), hwatch := Store.del (Store.del p.hwatch n) (4 + n) })) ∧
  (∀ n < 4, ∀ tr, writes (BitVec.ofNat 16 (0x18 + n))
    (fun s gr x => (watchValue x).extractLsb' 62 2 = 2 ∧ s.translate gr.core (s.vfOf gr) (watchLine (watchValue x)) = (s, .ok tr) ∧
      tr.coh = false ∧ s.homeOf tr.pa < 0xC0)
    (fun _ _ p x => { p with watch := p.watch.set n (watchValue x),
                             hwatch := Store.put (Store.del (Store.del p.hwatch n) (4 + n)) (4 + n) (tr.pa / 128) })) ∧
  (∀ ix, ix ∉ ([0x00, 0x01, 0x02, 0x03, 0x08, 0x18, 0x19, 0x1A, 0x1B] : List W16) → writes ix (fun _ _ _ => True) (fun _ _ p _ => p))

/-- R278, R260: rdflt writes half of each passing thread's fault record, whose layout is CODE, LANE, FLAGS, SKID, EXTRA, PC and then ADDR,
RESUME, little-endian. -/
def Obligations.FaultRecords : Prop :=
  (∀ f, inGroup (.rdflt f) false (fun _ _ _ _ => True) (fun _ iss gr ps gr' =>
    gr.result gr' (.rdflt f) iss 4 ps (fun l => (gr.lane l).flt.half (f.imm == 1)))) ∧
  (∀ r : FaultRec, (r.half false).toNat = r.code.toNat + 2 ^ 8 * r.lane.toNat + 2 ^ 16 * r.flags.toNat + 2 ^ 24 * r.skid.toNat +
      2 ^ 32 * r.extra.toNat + 2 ^ 64 * r.pc.toNat ∧ (r.half true).toNat = r.addr.toNat + 2 ^ 64 * r.resume.toNat)

/-- R279: rte returns the threads in their handler to RESUME or to the address of source a, leaves the handler and exempts the next issue from
watches; a thread that is not in its handler parks with ILLOP, reason 12. Stated for one return address. -/
def Obligations.ReturnFromHandler : Prop :=
  (∀ f a, inGroup (.rte f) false
    (fun s _ gr ps => (∀ l ∈ ps, (gr.lane l).inHandler = true ∧ a = if f.a = noneSpec then (gr.lane l).flt.resume else gr.src64 l f.a) ∧
      ∃ d, s.enter gr a true = (s, .ok d)) (fun _ iss gr ps gr' =>
    gr.threads gr' iss ps (fun _ x => { x.goTo a with inHandler := false, exempt := true }) ∧
    gr'.body = (gr.popQueues (queuesOf (.rte f))).body)) ∧
  (∀ f, inGroup (.rte f) false (fun _ _ gr ps => ∀ l ∈ ps, (gr.lane l).inHandler = false) (fun _ iss gr ps gr' =>
    gr.threads gr' iss ps (fun l x => parked gr 0x01 12 iss.pc l x) ∧ gr'.body = (gr.popQueues (queuesOf (.rte f))).body))

/-- R280, R281: sys leaves its request with the group, or all ones on the firmware core; halt waits while its group's event mask is zero, and otherwise
writes the mask and clears it (each firmware group has its mask, the model's choice: log 156).
Model's choices: log 156. -/
def Obligations.ServicesAndHalt : Prop :=
  (∀ f, inGroup (.sys f) true (fun _ _ gr _ => gr.priv = false) (fun _ iss gr ps gr' =>
    gr.goesOn gr' { gr.popQueues (queuesOf (.sys f)) with sysq := some (SysReq.mk f.imm (if f.a = noneSpec then 0 else gr.src64 (ps.headD 0) f.a) f.h.dst none) }
      iss ps)) ∧
  (∀ f, inGroup (.sys f) true (fun _ _ gr _ => gr.priv = true) (fun _ iss gr ps gr' =>
    gr.result gr' (.sys f) iss 2 ps (fun _ => 0xFFFFFFFFFFFFFFFF))) ∧
  (∀ f, inGroup (.halt f) true (fun _ _ gr _ => gr.events = 0) (fun _ iss gr ps gr' =>
    gr.goesOn gr' { gr.popQueues (queuesOf (.halt f)) with haltq := some (HaltReq.mk f.h.dst f.imm.toNat) } iss ps)) ∧
  (∀ f b, Operand.ofSpec f.h.dst = .sreg b → inGroup (.halt f) true (fun _ _ gr _ => gr.events ≠ 0) (fun _ iss gr ps gr' =>
    gr.threads gr' iss ps (fun _ x => x.goTo (nextPc iss.pc)) ∧ gr'.rd b = gr.events.zeroExtend 32 ∧ (∀ r, r ≠ b → gr'.rd r = gr.rd r) ∧
    gr'.haltq = none ∧ gr'.events = 0 ∧ gr'.oq = (gr.popQueues (queuesOf (.halt f))).oq ∧ gr'.fpstat = gr.fpstat ∧
    { gr'.rest with haltq := none, events := 0 } = { gr.rest with haltq := none, events := 0 }))

/-- R282–R285: tlbi drops the entries it selects (those of the page of its leaf in the stage named) from every TLB once no access through them is
in flight; ldio and stio reach the register
at their address, at 4 or 8 bytes; mbxw posts a message and tells whether it went; engx submits a job and answers its future.
R283, R285, R266: an I/O access parks its path with ALIGN and its size where it is not aligned, with XLATE and EXTRA 64 where there is no
register, and with PERM and EXTRA 3 where firmware may not write; engx parks it with ALIGN and 64.
Model's choices: log 11, 32. -/
def Obligations.PrivilegedInstructions : Prop :=
  ((∀ f s iss gr ps, issuing (.tlbi f) true s = some (iss, gr, ps) →
    let a := if f.a = noneSpec then 0 else gr.src64 (ps.headD 0) f.a
    let vf := if f.b = noneSpec then 0 else (gr.src32 (ps.headD 0) f.b).toNat
    (s.tlbBusy f.sub.toNat vf a = false →
      ∃ gr', exec (.tlbi f) s = .next (({ s with
        tlb := s.tlb.filter (fun e => !(match f.sub.toNat with
          | 0 => e.vf == vf && e.vpage * e.size / e.s1 == a.toNat / e.s1
          | 1 => e.vf == vf
          | 2 => e.vf == vf && e.gpage * e.size / e.s2 == a.toNat / e.s2
          | 3 => e.vf == vf
          | _ => true))
        fab := { s.fab with lines := s.fab.lines.filter (fun l => decide (l.slice < 2 ^ 20) || (f.sub.toNat != 4 && l.vf != vf)) } } : State).putGroup iss.g gr') ∧
        gr.goesOn gr' (gr.popQueues (queuesOf (.tlbi f))) iss ps) ∧
    (s.tlbBusy f.sub.toNat vf a = true → exec (.tlbi f) s = .next (s.putGroup iss.g (gr.stay (iss.path gr) .engine)))) ∧
  (∀ f s iss gr ps s1 v, issuing (.ldio f) true s = some (iss, gr, ps) → (ioAddr f gr (ps.headD 0)).toNat % ioBytes f = 0 →
    s.ioRead (ioAddr f gr (ps.headD 0)) = some (s1, v) →
    ∃ gr', exec (.ldio f) s = .next (s1.putGroup iss.g gr') ∧
      gr.result gr' (.ldio f) iss (ioBytes f / 4) ps (fun _ => v.zeroExtend 128)) ∧
  (∀ f s iss gr ps s1, issuing (.stio f) true s = some (iss, gr, ps) → (ioAddr f gr (ps.headD 0)).toNat % ioBytes f = 0 →
    s.ioWrite (ioAddr f gr (ps.headD 0)) ((gr.src (ps.headD 0) f.b (ioBytes f / 4)).setWidth 64) (ioBytes f) = .done s1 →
    ∃ gr', exec (.stio f) s = .next (s1.putGroup iss.g gr') ∧ gr.goesOn gr' (gr.popQueues (queuesOf (.stio f))) iss ps) ∧
  (∀ f s iss gr ps, issuing (.mbxw f) true s = some (iss, gr, ps) → outRing (gr.core / 49) f.imm.toNat = none ∨ 10 < f.imm.toNat →
    let r := s.mboxPost (gr.core / 49) f.imm.toNat (gr.src64 (ps.headD 0) f.a)
    ∃ gr', exec (.mbxw f) s = .next (r.1.putGroup iss.g gr') ∧ gr.result gr' (.mbxw f) iss 1 ps (fun _ => if r.2 then 0 else 1)) ∧
  (∀ f s iss gr ps d' i', issuing (.mbxw f) true s = some (iss, gr, ps) → outRing (gr.core / 49) f.imm.toNat = some (d', i') →
    (∀ e ∈ s.groups, e.1 = iss.g → e.2.haltq = none) → (s.mbox d' i').inb.length < 16 →
    ∃ t g1 ev, exec (.mbxw f) s = .next t ∧ t.group iss.g = some { g1 with events := ev } ∧ gr.result g1 (.mbxw f) iss 1 ps (fun _ => 0) ∧
      (d' ≠ gr.core / 49 → ev = gr.events) ∧
      (t.mbox d' i').inb = (s.mbox d' i').inb ++ [gr.src64 (ps.headD 0) f.a] ∧ t.mem = s.mem) ∧
  (∀ f s u iss gr ps d slot j, issuing (.engx f) true s = some (iss, gr, ps) → (gr.src64 (ps.headD 0) f.a).toNat % 64 = 0 →
    let eng := gr.core / 49 * 24 + f.imm.toNat
    (s.popped iss gr (.engx f)).groupRead iss.g gr iss.pc (gr.src64 (ps.headD 0) f.a) 64 = (u, .ok d) →
    u.groups = (s.popped iss gr (.engx f)).groups → u.freeSlot eng = some slot →
    bulkJob d false eng fwVf 16 gr.core iss.g (ps.headD 0) iss.pc = some j →
    ∃ gr', exec (.engx f) s = .next ((u.accept slot j).1.putGroup iss.g gr') ∧
      gr.result gr' (.engx f) iss 2 ps (fun _ => (u.accept slot j).2.zeroExtend 128))) ∧
  (let io (code : Byte) (extra : W32) (pc a : W64) : FaultInfo := { preciseFault code extra pc with addr := some a }
  (∀ f, parksAll (.ldio f) true (fun _ _ gr ps => (ioAddr f gr (ps.headD 0)).toNat % ioBytes f ≠ 0)
    (fun iss gr ps => io 0x12 (BitVec.ofNat 32 (ioBytes f)) iss.pc (ioAddr f gr (ps.headD 0)))) ∧
  (∀ f, parksAll (.stio f) true (fun _ _ gr ps => (ioAddr f gr (ps.headD 0)).toNat % ioBytes f ≠ 0)
    (fun iss gr ps => io 0x12 (BitVec.ofNat 32 (ioBytes f)) iss.pc (ioAddr f gr (ps.headD 0)))) ∧
  (∀ f, parksAll (.ldio f) true
    (fun s _ gr ps => (ioAddr f gr (ps.headD 0)).toNat % ioBytes f = 0 ∧ (s.ioRead (ioAddr f gr (ps.headD 0))).isNone)
    (fun iss gr ps => io 0x10 64 iss.pc (ioAddr f gr (ps.headD 0)))) ∧
  (∀ f, parksAll (.stio f) true
    (fun s _ gr ps => (ioAddr f gr (ps.headD 0)).toNat % ioBytes f = 0 ∧
      s.ioWrite (ioAddr f gr (ps.headD 0)) ((gr.src (ps.headD 0) f.b (ioBytes f / 4)).setWidth 64) (ioBytes f) = .readOnly)
    (fun iss gr ps => io 0x11 3 iss.pc (ioAddr f gr (ps.headD 0)))) ∧
  (∀ f, parksAll (.engx f) true (fun _ _ gr ps => (gr.src64 (ps.headD 0) f.a).toNat % 64 ≠ 0)
    (fun iss gr ps => io 0x12 64 iss.pc (gr.src64 (ps.headD 0) f.a))))

/-! ### Chapter 10 -/

/-- R308–R310, R313: strm starts the walk of its descriptor, Idle at once when it has no entry; a misaligned descriptor parks the lowest passing
thread and leaves the queue Idle; strmx stops or rewinds a queue; oqst writes its state word.
R309–R312: the walk of a stream reads the next entry, each lane of its mask from its own address; the entry goes to the queue, or beyond 64
entries and with SPILL to the ring, which the group's four queues share, and one that does not fit parks the lowest lane with QQUOTA and pauses the
queue. An entry is read when its VF's turn at HBM4E has come (R418).
Model's choices: log 41. -/
def Obligations.Streams : Prop :=
  ((∀ f s u iss gr ps d, issuing (.strm f) false s = some (iss, gr, ps) →
    let lane := ps.headD 0
    let da := gr.src64 lane f.b
    let p := s.popped iss gr (.strm f)
    s.sat gr true (gr.presented lane f.c) = .yes → da.toNat % 64 = 0 → p.groupAsks iss.g gr da 64 = none → s.racing (s.sliceOf gr) true = false →
    p.groupRead iss.g gr iss.pc da 64 = (u, .ok d) → u.groups = p.groups → zeroRange d 0x34 12 = true →
    ∃ t gr' q, exec (.strm f) s = .next t ∧ t.group iss.g = some gr' ∧ (∀ h, h ≠ iss.g → t.group h = s.group h) ∧ t.mem = s.mem ∧
      t.poison = s.poison ∧ t.reqs = s.reqs ∧ t.blocks = s.blocks ∧ gr.threads gr' iss ps (fun _ x => x.goTo (nextPc iss.pc)) ∧
      { gr'.body with oq := [], obs := 0 } = { gr.body with oq := [], obs := 0 } ∧
      gr'.oq = ((gr.popQueues (queuesOf (.strm f))).updQ (qIdx f) (fun _ => q)).oq ∧ gr'.oq.getD (qIdx f) {} = q ∧
      let count (i : Nat) : Nat := if i ≤ f.dims.toNat then field d (4 * i) 4 else 1
      q.total = count 0 * count 1 * count 2 * count 3 ∧ q.st = (if q.total = 0 then .idle else .walking) ∧ q.next = 0 ∧ q.popped = 0 ∧
      q.entries = [] ∧ q.spilled = [] ∧ q.base = gr.src64 lane f.a + f.soff.signExtend 64 ∧ q.width = f.width ∧
      q.wit = s.standIn gr (gr.presented lane f.c) ∧ (∀ l < 32, q.mask.getLsbD l = decide (l ∈ ps)) ∧
      (∀ i < 4, (q.strides.getD i 0).toNat = field d (0x10 + 8 * i) 8) ∧ q.lstride.toNat = field d 0x30 4) ∧
  (∀ f s iss gr ps, issuing (.strm f) false s = some (iss, gr, ps) → s.sat gr true (gr.presented (ps.headD 0) f.c) = .yes →
    (gr.src64 (ps.headD 0) f.b).toNat % 64 ≠ 0 →
    ∃ gr', exec (.strm f) s = .next (s.putGroup iss.g gr') ∧ (gr'.oq.getD (qIdx f) {}).st = .idle ∧
      gr'.lane (ps.headD 0) = (gr.lane (ps.headD 0)).park (ps.headD 0) gr.trapvec
        { preciseFault 0x12 64 iss.pc with addr := some (gr.src64 (ps.headD 0) f.b) }) ∧
  (∀ f, inGroup (.strmx f) true (fun _ _ gr _ => f.eflg.getLsbD 2 = false ∨ (gr.oq.getD (qIdx f) {}).st ≠ .idle) (fun _ iss gr ps gr' =>
    gr.threads gr' iss ps (fun _ x => x.goTo (nextPc iss.pc)) ∧ { gr'.body with oq := [] } = { gr.body with oq := [] } ∧
    ∃ q, gr'.oq = ((gr.popQueues (queuesOf (.strmx f))).updQ (qIdx f) (fun _ => q)).oq ∧ gr'.oq.getD (qIdx f) {} = q ∧
    q.entries = [] ∧ q.spilled = [] ∧ q.next = 0 ∧
      (if f.eflg.getLsbD 2 then q.st = .walking ∧ q.total = (gr.oq.getD (qIdx f) {}).total ∧ q.base = (gr.oq.getD (qIdx f) {}).base
       else q = {}))) ∧
  (∀ f, parksAll (.strmx f) true (fun _ _ gr _ => f.eflg.getLsbD 2 = true ∧ (gr.oq.getD (qIdx f) {}).st = .idle)
    (fun iss _ _ => preciseFault 0x51 (BitVec.ofNat 32 (qIdx f)) iss.pc)) ∧
  (∀ f, inGroup (.oqst f) (isScalSpec f.h.dst) (fun _ _ _ _ => True) (fun _ iss gr ps gr' =>
    gr.result gr' (.oqst f) iss 1 ps (fun _ =>
      let q := gr.oq.getD (qIdx f) {}
      BitVec.ofNat 128 ((match q.st with | .idle => 0 | .walking => 1 | .produced => 2 | .paused => 3) + 256 * min 64 q.entries.length +
        65536 * min 0xFFFF q.spilled.length))))) ∧
  (let produced (s : State) (gr gr' : Group) (k : Nat) : Prop := ∃ e : QEntry,
    (gr'.oq.getD k {}).next = (gr.oq.getD k {}).next + 1 ∧
    (gr'.oq.getD k {}).st = (if (gr.oq.getD k {}).next + 1 = (gr.oq.getD k {}).total then .produced else .walking) ∧
    (gr'.oq.getD k {}).entries ++ (gr'.oq.getD k {}).spilled = (gr.oq.getD k {}).entries ++ (gr.oq.getD k {}).spilled ++ [e] ∧
    e.faults = [] ∧ (∀ l < 32, (gr.oq.getD k {}).mask.getLsbD l = true →
      ∃ tr, s.streamLane gr (gr.oq.getD k {}) l = .val (e.vals.getD l 0) tr) ∧
    (∀ j < 4, j ≠ k → gr'.oq.getD j {} = gr.oq.getD j {}) ∧ gr'.s = gr.s ∧ (∀ l, (gr'.lane l).v = (gr.lane l).v ∧ (gr'.lane l).pc = (gr.lane l).pc)
  let walks (gr : Group) (k : Nat) : Prop := gr.st = .active ∧ (gr.oq.getD k {}).st = .walking ∧
    (gr.oq.getD k {}).next < (gr.oq.getD k {}).total
  let reads (s : State) (gr : Group) (k : Nat) : Prop :=
    ∀ l < 32, (gr.oq.getD k {}).mask.getLsbD l = true → ∃ v tr, s.streamLane gr (gr.oq.getD k {}) l = .val v tr
  let apart (s t : State) (g : Nat) : Prop := s.apart t g ∧ t.mem = s.mem ∧ t.reqs = s.reqs ∧ t.blocks = s.blocks
  let goes (s : State) (g : Nat) (gr : Group) (k : Nat) : Prop := s.racing (s.sliceOf gr) true = false ∧ (gr.priv = true → gr.haltq = none) ∧
    (s.streamPas gr (gr.oq.getD k {})).any (s.hbmWaits (s.jobVf gr)) = false ∧ s.hbmGoes (s.streamHbm g k gr) (s.jobVf gr)
  (∀ g k gr, k < 4 → takes (.streamEntryProduce g k)
    (fun s => s.group g = some gr ∧ walks gr k ∧ reads s gr k ∧ goes s g gr k ∧ (gr.oq.getD k {}).entries.length < 64 ∧
      (gr.oq.getD k {}).spilled = [])
    (fun s t => ∃ gr', t.group g = some gr' ∧ apart s t g ∧ produced s gr gr' k ∧ (gr'.oq.getD k {}).spilled = [])) ∧
  (∀ g k gr, k < 4 → takes (.streamSpill g k)
    (fun s => s.group g = some gr ∧ walks gr k ∧ reads s gr k ∧ goes s g gr k ∧ (gr.oq.getD k {}).spill = true ∧
      (gr.oq.getD k {}).entries.length = 64 ∧ ringHeld gr.oq < 32 * s.quotaOf gr)
    (fun s t => ∃ gr', t.group g = some gr' ∧ apart s t g ∧ produced s gr gr' k ∧ (gr'.oq.getD k {}).entries.length = 64)) ∧
  (∀ g k gr, k < 4 → takes (.streamSpill g k)
    (fun s => s.group g = some gr ∧ walks gr k ∧ (gr.oq.getD k {}).spill = true ∧ (gr.oq.getD k {}).entries.length = 64 ∧
      32 * s.quotaOf gr ≤ ringHeld gr.oq)
    (fun s t => ∃ gr', s.groupTo t g gr' ∧ (gr'.oq.getD k {}).st = .paused ∧ (gr'.oq.getD k {}).entries = (gr.oq.getD k {}).entries ∧
      ∀ l, gr'.lane l = if l = (gr.oq.getD k {}).lanes.headD 0 ∧ l < gr.lanes.length then
        (gr.lane l).imprecise l gr.trapvec 0x50 (BitVec.ofNat 32 k) (gr.oq.getD k {}).pc none (gr.oq.getD k {}).issued else gr.lane l)))

/-! ### Chapter 11 -/

/-- R314, R322–R325: loads, stores and atomics of the scratchpad become one request for each thread at its share and offset, which waits while its
line is Empty; one to a Full line is performed as it issues, and a load of it brings its bytes at once.
R265, R315, R317, R324: a scratchpad access out of range, or a read of a line never written and not Empty, switches its thread off: it
exits with its FLTMASK bit set, and nothing is requested.
R326, R327: pres writes the presence word of the addressed line, and fmask the FLTMASK of a group of the block.
Model's choices: log 102. -/
def Obligations.ScratchpadInstructions : Prop :=
  (let d (f : FmtE) (gr : Group) (l : Nat) : W128 := gr.dataSrc f.width l f.b (widthRegs f.width)
  let d2 (f : FmtE) (gr : Group) (l : Nat) : W128 := gr.dataSrc f.width l f.b (2 * widthRegs f.width)
  ∀ f, scratchIssues (.lds f) f .load (fun _ _ => 0) ∧ scratchIssues (.sts f) f .store (d f) ∧
    scratchIssues (.atomsAdd f) f (.atom .add false) (d f) ∧ scratchIssues (.atomsMin f) f (.atom .min false) (d f) ∧
    scratchIssues (.atomsMax f) f (.atom .max false) (d f) ∧ scratchIssues (.atomsAnd f) f (.atom .and false) (d f) ∧
    scratchIssues (.atomsOr f) f (.atom .or false) (d f) ∧ scratchIssues (.atomsXor f) f (.atom .xor false) (d f) ∧
    scratchIssues (.atomsExch f) f (.atom .exch false) (d f) ∧
    scratchIssues (.atomsCas f) f (.atom .cas false) (d2 f) ∧
    scratchAtOnce (.lds f) f .load (widthRegs f.width) (fun _ _ => 0) ∧ scratchAtOnce (.sts f) f .store 2 (d f) ∧
    scratchAtOnce (.atomsAdd f) f (.atom .add false) 4 (d f) ∧ scratchAtOnce (.atomsMin f) f (.atom .min false) 4 (d f) ∧
    scratchAtOnce (.atomsMax f) f (.atom .max false) 4 (d f) ∧ scratchAtOnce (.atomsAnd f) f (.atom .and false) 4 (d f) ∧
    scratchAtOnce (.atomsOr f) f (.atom .or false) 4 (d f) ∧ scratchAtOnce (.atomsXor f) f (.atom .xor false) 4 (d f) ∧
    scratchAtOnce (.atomsExch f) f (.atom .exch false) 4 (d f) ∧ scratchAtOnce (.atomsCas f) f (.atom .cas false) 4 (d2 f) ∧
    awaitsWitness (.lds f) false f.c ∧ awaitsWitness (.sts f) false f.c ∧ awaitsWitness (.atomsAdd f) false f.c) ∧
  (∀ f s iss gr l loc sh, issuing (.lds f) false s = some (iss, gr, [l]) → s.fullAt iss gr f l loc sh →
    ∃ t gr', exec (.lds f) s = .next t ∧ t.group iss.g = some gr' ∧ t.mem = s.mem ∧ t.blocks = s.blocks ∧ gr.moved gr' iss ∧
      gr.wrote gr' f.h (widthRegs f.width) [l] (fun _ => loadValue f.width (leNat (sh.bytes loc.2.2 (widthBytes f.width))))) ∧
  (let off (i : Instr) (f : FmtE) (rd : Bool) : Prop := ∀ s iss gr l, issuing i false s = some (iss, gr, [l]) →
    let n := widthBytes f.width
    let ad := gr.src32 l f.a + f.soff.signExtend 32
    s.sat gr true (gr.presented l f.c) = .yes → ad.toNat % n = 0 →
    (s.spAddr gr ad n = none ∨ (rd = true ∧ ∃ b k o sh, s.spAddr gr ad n = some (b, k, o) ∧ s.share b k = some sh ∧ sh.line (o / 128) = {})) →
    ∃ t gr', exec i s = .next t ∧ t.group iss.g = some gr' ∧ (gr'.lane l).run = .exited ∧ gr'.fltmask.getLsbD l = true ∧
      t.reqs = s.reqs ∧ t.mem = s.mem
  ∀ f, off (.lds f) f true ∧ off (.sts f) f false ∧ off (.atomsAdd f) f true) ∧
  ((∀ f s iss gr ps (sh : Nat → Share) (loc : Nat → Nat × Nat × Nat), issuing (.pres f) (isScalSpec f.h.dst) s = some (iss, gr, ps) →
    (∀ l ∈ ps, let o := leader (.pres f) ps l
      s.spAddr gr (gr.src32 o f.a + f.soff.signExtend 32) 1 = some (loc o) ∧ s.share (loc o).1 (loc o).2.1 = some (sh o)) →
    ∃ gr', exec (.pres f) s = .next (s.putGroup iss.g gr') ∧ gr.result gr' (.pres f) iss 1 ps (fun l =>
      let o := leader (.pres f) ps l
      let ln := (sh o).line ((loc o).2.2 / 128)
      BitVec.ofNat 128 ((if ln.pend ≠ 0 then 1 else if ln.w then 2 else 0) + 4 * (ln.pend % 16) + (if ln.w then 64 else 0)))) ∧
  (∀ f, inGroup (.fmask f) true (fun _ _ _ _ => True) (fun s iss gr ps gr' =>
    gr.result gr' (.fmask f) iss 1 ps (fun _ =>
      ((s.popped iss gr (.fmask f)).fltmaskOf gr.blk ((gr.src32 (ps.headD 0) f.a).extractLsb' 0 12).toNat).zeroExtend 128))))

/-- R328–R332: a copy that passes its checks is accepted: its future goes to the destination, and slots, jobs and presence counts stand as
the checks left them; what is accepted comes from the block's producer, with a satisfied witness and an aligned descriptor.
R332: a copy from another group than the block's producer parks its path with CPYPERM; a misaligned descriptor with ALIGN and 128.
Model's choices: log 38. -/
def Obligations.Copies : Prop :=
  (let goes (i : Instr) (kind : JobKind) (f : FmtE) : Prop := ∀ s iss gr ps s1 fut rd, issuing i true s = some (iss, gr, ps) →
    (s.popped iss gr i).copyIssue kind f gr iss.g (ps.headD 0) iss.pc = .ok s1 fut rd → s.racing (s.sliceOf gr) true = false →
    (∃ t gr', exec i s = .next t ∧ t.group iss.g = some gr' ∧ gr.wrote gr' f.h 2 ps (fun _ => fut.zeroExtend 128) ∧ gr.moved gr' iss ∧
      gr'.latch = gr.latch ∧ gr'.fpstat = gr.fpstat ∧ t.slots = s1.slots ∧ t.jobs = s1.jobs ∧ t.blocks = s1.blocks ∧ t.mem = s.mem ∧
      t.reqs = s.reqs) ∧
    (∃ b, s.block gr.blk = some b ∧ b.producer = gr.groupid ∧ b.producer ≠ 0xFFFF) ∧
    s.sat gr true (gr.presented (ps.headD 0) f.c) = .yes ∧ (gr.src64 (ps.headD 0) f.b).toNat % 128 = 0 ∧
    ∃ eng slot seq, fut = mkFuture (f.eflg.extractLsb' 0 3) (s.genAt (if eng < 96 then fwCore (eng / 24) else gr.core) (s.sliceOf gr)) (engCode eng) slot seq ∧
      ∃ j, Store.find s1.slots (slotKey (engCode eng) slot) = some j ∧ j.seq = seq ∧ j.vf = s.jobVf gr
  ∀ f, goes (.cpy f) .cpy f ∧ goes (.cpyo f) .cpyo f ∧ goes (.cpyg f) .cpyg f) ∧
  (let denied (i : Instr) : Prop := parksAll i true
    (fun s _ gr _ => ∃ b, s.block gr.blk = some b ∧ (b.producer = 0xFFFF ∨ b.producer ≠ gr.groupid)) (fun iss _ _ => preciseFault 0x22 0 iss.pc)
  let align (i : Instr) (f : FmtE) : Prop := parksAll i true
    (fun s _ gr ps => (∃ b, s.block gr.blk = some b ∧ b.producer = gr.groupid ∧ b.producer ≠ 0xFFFF) ∧
      s.sat gr true (gr.presented (ps.headD 0) f.c) = .yes ∧ (gr.src64 (ps.headD 0) f.b).toNat % 128 ≠ 0)
    (fun iss gr ps => { preciseFault 0x12 128 iss.pc with addr := some (gr.src64 (ps.headD 0) f.b) })
  ∀ f, denied (.cpy f) ∧ denied (.cpyo f) ∧ denied (.cpyg f) ∧ align (.cpy f) f ∧ align (.cpyo f) f ∧ align (.cpyg f) f)

/-! ### Chapter 12 -/

/-- R348: gang writes a legal value whose members share the core, or parks its path with GANGMIS and the reason.
R349: a ganged instruction of a group in a gang whose groups share the core arrives at its rendezvous and waits there.
R349, R350: when every member has arrived and all agree, the operation enters the queue once for all of them, in the order of their GROUPIDs with
the registers of the lowest, and every path goes on, or
all skip; arrivals that disagree, or wait for a retired member, park with GANGMIS.
Model's choices: log 11. -/
def Obligations.Gangs : Prop :=
  (((∀ f, inGroup (.gang f) true (fun s iss gr ps => (s.popped iss gr (.gang f)).gangBad gr (gr.src32 (ps.headD 0) f.c) = none) (fun _ iss gr ps gr' =>
    gr.goesOn gr' { gr.popQueues (queuesOf (.gang f)) with gang := gr.src32 (ps.headD 0) f.c } iss ps)) ∧
  (∀ f r, parksAll (.gang f) true (fun s iss gr ps => (s.popped iss gr (.gang f)).gangBad gr (gr.src32 (ps.headD 0) f.c) = some r)
    (fun iss _ _ => preciseFault 0x30 (BitVec.ofNat 32 r) iss.pc)) ∧
  (∀ (s : State) (gr : Group) (v : W32), s.gangBad gr v = none → v ≠ 0 →
    (gangMask v).getLsbD 0 = true ∧ 2 ≤ (gangMembers v).length ∧ (gangMembers v).length ≤ 6 ∧ gr.groupid ∈ gangMembers v)) ∧
  (let arrives (i : Instr) (src : Group → Nat → W64) : Prop := ∀ s iss gr ps, issuing i true s = some (iss, gr, ps) → gangMask gr.gang ≠ 0 →
    (∀ g ∈ gangMembers gr.gang, ∀ k x, s.groupOf gr.blk g = some (k, x) → x.core = gr.core) →
    (∀ e ∈ s.groups, e.1 = iss.g → e.2.core = gr.core ∧ e.2.blk = gr.blk ∧ e.2.groupid = gr.groupid) →
    ((s.latchOf gr.blk (gangBase gr.gang)).isSome = true ∨ (s.gangs.filter (fun l => l.core == gr.core)).length < 16) →
    ∃ t gr' l, exec i s = .next t ∧ t.group iss.g = some gr' ∧ t.latchOf gr.blk (gangBase gr.gang) = some l ∧
      l.arrivals = (match s.latchOf gr.blk (gangBase gr.gang) with | some x => x.arrivals | none => []) ++
        [Arrival.mk iss.g (laneMask (iss.path gr)) i gr.gang false (src gr (ps.headD 0)) iss.pc] ∧
      (∀ k ∈ iss.path gr, (gr'.lane k).wait = .gang ∧ (gr'.lane k).pc = (gr.lane k).pc) ∧ t.mem = s.mem ∧ t.cores = s.cores
  (∀ f, arrives (.mma f) (fun _ _ => 0)) ∧ (∀ f, arrives (.mzero f) (fun _ _ => 0)) ∧ (∀ f, arrives (.scacc f) (fun _ _ => 0)) ∧
  (∀ f, f.reg = false → arrives (.mdrain f) (fun gr l => if f.c = noneSpec then 0 else gr.src64 l f.c)))) ∧
  ((∀ blk base l a x u, takes (.gangRendezvousComplete blk base)
    (fun s => s.latchOf blk base = some l ∧ s.gangFailure l = none ∧ s.gangFull l = true ∧ (s.inOrder l.current).head? = some a ∧
      s.group a.g = some x ∧ a.skip = false ∧ s.enterOp x a.instr ((s.inOrder l.current).filterMap s.arrived) a.src a.pc = .ok u)
    (fun s t => (t.core x.core).mqNext = (s.core x.core).mqNext + 1 ∧ t.mem = s.mem ∧ t.reqs = s.reqs ∧ t.tiles = s.tiles ∧
      (∃ o, Store.find (t.core x.core).mq (s.core x.core).mqNext = some o ∧ o.instr = a.instr ∧ o.src = a.src ∧ o.started = false ∧
        o.issuers = (s.inOrder l.current).filterMap s.arrived) ∧
      ∀ c ∈ s.inOrder l.current, ∀ i ∈ maskLanes c.lanes, ∀ gr, s.group c.g = some gr → (gr.lane i).run = .running → (gr.lane i).wait = .gang →
        ∃ gr', t.group c.g = some gr' ∧
        (if holdsIssuers a.instr then (gr'.lane i).wait = .drain (s.core x.core).mqNext ∧ (gr'.lane i).pc = (gr.lane i).pc
         else (gr'.lane i).pc = nextPc c.pc))) ∧
  (∀ blk base l, takes (.gangRendezvousComplete blk base)
    (fun s => s.latchOf blk base = some l ∧ s.gangFailure l = none ∧ s.gangFull l = true ∧ s.inOrder l.current ≠ [] ∧
      ∀ a ∈ l.current, a.skip = true ∧ (s.group a.g).isSome = true)
    (fun s t => t.cores = s.cores ∧ t.mem = s.mem ∧ t.blocks = s.blocks ∧
      ∀ c ∈ s.inOrder l.current, ∀ i ∈ maskLanes c.lanes, ∀ gr, s.group c.g = some gr → (gr.lane i).wait = .gang → ∃ gr', t.group c.g = some gr' ∧
        (i < gr.lanes.length → (gr'.lane i).pc = nextPc c.pc ∧ (gr'.lane i).wait = .none))) ∧
  (∀ blk base l r, takes (.gangmisFailure blk base)
    (fun s => s.latchOf blk base = some l ∧ s.gangFailure l = some r)
    (fun s t => t.cores = s.cores ∧ t.mem = s.mem ∧ t.blocks = s.blocks ∧
      ∀ c ∈ l.current, ∀ i ∈ maskLanes c.lanes, ∀ gr, s.group c.g = some gr → (gr.lane i).wait = .gang → i < gr.lanes.length →
        ∃ gr', t.group c.g = some gr' ∧ if c.skip then (gr'.lane i).pc = nextPc c.pc else
          gr'.lane i = (gr.lane i).park i gr.trapvec (preciseFault 0x30 (BitVec.ofNat 32 (r + 256 * s.presentMask base l.current)) c.pc))))

/-- R351: oclm claims a free slot for the block, or waits; with TRY it tells the outcome in bit DBIT and goes on. -/
def Obligations.ClaimSlot : Prop :=
  let key (f : FmtX) (gr : Group) : Nat := tileKey gr.core f.slota.toNat
  let claimed (s : State) (f : FmtX) (gr : Group) : State := { s with tiles := Store.put s.tiles (key f gr) { blk := gr.blk, data := [] } }
  let bit (f : FmtX) (gr : Group) (ok : Bool) (l : Nat) : W128 := withBit (gr.dstVal l f.h.dst 1) (f.xflg.extractLsb' 0 5).toNat ok
  (∀ f s iss gr ps, issuing (.oclm f) true s = some (iss, gr, ps) → Store.find s.tiles (key f gr) = none →
    ∃ gr', exec (.oclm f) s = .next ((claimed s f gr).putGroup iss.g gr') ∧
      (f.try_ = false → gr.goesOn gr' (gr.popQueues (queuesOf (.oclm f))) iss ps) ∧
      (f.try_ = true → gr.result gr' (.oclm f) iss 1 ps (bit f gr true))) ∧
  (∀ f x, f.try_ = true → inGroup (.oclm f) true (fun s _ gr _ => Store.find s.tiles (key f gr) = some x) (fun _ iss gr ps gr' =>
    gr.result gr' (.oclm f) iss 1 ps (bit f gr false))) ∧
  (∀ f x, f.try_ = false → inGroup (.oclm f) true (fun s _ gr _ => Store.find s.tiles (key f gr) = some x) (fun _ iss gr _ gr' =>
    gr' = gr.stay (iss.path gr) (.slot f.slota.toNat)))

/-- R338, R340–R346, R353–R360: a matrix instruction whose slots its block has claimed, whose units lie within the block's accumulators with the
tags it needs and whose scratchpad rows are in range and written enters the queue of its core; a ganged one does so alone when the group
is in no gang.
R338, R341, R342, R358: a slot that the block has not claimed parks the path with OPSLOT and its number; a unit beyond the block's
accumulators, or with a tag that the instruction does not take, with ACCRANGE.
Model's choices: log 11, 42. -/
def Obligations.MatrixInstructions : Prop :=
  (let owned (s : State) (gr : Group) (ks : List Nat) : Prop := ∀ k ∈ ks, s.owns gr.core k gr.blk = true
  let range (b : Block) (us : List Nat) : Prop := ∀ u ∈ us, u < 4 * b.accu
  let none' : Group → Nat → W64 := fun _ _ => 0
  let amaxOk (s : State) (gr : Group) (f : FmtX) (pc a : W64) : Prop := f.c = noneSpec ∨ ∃ w, (s.amaxAddr gr pc a).2 = .ok w
  let amaxSrc (f : FmtX) (gr : Group) (l : Nat) : W64 := if f.c = noneSpec then 0 else gr.src64 l f.c
  (∀ f, queued (.orel f) none' (fun s _ gr _ _ _ => owned s gr [f.slota.toNat])) ∧
  (∀ f, queued (.old f) (fun gr l => gr.src64 l f.c) (fun s _ gr b sh src => owned s gr [f.slota.toNat] ∧
    src.toNat % 128 = 0 ∧ src.extractLsb' 32 7 = 0 ∧ src.extractLsb' 56 8 = 0 ∧
    (∀ r ≤ f.row, oldRow src r < 2 ^ 26 ∧ oldRow src r % 2 ^ 24 + 128 ≤ b.scratch) ∧
    (∀ k ∈ oldLines f src, (sh.line k).w = true ∧ (sh.line k).pend = 0))) ∧
  (∀ f, f.gsz = 0 → queued (.mma f) none' (fun s _ gr b sh _ => gangMask gr.gang = 0 ∧ owned s gr [f.slota.toNat, f.slotb.toNat] ∧
    range b [f.acc.toNat] ∧ ((sh.unit f.acc.toNat).tag = .Z ∨ (sh.unit f.acc.toNat).tag = if f.ety.isFloat then .F else .I))) ∧
  (∀ f, f.gsz ≠ 0 → queued (.mma f) none' (fun s _ gr b _ _ => gangMask gr.gang = 0 ∧ owned s gr [f.slota.toNat, f.slotb.toNat, f.qslot] ∧
    range b (unitsFrom f.acc.toNat (planes f.ety f.gsz)))) ∧
  (∀ f, queued (.mzero f) none' (fun _ _ gr b _ _ => gangMask gr.gang = 0 ∧
    range b (if f.xflg.getLsbD 0 then [f.acc.toNat, f.acc.toNat + 1] else [f.acc.toNat]))) ∧
  (∀ f, queued (.scacc f) none' (fun s _ gr b sh _ => gangMask gr.gang = 0 ∧ owned s gr [f.qslot] ∧
    range b (unitsFrom f.pbase (planes f.ety f.gsz) ++ [f.acc.toNat, f.acc.toNat + 1]) ∧ (sh.unit f.acc.toNat).tag = .S ∧
    (∀ u ∈ unitsFrom f.pbase (planes f.ety f.gsz), (sh.unit u).tag = .P ∧ u ≠ f.acc.toNat ∧ u ≠ f.acc.toNat + 1))) ∧
  (∀ f, queued (.mdrain f) (amaxSrc f) (fun s iss gr b sh src => (f.reg = false → gangMask gr.gang = 0) ∧ range b [f.acc.toNat] ∧
    (sh.unit f.acc.toNat).tag ∈ (if f.oty == .i32 then [.Z, .I] else [.Z, .I, .F, .S] : List Tag) ∧ amaxOk s gr f iss.pc src ∧
    (f.reg = false → 128 * f.lineNo + 128 * drainRow f.oty ≤ b.scratch ∧ ∀ k ∈ drainLines f, (sh.line k).pend < 15))) ∧
  (∀ f, queued (.mrd f) none' (fun _ _ _ b sh _ => range b [f.acc.toNat] ∧ (sh.unit f.acc.toNat).tag ∈ ([.Z, .I, .F, .P] : List Tag)))) ∧
  (let slot (i : Instr) (k : Nat) : Prop := parksAll i true (fun s _ gr _ => gangMask gr.gang = 0 ∧ (∃ k sh b, s.shareAt gr.blk gr.core = some (k, sh) ∧
    s.block gr.blk = some b) ∧ s.owns gr.core k gr.blk = false) (fun iss _ _ => preciseFault 0x31 (BitVec.ofNat 32 k) iss.pc)
  let acc (i : Instr) (u : Nat) (r : Nat) (bad : Block → Share → Prop) : Prop := parksAll i true (fun s _ gr _ => gangMask gr.gang = 0 ∧
    ∃ k sh b, s.shareAt gr.blk gr.core = some (k, sh) ∧ s.block gr.blk = some b ∧ bad b sh)
    (fun iss _ _ => preciseFault 0x32 (BitVec.ofNat 32 (u % 256 + 256 * r)) iss.pc)
  ∀ f, slot (.orel f) f.slota.toNat ∧ slot (.old f) f.slota.toNat ∧ slot (.mma f) f.slota.toNat ∧
    acc (.mrd f) f.acc.toNat 0 (fun b _ => 4 * b.accu ≤ f.acc.toNat) ∧ acc (.mzero f) f.acc.toNat 0 (fun b _ => 4 * b.accu ≤ f.acc.toNat) ∧
    acc (.mdrain f) f.acc.toNat 0 (fun b _ => 4 * b.accu ≤ f.acc.toNat) ∧
    acc (.mrd f) f.acc.toNat 1 (fun b sh => f.acc.toNat < 4 * b.accu ∧ ((sh.unit f.acc.toNat).tag = .S ∨ (sh.unit f.acc.toNat).tag = .Shi)) ∧
    acc (.mdrain f) f.acc.toNat 1 (fun b sh => f.acc.toNat < 4 * b.accu ∧ (sh.unit f.acc.toNat).tag = .P))

/-! ### Chapter 13 -/

/-- R362, R364, R368, R373, R374: bini arms a free slot with the counts of its word, a phase complete from the start ending at once, and a slot
of another block parks the path with BARBUSY; binv frees the block's slot and is nothing elsewhere; bqry writes the slot's word.
Model's choices: log 45. -/
def Obligations.BarrierSlots : Prop :=
  (∀ f s iss gr ps, issuing (.bini f) true s = some (iss, gr, ps) → Store.find s.bars (s.barKey gr f.imm.toNat) = none →
    let c := gr.src32 (ps.headD 0) f.a
    ∃ t b, exec (.bini f) s = .next t ∧ Store.find t.bars (s.barKey gr f.imm.toNat) = some b ∧ b.blk = gr.blk ∧
      b.first = c.toNat % 4096 ∧ b.ng = c.toNat / 4096 % 4096 + 1 ∧ b.eng = c.toNat / 2 ^ 24 ∧ b.arrived = 0 ∧ b.engarr = 0 ∧ b.pend = [] ∧
      b.phase = (if b.live = 0 ∧ b.eng = 0 then 1 else 0) ∧ t.mem = s.mem ∧ t.reqs = s.reqs ∧ t.tiles = s.tiles) ∧
  (∀ f b, parksAll (.bini f) true
    (fun s _ gr _ => Store.find s.bars (s.barKey gr f.imm.toNat) = some b ∧ ¬ (b.blk = gr.blk ∧ b.arrived = 0 ∧ b.pend = []))
    (fun iss _ _ => preciseFault 0x40 (f.imm.zeroExtend 32) iss.pc)) ∧
  (∀ f, inGroup (.binv f) true (fun s _ gr _ => s.heldBar gr f = none) (fun _ iss gr ps gr' =>
    gr.goesOn gr' (gr.popQueues (queuesOf (.binv f))) iss ps)) ∧
  (∀ f s iss gr ps b, issuing (.binv f) true s = some (iss, gr, ps) → s.heldBar gr f = some b →
    f.sub ≠ 0 ∨ (b.arrived = 0 ∧ b.pend = []) →
    ∃ t, exec (.binv f) s = .next t ∧ Store.find t.bars (s.barKey gr f.imm.toNat) = none ∧ t.mem = s.mem ∧ t.reqs = s.reqs ∧
      (t.core gr.core).orphans = (s.core gr.core).orphans ++ b.pend) ∧
  (∀ f b, f.sub = 0 → parksAll (.binv f) true (fun s _ gr _ => s.heldBar gr f = some b ∧ ¬ (b.arrived = 0 ∧ b.pend = []))
    (fun iss _ _ => preciseFault 0x40 (f.imm.zeroExtend 32) iss.pc)) ∧
  (∀ f, inGroup (.bqry f) true (fun _ _ _ _ => True) (fun s iss gr ps gr' =>
    gr.result gr' (.bqry f) iss 1 ps (fun _ => (s.bqryWord gr f).zeroExtend 128)))

/-- R364, R369–R372: barr counts the path in and waits until the phase completes, which frees it with the phase's number; bwait waits until the
phase named has completed; a slot that the block does not hold answers NOTHELD at once.
R362, R371, R373: barw counts a satisfied witness into its slot's 8-bit ENGARR at once and keeps any other until it is; a rejected witness parks the path, and
on a slot that the block does not hold the arrival is an orphan of the core.
Model's choices: log 44. -/
def Obligations.BarrierWaits : Prop :=
  (let key (s : State) (gr : Group) (f : FmtS) : Nat := s.barKey gr f.imm.toNat
  (∀ f, inGroup (.barr f) true (fun s _ gr _ => s.heldBar gr f = none) (fun _ iss gr ps gr' =>
    gr.result gr' (.barr f) iss 1 ps (fun _ => 0x20000))) ∧
  (∀ f s iss gr ps b, issuing (.barr f) true s = some (iss, gr, ps) → s.heldBar gr f = some b →
    (b.arrived + ps.length < b.live ∨ b.engarr < b.eng) →
    ∃ t gr', exec (.barr f) s = .next t ∧ t.group iss.g = some gr' ∧
      Store.find t.bars (key s gr f) = some { b with arrived := b.arrived + ps.length } ∧
      (∀ l ∈ ps, (gr'.lane l).bar = some { slot := f.imm.toNat, token := none, dst := f.h.dst } ∧ (gr'.lane l).pc = (gr.lane l).pc ∧
        ∀ r, (gr'.lane l).rd r = (gr.lane l).rd r) ∧ t.mem = s.mem ∧ t.reqs = s.reqs) ∧
  (∀ f s iss gr ps b, issuing (.barr f) true s = some (iss, gr, ps) → s.heldBar gr f = some b →
    b.live ≤ b.arrived + ps.length → b.eng ≤ b.engarr →
    ∃ t gr', exec (.barr f) s = .next t ∧ t.group iss.g = some gr' ∧
      Store.find t.bars (key s gr f) = some { b with phase := b.phase + 1, arrived := 0, engarr := b.engarr - b.eng } ∧
      (∀ l ∈ ps, (gr'.lane l).bar = none ∧ (gr'.lane l).pc = nextPc (gr.lane l).pc ∧
        ∀ n, Operand.ofSpec f.h.dst = .vreg n → (gr'.lane l).rd n = b.phase.zeroExtend 32) ∧
      (∀ n, Operand.ofSpec f.h.dst = .sreg n → (∀ l < gr.lanes.length, (gr.lane l).bar = none ∧ (gr.lane l).barLate = []) → gr'.rd n = b.phase.zeroExtend 32)) ∧
  (∀ f, inGroup (.bwait f) true (fun s _ gr _ => s.heldBar gr f = none) (fun _ iss gr ps gr' =>
    gr.result gr' (.bwait f) iss 1 ps (fun _ => 0x20000))) ∧
  (∀ f, inGroup (.bwait f) true
    (fun s _ gr ps => ∃ b, s.heldBar gr f = some b ∧ phaseDone b.phase ((gr.src32 (ps.headD 0) f.a).extractLsb' 0 16) = true)
    (fun _ iss gr ps gr' => gr.result gr' (.bwait f) iss 1 ps (fun _ => ((gr.src32 (ps.headD 0) f.a).extractLsb' 0 16).zeroExtend 128))) ∧
  (∀ f, inGroup (.bwait f) true
    (fun s _ gr ps => ∃ b, s.heldBar gr f = some b ∧ phaseDone b.phase ((gr.src32 (ps.headD 0) f.a).extractLsb' 0 16) = false)
    (fun _ _ gr ps gr' => ∀ l ∈ ps, gr'.lane l = { gr.lane l with
      bar := some { slot := f.imm.toNat, token := some ((gr.src32 (ps.headD 0) f.a).extractLsb' 0 16), dst := f.h.dst },
      issued := (gr.lane l).issued + 1, exempt := false, wait := .none }))) ∧
  (let w (f : FmtS) (gr : Group) (ps : List Nat) : W64 := gr.src64 (ps.headD 0) f.a
  let key (s : State) (gr : Group) (f : FmtS) : Nat := s.barKey gr f.imm.toNat
  (∀ f s iss gr ps b, issuing (.barw f) true s = some (iss, gr, ps) → s.heldBar gr f = some b → s.sat gr true (w f gr ps) = .yes →
    (b.arrived < b.live ∨ (b.engarr + 1) % 256 < b.eng) →
    ∃ t, exec (.barw f) s = .next t ∧ Store.find t.bars (key s gr f) = some { b with engarr := (b.engarr + 1) % 256 } ∧ t.mem = s.mem) ∧
  (∀ f s iss gr ps b, issuing (.barw f) true s = some (iss, gr, ps) → s.heldBar gr f = some b → s.sat gr true (w f gr ps) = .no →
    b.pend.length < 255 →
    ∃ t gr', exec (.barw f) s = .next t ∧ t.group iss.g = some gr' ∧ gr.goesOn gr' (gr.popQueues (queuesOf (.barw f))) iss ps ∧
      Store.find t.bars (key s gr f) = some { b with pend := b.pend ++ [(s.jobVf gr, w f gr ps)] } ∧ t.mem = s.mem) ∧
  (∀ f c, parksAll (.barw f) true (fun s _ gr ps => (s.sat gr true (w f gr ps)).fault? = some c)
    (fun iss _ _ => preciseFault c 0 iss.pc)) ∧
  (∀ f s iss gr ps, issuing (.barw f) true s = some (iss, gr, ps) → s.heldBar gr f = none → s.sat gr true (w f gr ps) = .yes →
    ∃ t, exec (.barw f) s = .next t ∧ (t.core gr.core).orphan = (s.core gr.core).orphan + 1 ∧ t.mem = s.mem ∧ t.bars = s.bars))

/-! ### Accesses performed -/

/-- R203, R207, R217, R219: a load whose turn has come is answered with the bytes of its home, or of L1, extended to its destination; its other
registers and the memory are unchanged. The loads of its instruction in the same sector share the read and are answered with it, and a unit's
request for a line that the package holds has nothing left to ask.
Model's choices: log 26, 102. -/
def Obligations.LoadReplies : Prop :=
  (∀ k q gr b bs, takes (.loadReply k false)
    (fun s => Store.find s.reqs k = some q ∧ q.kind = .load ∧ q.ofUnit = false ∧ s.inTurn k q ∧ s.reqUninit q = false ∧
      s.readPoison q = false ∧ s.racing q.slice q.rchk = false ∧ s.homeBytes q = some bs ∧ s.awaits k q gr b ∧ s.sameRead k q = [(k, q)])
    (fun s t => s.delivered t k q gr b (loadValue q.width (leNat bs)) ∧ t.mem = s.mem)) ∧
  (∀ k q, takes (.loadReply k false)
    (fun s => Store.find s.reqs k = some q ∧ q.kind = .load ∧ q.ofUnit = false ∧ s.inTurn k q ∧ s.reqUninit q = false ∧ (s.homeBytes q).isSome ∧
      ∀ e ∈ s.sameRead k q, s.racing e.2.slice e.2.rchk = false)
    (fun s t => (∀ e ∈ s.sameRead k q, Store.find t.reqs e.1 = none) ∧ t.mem = s.mem)) ∧
  (∀ k q gr b l, takes (.loadReply k true)
    (fun s => Store.find s.reqs k = some q ∧ q.kind = .load ∧ q.ofUnit = false ∧ q.fab = .unsent ∧ s.reqBlocked k q = false ∧
      q.sp = none ∧ q.hint = 0 ∧ gr.priv = false ∧ s.racing q.slice q.rchk = false ∧ s.awaits k q gr b ∧ s.sameRead k q = [(k, q)] ∧
      s.l1Find gr.core q.vf q.coh (q.pa / 128) = some l ∧ l.valid.getLsbD (q.pa / 32 % 4) = true ∧ (∀ w ∈ q.wits, l.covers w = true))
    (fun s t => s.delivered t k q gr b (loadValue q.width (leNat ((l.data.drop (q.pa % 128)).take q.bytes))) ∧ t.mem = s.mem)) ∧
  (∀ k q ln, takes (.loadReply k false)
    (fun s => Store.find s.reqs k = some q ∧ q.kind = .load ∧ q.ofUnit = true ∧ q.fab = .unsent ∧ s.fabLine q.slice q.vf q.pa = some ln)
    (fun s t => Store.find t.reqs k = none ∧ t.mem = s.mem ∧ t.blocks = s.blocks))

/-- R13, R221, R235, R236, R323, R325: a store whose turn has come commits its bytes at its home with the next stamp there, above every stamp its
home has heard and the one presented, and its witness names home, stamp, scope and generation; no other byte of the memory or of the
share changes.
Model's choices: log 102. -/
def Obligations.StoreCommits : Prop :=
  (∀ k q gr b, takes (.homeCommit k)
    (fun s => Store.find s.reqs k = some q ∧ q.kind = .store ∧ q.coh = false ∧ q.sp = none ∧ s.inTurn k q ∧
      s.partPoison q.pa q.bytes = false ∧ s.racing q.slice q.rchk = false ∧ s.awaits k q gr b ∧ s.offTable q.pa q.bytes ∧
      (q.vf = fwVf → s.sees none q.pa q.bytes = true))
    (fun s t => s.storedAt t q.pa (s.puts q (leBytes q.bytes q.data.toNat)) ∧
      let home := s.homeOf q.pa
      let n := max (s.counter q.slice home) (max (s.highest (256 + home) q.slice) (s.presentedStamp q.slice q.wit)) + 1
      Store.get 0 t.ctr (q.slice * 1024 + home) = n ∧
      s.delivered t k q gr b ((mkWit 1 q.scope (s.genOf q.slice) q.home n).zeroExtend 128))) ∧
  (∀ k q gr b blk i sh, takes (.homeCommit k)
    (fun s => Store.find s.reqs k = some q ∧ q.kind = .store ∧ q.coh = false ∧ q.sp = some (blk, i) ∧ s.share blk i = some sh ∧ 0 < q.bytes ∧
      s.inTurn k q ∧ s.awaits k q gr b)
    (fun s t => t.mem = s.mem ∧
      let n := max (s.counter q.slice (spHome sh.core)) (max (s.highest (256 + spHome sh.core) q.slice) (s.presentedStamp q.slice q.wit)) + 1
      (∃ sh', t.share blk i = some sh' ∧ sh'.core = sh.core ∧
        (∀ j < q.bytes, Store.get 0 sh'.mem (q.pa + j) = (leBytes q.bytes q.data.toNat).getD j 0) ∧
        (∀ x, x < q.pa ∨ q.pa + q.bytes ≤ x → Store.get 0 sh'.mem x = Store.get 0 sh.mem x) ∧ (sh'.line (q.pa / 128)).w = true) ∧
      s.delivered t k q gr b ((mkWit 1 q.scope (s.genOf q.slice) (spHome sh.core) n).zeroExtend 128)))

/-- R13, R224–R226, R245: an atomic whose turn has come is one read and one write at its home with one stamp; it answers the old value and the
witness, a reduction the witness alone.
Model's choices: log 102. -/
def Obligations.AtomicsPerformed : Prop :=
  (∀ k q gr b op red, takes (.atomicPerform k)
    (fun s => Store.find s.reqs k = some q ∧ q.kind = .atom op red ∧ q.coh = false ∧ q.sp = none ∧ s.inTurn k q ∧
      s.poisoned q.pa q.bytes = false ∧ s.racing q.slice q.rchk = false ∧
      s.awaits k q gr b ∧ s.offTable q.pa q.bytes ∧ (q.vf = fwVf → s.sees none q.pa q.bytes = true))
    (fun s t =>
      let old := s.nat q.pa q.bytes
      let home := s.homeOf q.pa
      let n := max (s.counter q.slice home) (max (s.highest (256 + home) q.slice) (s.presentedStamp q.slice q.wit)) + 1
      let w := mkWit 1 q.scope (s.genOf q.slice) q.home n
      s.storedAt t q.pa (s.puts q (leBytes q.bytes (atomNew op q.width q.bytes old q.data.toNat))) ∧
      Store.get 0 t.ctr (q.slice * 1024 + home) = n ∧
      s.delivered t k q gr b (if red then w.zeroExtend 128 else (w.zeroExtend 128 <<< 64) ||| BitVec.ofNat 128 old))) ∧
  (∀ width w old x, width ≠ 9 → (width ≠ 7 ∧ width ≠ 8) → old < 2 ^ (8 * w) →
    atomNew .add width w old x = (old + x) % 2 ^ (8 * w) ∧ atomNew .min width w old x = min old (x % 2 ^ (8 * w)) ∧
    atomNew .max width w old x = max old (x % 2 ^ (8 * w)) ∧ atomNew .exch width w old x = x % 2 ^ (8 * w) ∧
    atomNew .cas width w old x = if old = x % 2 ^ (8 * w) then x / 2 ^ (8 * w) % 2 ^ (8 * w) else old)

/-! ### Scheduling -/

/-- R175, R177, R298–R301, R304, R305: a cycle of a running core picks at most 8 instructions and counts itself (cores that a co-operative block makes go together take one
cycle each, the model's choice: log 117); a spent quantum passes to the
ready path whose turn lies longest back, with a fresh one; the issue of another path finds empty latches; of the groups that stand between no
pair's instructions, the one that has waited longest, 16 cycles at least, leaves for the pending set while a pending group is ready; a free
place is filled.
Model's choices: log 46, 117. -/
def Obligations.Scheduling : Prop :=
  (∀ c, takes (.issueCycle c) (fun s => s.running c = true)
    (fun s t => (t.core c).cycle = (s.core c).cycle + 1 ∧ t.mem = s.mem ∧ t.reqs = s.reqs ∧ t.blocks = s.blocks ∧
      ∃ picks : List Issue, t.issueQ = s.issueQ ++ picks ∧ picks.length ≤ 8 * (s.inStep c).length)) ∧
  (∀ g gr p, takes (.pathQuantumExpired g)
    (fun s => s.group g = some gr ∧ gr.quantum = 0 ∧ gr.turn ≠ 0 ∧ gr.between = 0 ∧ gr.choose (s.readyPaths g gr) = some p)
    (fun s t => p ∈ s.readyPaths g gr ∧ (∀ q ∈ s.readyPaths g gr, gr.servedAt p.2 ≤ gr.servedAt q.2) ∧
      ∃ gr', t = s.putGroup g gr' ∧ gr'.turn = p.2 ∧ gr'.quantum = gr.pathq.toNat ∧ gr'.turnNo = gr.turnNo + 1 ∧
        { gr' with turn := gr.turn, quantum := gr.quantum, turnNo := gr.turnNo, lanes := gr.lanes } = gr ∧
        ∀ l, gr'.lane l = if l < gr.lanes.length ∧ p.2.getLsbD l = true then { gr.lane l with served := gr.turnNo + 1 } else gr.lane l)) ∧
  (∀ (gr : Group) (iss : Issue) m, iss.second = false → (gr.toIssue iss m).path = m ∧
    (gr.toIssue iss m).latch = (if gr.path = m then gr.latch else []) ∧ (gr.toIssue iss m).s = gr.s) ∧
  (∀ g gr, takes (.groupSwapOut g)
    (fun s => s.group g = some gr ∧ gr.st = .active ∧ 16 ≤ gr.waited ∧ gr.between = 0 ∧
      (∃ e ∈ s.groups, s.pendingReady gr.core e.1 e.2 = true) ∧
      (∀ h ∈ (s.core gr.core).active, ∀ x, s.group h = some x →
        x.between ≠ 0 ∨ x.waited < gr.waited ∨ (x.waited = gr.waited ∧ gr.age ≤ x.age)) ∧
      (s.core gr.core).lastSwap ≠ some (s.core gr.core).cycle.toNat ∧ (∀ x ∈ s.issueQ, x.g ≠ g))
    (fun s t => ∃ gr', t.group g = some gr' ∧ gr'.st = .pending ∧ gr'.latch = [] ∧ gr'.lanes = gr.lanes ∧ gr'.s = gr.s ∧
      g ∉ (t.core gr.core).active ∧ (∀ h, h ≠ g → h ∈ (s.core gr.core).active → h ∈ (t.core gr.core).active) ∧ t.mem = s.mem)) ∧
  (∀ c g gr, takes (.activePlaceFill c)
    (fun s => s.fillChoice c = some g ∧ s.group g = some gr ∧ gr.core = c ∧ (s.core c).halted = false ∧ (s.core c).online = true ∧
      (s.core c).active.length + ((s.core c).vacated.filter (fun n => decide ((s.core c).cycle.toNat < n))).length < 8)
    (fun s t => ∃ gr', t.group g = some gr' ∧ gr'.st = .active ∧ gr'.lanes = gr.lanes ∧ (t.core c).active = (s.core c).active ++ [g] ∧
      t.mem = s.mem))

/-- R48, R51, R262, R292: parked threads enter their handler together at TRAPVEC, when every other thread is out of the way, with registers and
stacks as they were; a fetched line is held; a register line that arrives is no longer absent.
Model's choices: log 15, 22. -/
def Obligations.HandlerEntryAndFetch : Prop :=
  (∀ g gr d, takes (.trapHandlerEntry g)
    (fun s => s.group g = some gr ∧ (gr.st = .active ∨ gr.st = .pending) ∧ s.blockEnding gr.blk = false ∧ gr.mayEnter = true ∧
      s.reaches gr gr.trapvec d)
    (fun s t => ∃ gr', t = s.putGroup g gr' ∧ gr'.latch = [] ∧ gr'.s = gr.s ∧
      ∀ l, gr'.lane l = if l ∈ gr.enterers then
        { gr.lane l with run := .running, inHandler := true, pc := gr.trapvec, wait := .none, exempt := false, served := gr.turnNo } else gr.lane l)) ∧
  (∀ g gr l d, takes (.fetchLine g l)
    (fun s => s.group g = some gr ∧ l < 32 ∧ (gr.lane l).run = .running ∧ (gr.lane l).bar = none ∧ (gr.lane l).wait = .none ∧
      s.fetch gr (gr.lane l).pc = (s, .line d))
    (fun s t => t = s.putGroup g (gr.hold (gr.lane l).pc d))) ∧
  (∀ g gr l c x e, takes (.fetchLine g l)
    (fun s => s.group g = some gr ∧ l < 32 ∧ (gr.lane l).run = .running ∧ (gr.lane l).bar = none ∧ (gr.lane l).wait = .none ∧
      s.fetch gr (gr.lane l).pc = (s, .bad c x e))
    (fun s t => t = s.putGroup g (gr.park [l] (fetchFault c x e (gr.lane l).pc)))) ∧
  (∀ g gr n, takes (.registerLineFetch g n)
    (fun s => s.group g = some gr ∧ n ∈ gr.absent ∧ (gr.st = .active ∨ gr.st = .pending))
    (fun s t => ∃ gr', t = s.putGroup g gr' ∧ gr'.absent = gr.absent.filter (· != n) ∧ gr'.s = gr.s ∧
      (∀ l, (gr'.lane l).v = (gr.lane l).v ∧ (gr'.lane l).wait = if (gr.lane l).wait = .line then .none else (gr.lane l).wait)))

/-! ### Homes and the stamp ring -/

/-- R202, R204, R214, R378: threads go on once every witness that their path's next instruction presents is satisfied; L1 takes the line of a load
in flight with the counter and frontier heard, but for poisoned sectors and sectors that its core is about to write; a bank with fewer than
16 home watches accepts one. -/
def Obligations.WitnessesAndWatches : Prop :=
  (∀ g gr i, takes (.witnessSatisfied g)
    (fun s => s.group g = some gr ∧ (gr.lane i).wait = .witness ∧ ∃ p ∈ gr.paths, i ∈ maskLanes p.2 ∧ s.pathWait g gr p ≠ some .witness)
    (fun s t => ∃ gr', t = s.putGroup g gr' ∧ (i < gr.lanes.length → (gr'.lane i).wait = .none) ∧ gr'.s = gr.s ∧
      (∀ l, (gr'.lane l).v = (gr.lane l).v ∧ (gr'.lane l).pc = (gr.lane l).pc ∧ (gr'.lane l).run = (gr.lane l).run))) ∧
  (∀ c vf line k q gr, takes (.l1Fill c vf line)
    (fun s => s.reqs = [(k, q)] ∧ q.kind = .load ∧ q.sp = none ∧ q.hint = 0 ∧ q.vf = vf ∧ q.pa / 128 = line ∧ q.coh = false ∧
      s.racing q.slice q.rchk = false ∧ q.ofUnit = false ∧ s.group q.g = some gr ∧ gr.core = c ∧ gr.priv = false ∧
      (∀ j < 4, s.hbmWaits vf (line * 128 + 32 * j) = false) ∧ s.barred q = false ∧
      s.hbmGoes ((List.range 4).filterMap (fun j => s.toHbm vf (line * 128 + 32 * j))).head? vf)
    (fun s t => t.mem = s.mem ∧ t.reqs = s.reqs ∧ s.groupsKept t ∧ ∃ l, t.l1Find c vf false line = some l ∧
      l.data = s.bytes (line * 128) 128 ∧ l.home = q.home ∧ l.ctr = s.heardAt c q.slice q.home ∧ l.fr = s.frontier q.slice c 5 ∧
      (∀ j < 4, l.valid.getLsbD j = !s.poisoned (line * 128 + 32 * j) 32))) ∧
  (∀ g gr n line, takes (.homeWatchAccept g n)
    (fun s => s.group g = some gr ∧ n < 4 ∧ Store.find gr.hwatch (4 + n) = some line ∧ s.bankWatches (s.homeOf (line * 128)) < 16)
    (fun s t => t = s.putGroup g { gr with hwatch := Store.put (Store.del gr.hwatch (4 + n)) n line,
                                           watch := gr.watch.set n (gr.watch.getD n 0 ||| 0x0800000000000000) }))

/-- R237, R412–R414: a home publishes its counter, raised to the highest it has heard; a receiver keeps the largest value heard of a home, and
drops and logs a message with an uncorrectable error.
R239, R412, R415, R530: a counter beyond its threshold starts a renewal; each home drains once; when all have, the slice controller sends the
new generation. A core that hears it counts in the new generation, its L1 lines of the slice go and its groups' OBS are null; when the last
has, the slice's generation advances and its counters start again at 0. A home has drained once no write of the slice is on its way to it.
Model's choices: log 48, 49. -/
def Obligations.StampRing : Prop :=
  ((∀ sl home, takes (.counterPublish sl home)
    (fun s => sl ≤ 16 ∧ isHome home = true ∧ s.toPublish sl home ≠ Store.get 0 s.pub (sl * 1024 + home))
    (fun s t => Store.get 0 t.pub (sl * 1024 + home) = s.toPublish sl home ∧ Store.get 0 t.ctr (sl * 1024 + home) = s.toPublish sl home ∧
      (∃ m ∈ t.ring, m.sl = sl ∧ m.home = home ∧ m.kind = 0 ∧ m.value = s.toPublish sl home) ∧ t.mem = s.mem ∧ t.groups = s.groups)) ∧
  (∀ sl home, takes (.counterRepublish sl home) (fun _ => sl ≤ 16 ∧ isHome home = true)
    (fun s t => (∃ m ∈ t.ring, m.sl = sl ∧ m.home = home ∧ m.kind = 0 ∧ m.value = s.toPublish sl home) ∧ t.mem = s.mem ∧ t.groups = s.groups)) ∧
  (let hears (s : State) (rcv : Nat) (w : W64) (m : RingMsg) : Prop :=
    (rcv < 196 ∨ (256 ≤ rcv ∧ isHome (rcv - 256) = true)) ∧ s.ring.find? (fun x => x.word == w) = some m
  (∀ rcv w m, takes (.ringMessageReceive rcv w false) (fun s => hears s rcv w m ∧ m.kind ≠ 3)
    (fun s t => let k := rcv * 32768 + m.sl * 1024 + m.home
      t = { s with heard := Store.set 0 s.heard k (max (Store.get 0 s.heard k) m.value) })) ∧
  (∀ rcv w m, takes (.ringMessageReceive rcv w false) (fun s => hears s rcv w m ∧ m.kind = 3 ∧ 196 ≤ rcv) (fun s t => t = s)) ∧
  (∀ rcv w m, takes (.ringMessageReceive rcv w false)
    (fun s => hears s rcv w m ∧ m.kind = 3 ∧ rcv < 196 ∧ rcv * 32 + m.sl ∉ s.genHeard ∧ (∃ c < 196, c ≠ rcv ∧ c * 32 + m.sl ∉ s.genHeard))
    (fun s t => t.genAt rcv m.sl = s.genOf m.sl + 1 ∧ t.genOf m.sl = s.genOf m.sl ∧ (∀ l ∈ t.l1, ¬ (l.core = rcv ∧ l.slice = m.sl)) ∧
      (∀ home < 1024, t.heardAt rcv m.sl home = 0) ∧ t.ctr = s.ctr ∧ t.mem = s.mem ∧
      ∀ g gr, s.group g = some gr → t.group g = some (if s.sliceOf gr = m.sl ∧ gr.core = rcv then { gr with obs := nullObs (s.genOf m.sl + 1) } else gr))) ∧
  (∀ rcv w m, takes (.ringMessageReceive rcv w false)
    (fun s => hears s rcv w m ∧ m.kind = 3 ∧ m.sl ≤ 16 ∧ rcv < 196 ∧ rcv * 32 + m.sl ∉ s.genHeard ∧ (∀ c < 196, c ≠ rcv → c * 32 + m.sl ∈ s.genHeard))
    (fun s t => t.genOf m.sl = s.genOf m.sl + 1 ∧ t.stalled m.sl = false ∧ (∀ home < 1024, Store.get 0 t.ctr (m.sl * 1024 + home) = 0) ∧
      (∀ l ∈ t.l1, l.slice ≠ m.sl) ∧ (∀ f ∈ t.fab.failing, m.sl ∉ f.slices) ∧
      (∀ f ∈ s.fab.failing, f.slices = [m.sl] → f.dir < 256 → t.fab.failed.getLsbD f.dir = true) ∧ (m.sl = 16 → t.mem = s.mem))) ∧
  (∀ rcv w m, takes (.ringMessageReceive rcv w true) (fun s => hears s rcv w m)
    (fun s t => t.heard = s.heard ∧ t.genHeard = s.genHeard ∧ t.mem = s.mem ∧ s.groupsKept t ∧
      s.logs t (rcvDie rcv) 0x30 (if rcv < 196 then rcv % 49 else if rcv < 256 + 0xC0 then (rcv - 256) % 48 else (rcv - 256 - 0xC0) % 49) 0x1FF)))) ∧
  ((∀ sl home, takes (.renewalRequest sl home) (fun s => sl ≤ 16 ∧ s.stalled sl = false ∧ 2 ^ 45 - 2 ^ 40 < s.counter sl home)
    (fun s t => t.stalled sl = true ∧ t.drainedOf sl = [] ∧ t.genOf sl = s.genOf sl ∧ t.mem = s.mem ∧ t.groups = s.groups ∧
      ∃ m ∈ t.ring, m.sl = sl ∧ m.home = home ∧ m.kind = 1 ∧ m.value = s.counter sl home)) ∧
  (∀ sl home, takes (.renewalDrained sl home)
    (fun s => sl ≤ 16 ∧ s.stalled sl = true ∧ home ∈ s.renewHomes sl ∧ home ∉ s.drainedOf sl ∧ s.drainedAt sl home = true)
    (fun s t => t.drainedOf sl = home :: s.drainedOf sl ∧ t.stalled sl = true ∧ t.mem = s.mem ∧
      ∃ m ∈ t.ring, m.sl = sl ∧ m.home = home ∧ m.kind = 2 ∧ m.value = s.counter sl home)) ∧
  (∀ sl, takes (.generationMessage sl)
    (fun s => sl ≤ 16 ∧ s.stalled sl = true ∧ s.genSent sl = false ∧ ∀ h ∈ s.renewHomes sl, h ∈ s.drainedOf sl)
    (fun s t => t = { s with ring := t.ring } ∧ t.genSent sl = true ∧
      ∃ m ∈ t.ring, m.sl = sl ∧ m.home = 0x3FF ∧ m.kind = 3 ∧ m.value = (s.genOf sl + 1).toNat)) ∧
  (∀ c n, takes (.scrubRead c n) (fun s => c < 196 ∧ (s.core c).scrubpos = n ∧ s.powered = true)
    (fun s t => t.free = s.free + 1 ∧ t.groups = s.groups ∧ t.mem = s.mem ∧
      (t.core c).scrubpos = (if scrubLines ≤ n + 1 then 0 else n + 1) ∧
      (t.core c).scrubpass = (if scrubLines ≤ n + 1 then (s.core c).scrubpass + 1 else (s.core c).scrubpass))))

/-! ### Units -/

/-- R346, R347, R353–R360: an operation that no earlier one conflicts with starts on a free unit; performed, it leaves the queue: orel frees its
slot, old copies its rows, mma adds the integer products, mzero zeroes its units, and mrd delivers a row.
Model's choices: log 42. -/
def Obligations.MatrixOperations : Prop :=
  let held (o : MOp) (core n : Nat) (s : State) : Prop := Store.find (s.core core).mq n = some o ∧ o.started = true ∧
    s.unitBusy (matG core n) = false ∧ s.amaxNeeds core o = none ∧ o.amax = none
  let gone (core n : Nat) (s t : State) : Prop := Store.find (t.core core).mq n = none ∧ t.mem = s.mem ∧ t.reqs = s.reqs ∧
    ∀ m, m ≠ n → Store.find (t.core core).mq m = Store.find (s.core core).mq m
  (∀ core n o, takes (.matrixOpStart core n)
    (fun s => core < 196 ∧ s.coreStopped core = false ∧ Store.find (s.core core).mq n = some o ∧ o.started = false ∧
      (∀ e ∈ (s.core core).mq, e.1 < n → e.2.conflicts o = false ∧ o.flagsFirst e.2 = false) ∧
      (∀ e ∈ (s.core core).mq, e.2.started = true → mopUnit e.2.instr ≠ mopUnit o.instr))
    (fun s t => Store.find (t.core core).mq n = some { o with started := true, array := if mopUnit o.instr = 3 then some 0 else none } ∧
      (∀ m, m ≠ n → Store.find (t.core core).mq m = Store.find (s.core core).mq m) ∧ t.mem = s.mem ∧ t.blocks = s.blocks ∧ t.groups = s.groups)) ∧
  (∀ core n o f k sh, o.instr = .orel f → takes (.matrixOpComplete core n)
    (fun s => held o core n s ∧ s.shareAt o.blk core = some (k, sh))
    (fun s t => gone core n s t ∧ t.blocks = s.blocks ∧ ∀ x, Store.find t.tiles x = if x = tileKey core f.slota.toNat then none else Store.find s.tiles x)) ∧
  (∀ core n o f k sh tl, o.instr = .old f → takes (.matrixOpComplete core n)
    (fun s => held o core n s ∧ s.shareAt o.blk core = some (k, sh) ∧ Store.find s.tiles (tileKey core f.slota.toNat) = some tl ∧
      ∀ x < 128 * (f.row + 1), Store.get false sh.poison (oldRow o.src (x / 128) % 2 ^ 24 + x % 128) = false)
    (fun s t => gone core n s t ∧ t.blocks = s.blocks ∧ ∃ tl', Store.find t.tiles (tileKey core f.slota.toNat) = some tl' ∧ tl'.blk = tl.blk ∧
      ∀ x, Store.get 0 tl'.data x = if x < 128 * (f.row + 1) then Store.get 0 sh.mem (oldRow o.src (x / 128) % 2 ^ 24 + x % 128)
        else Store.get 0 tl.data x)) ∧
  (∀ core n o f k sh, o.instr = .mma f → f.gsz = 0 → f.ety.isFloat = false → takes (.matrixOpComplete core n)
    (fun s => held o core n s ∧ s.shareAt o.blk core = some (k, sh))
    (fun s t => gone core n s t ∧ t.tiles = s.tiles ∧ t.groups = s.groups ∧ ∃ sh', t.shareAt o.blk core = some (k, sh') ∧ sh'.mem = sh.mem ∧
      (∀ u, u ≠ f.acc.toNat → sh'.unit u = sh.unit u) ∧
      ∀ i < 8192, Store.get 0 (sh'.unit f.acc.toNat).e i = Store.get 0 (sh.unit f.acc.toNat).e i + BitVec.ofInt 32 (sumInt
        ((List.range (mmaK f.ety)).map (fun j => tileInt f.ety (s.tileData core f.slota.toNat) (i / 64) j *
          tileInt f.ety (s.tileData core f.slotb.toNat) (i % 64) j))))) ∧
  (∀ core n o f k sh, o.instr = .mzero f → takes (.matrixOpComplete core n)
    (fun s => held o core n s ∧ s.shareAt o.blk core = some (k, sh))
    (fun s t => gone core n s t ∧ t.tiles = s.tiles ∧ t.groups = s.groups ∧ ∃ sh', t.shareAt o.blk core = some (k, sh') ∧ sh'.mem = sh.mem ∧
      ∀ u, if u ∈ o.zero ∨ u = f.acc.toNat ∨ (f.xflg.getLsbD 0 = true ∧ u = f.acc.toNat + 1) then (sh'.unit u).e = [] ∧ (sh'.unit u).sc = {}
        else sh'.unit u = sh.unit u)) ∧
  (∀ core n o f k sh g m gr b, o.instr = .mrd f → (∃ pc n, o.issuers = [{ g := g, lanes := m, pc := pc, issued := n }]) → Operand.ofSpec f.h.dst = .vreg b → takes (.matrixOpComplete core n)
    (fun s => held o core n s ∧ s.shareAt o.blk core = some (k, sh) ∧ s.group g = some gr)
    (fun s t => gone core n s t ∧ t.blocks = s.blocks ∧ ∃ gr', t.group g = some gr' ∧ ∀ i ∈ maskLanes m, i < gr.lanes.length →
      o.key ∈ Store.get [] (gr.lane i).pend b → o.key ∈ Store.get [] (gr.lane i).pend (b + 1) →
        (gr'.lane i).rd b = Store.get 0 (sh.unit f.acc.toNat).e (64 * f.row + i) ∧
        (gr'.lane i).rd (b + 1) = Store.get 0 (sh.unit f.acc.toNat).e (64 * f.row + i + 32)))

/-- R331–R336, R371, R373, R446, R447: a copy writes its next element, a bulk engine the next bytes of a job of the VF whose turn it is, taken from
its credit; a job whose writes have committed frees its slot with its completion witness; one whose page is lost ends, the bytes it has not
written poisoned and its block failed, or logged with its entry failed; a satisfied witness counts into its slot, or as an orphan.
R233: wcanc writes 3 for a witness that is no future and 2 for a job that has completed; for an open job it stops the job, which with no write
on its way leaves its engine and completes its future, and writes 1 if it had started and 0 if not.
Model's choices: log 33, 34, 35, 39. -/
def Obligations.JobsAndArrivals : Prop :=
  (let moves (s : State) (j : Nat) (x : Job) (bs : List (Byte × Bool)) : Prop := Store.find s.jobs j = some x ∧ s.jobReady j x = true ∧
    s.jobSrc j x x.next (x.piece x.next) = .bytes bs ∧
    let s0 := (if x.onBulk then s.engRefill x.eng else s).hbmRefillFor (s.jobHbm j x)
    (x.onBulk = true → s0.engTurn x.eng x.vf = true) ∧ s0.vfTurn (s.jobHbm j x) x.vf = true
  let key (x : Job) : Nat := slotKey (engCode x.eng) x.slot
  let commits (s : State) (x : Job) (tr : Tr) (n : Nat) : Prop := tr.coh = false ∧ s.partPoison tr.pa n = false ∧
    s.racing x.slice tr.rchk = false ∧ s.offTable tr.pa n ∧ (x.physical = true → s.sees x.writeKey tr.pa n = true)
  (∀ j x bs b i off sh, x.kind = .cpy → takes (.copyElementWrite j)
    (fun s => moves s j x bs ∧ s.jobLoc x x.next = some (b, i, off) ∧ s.share b i = some sh ∧ (∀ e ∈ s.reqs, e.2.sp ≠ some (b, i)) ∧
      ∀ va, s.jobChecks x va false = none)
    (fun s t => (∃ x', Store.find t.jobs j = some x' ∧ x'.next = x.next + 1) ∧ t.mem = s.mem ∧ ∃ sh', t.share b i = some sh' ∧
      ∀ a, Store.get 0 sh'.mem a = if off ≤ a ∧ a < off + bs.length then (bs.getD (a - off) (0, false)).1 else Store.get 0 sh.mem a)) ∧
  (∀ j x bs tr, x.kind = .cpyo ∨ x.kind = .cpyg → takes (.copyElementWrite j)
    (fun s => moves s j x bs ∧ s.jobTr x (x.dstVa x.next) true = .ok tr ∧ commits s x tr bs.length ∧ ∀ va, s.jobChecks x va false = none)
    (fun s t => (∃ x', Store.find t.jobs j = some x' ∧ x'.next = x.next + 1) ∧ t.blocks = s.blocks ∧ s.storedAt t tr.pa (s.jobPuts x tr.pa (bs.map Prod.fst)))) ∧
  (∀ j x bs tr entry, x.kind = .bulk entry → takes (.copyElementWrite j)
    (fun s => moves s j x bs ∧ x.eng < 96 ∧ s.jobTr x (x.sAddr x.next) true = .ok tr ∧
      commits s x tr bs.length ∧ (s.slice x.slice).race = 0)
    (fun s t => (∃ x', Store.find t.jobs j = some x' ∧ x'.next = x.next + x.piece x.next) ∧ s.storedAt t tr.pa (s.jobPuts x tr.pa (bs.map Prod.fst)) ∧
      t.engCr x.eng x.vf = (s.engRefill x.eng).engCr x.eng x.vf - (x.piece x.next * x.w : Nat))) ∧
  (∀ j x js, takes (.copyJobComplete j)
    (fun s => Store.find s.jobs j = some x ∧ x.stopped = false ∧ (x.total ≤ x.next ∨ x.ended = true) ∧ s.jobAsks j = false ∧ x.cp = none ∧
      Store.find s.slots (key x) = some js)
    (fun s t => Store.find t.jobs j = none ∧ t.mem = s.mem ∧ t.cps = s.cps ∧ ∃ js', Store.find t.slots (key x) = some js' ∧
      js'.comp = some x.wits ∧ js'.seq = js.seq ∧ js'.vf = js.vf)) ∧
  (∀ j x c q n, takes (.copyJobComplete j)
    (fun s => Store.find s.jobs j = some x ∧ x.stopped = false ∧ (x.total ≤ x.next ∨ x.ended = true) ∧ s.jobAsks j = false ∧
      x.cp = some (c, q, n))
    (fun s t => Store.find t.jobs j = none ∧ t.mem = s.mem ∧ s.entryOver t c q n false)) ∧
  (∀ j x b blk, x.isBulk = false → x.blk = some b → takes (.copyJobStop j)
    (fun s => Store.find s.jobs j = some x ∧ s.jobLost x = true ∧ (x.onBulk = true → x.started = true) ∧ s.hasEdge j x = false ∧
      s.jobAsks j = false ∧ s.block b = some blk)
    (fun s t => Store.find t.jobs j = none ∧ t.mem = s.mem ∧ (∃ blk', t.block b = some blk' ∧ blk'.failed = true) ∧
      (x.kind = .cpy → blk.done = false → (∀ e ∈ s.reqs, ∀ i, e.2.sp ≠ some (b, i)) → ∀ d < x.total - x.next, ∀ i off, s.jobLoc x (x.next + d) = some (b, i, off) → ∀ k < x.w,
        (∀ m < x.next, ∀ o', s.jobLoc x m = some (b, i, o') → ¬ (o' ≤ off + k ∧ off + k < o' + x.w)) →
          ∃ sh, t.share b i = some sh ∧ Store.get false sh.poison (off + k) = true))) ∧
  (∀ j x, x.isBulk = true → takes (.copyJobStop j)
    (fun s => Store.find s.jobs j = some x ∧ s.jobLost x = true ∧ x.started = true ∧ s.hasEdge j x = false ∧ s.jobAsks j = false)
    (fun s t => Store.find t.jobs j = none ∧ t.mem = s.mem ∧ s.logs t (x.eng / 24) 0x40 (x.eng % 24) x.logVf ∧
      ∀ c q n, x.cp = some (c, q, n) → s.entryOver t c q n true)) ∧
  (∀ j x, takes (.engineJobStart j)
    (fun s => Store.find s.jobs j = some x ∧ x.eng < 96 ∧ s.startable j x = true ∧ s.engBusy x.eng < 4 ∧
      (∀ e ∈ s.jobs, e.1 < j → e.2.eng = x.eng → s.startable e.1 e.2 = true → s.jobSat e.2 = .no) ∧
      s.jobSat x = .yes)
    (fun s t => (∃ x', Store.find t.jobs j = some x' ∧ x'.started = true ∧ x'.next = x.next) ∧
      (∀ i, i ≠ j → Store.find t.jobs i = Store.find s.jobs i) ∧ t.mem = s.mem ∧ t.slots = s.slots ∧ t.groups = s.groups)) ∧
  (∀ slot i b vf w, takes (.barrierWitnessArrival slot i)
    (fun s => Store.find s.bars slot = some b ∧ b.pend[i]? = some (vf, w) ∧ s.satBy vf (barCore slot) w = .yes)
    (fun s t => t.mem = s.mem ∧ t.reqs = s.reqs ∧ ∃ b', Store.find t.bars slot = some b' ∧ b'.pend = dropAt b.pend i ∧ b'.live = b.live ∧ b'.eng = b.eng ∧
      let n := (b.engarr + 1) % 256
      if b.live ≤ b.arrived ∧ b.eng ≤ n then b'.phase = b.phase + 1 ∧ b'.arrived = 0 ∧ b'.engarr = n - b.eng
      else b'.phase = b.phase ∧ b'.arrived = b.arrived ∧ b'.engarr = n)) ∧
  (∀ c i vf w, takes (.orphanArrival c i)
    (fun s => (s.core c).orphans[i]? = some (vf, w) ∧ s.satBy vf c w = .yes)
    (fun s t => (t.core c).orphan = (s.core c).orphan + 1 ∧ (t.core c).orphans = dropAt (s.core c).orphans i ∧ t.mem = s.mem ∧ t.groups = s.groups ∧
      t.bars = s.bars))) ∧
  ((∀ f, inGroup (.wcanc f) (isScalSpec f.h.dst)
    (fun s _ gr ps => ∀ l ∈ ps, let w := gr.src64 (leader (.wcanc f) ps l) f.a
      wKind w ≠ 3 ∨ (genAge (s.genAt gr.core (s.sliceOf gr)) w < 8 ∧ ∃ c, s.future (some (s.jobVf gr)) w = .standIn c)) (fun _ iss gr ps gr' =>
    gr.result gr' (.wcanc f) iss 1 ps (fun l => if wKind (gr.src64 (leader (.wcanc f) ps l) f.a) ≠ 3 then 3 else 2))) ∧
  (∀ f s iss gr l b jk j, issuing (.wcanc f) false s = some (iss, gr, [l]) → isScalSpec f.h.dst = false → Operand.ofSpec f.h.dst = .vreg b →
    let w := gr.src64 l f.a
    wKind w = 3 → genAge (s.genAt gr.core (s.sliceOf gr)) w < 8 → s.future (some (s.jobVf gr)) w = .open_ → s.jobOf w = some jk →
    Store.find s.jobs jk = some j → (∀ e ∈ s.reqs, e.2.g = engG jk → e.2.fab = .unsent ∨ e.2.kind.writes = false) →
    ∃ t gr', exec (.wcanc f) s = .next t ∧ t.group iss.g = some gr' ∧ (gr'.lane l).rd b = (if j.started then 1 else 0) ∧
      Store.find t.jobs jk = none ∧ t.mem = s.mem ∧
      (∀ y, Store.find s.slots (slotKey (engCode j.eng) j.slot) = some y →
        ∃ x, Store.find t.slots (slotKey (engCode j.eng) j.slot) = some x ∧ x.comp = some j.wits)))

/-- R196, R250, R264, R303, R320, R385, R395, R396, R399: a block that ends by a fault takes all its threads with it; a group retires with its
witness and mask, the last one with its block; a pre-empted group rests, its image of 0xC00 bytes, its vector registers and its convergence stacks
written where it lies; blocks are placed, turns begin, and blocks no core could hold are held.
Model's choices: log 47. -/
def Obligations.BlocksAndPlacement : Prop :=
  (∀ b x, takes (.blockEnd b)
    (fun s => s.blockEnding b = true ∧ s.block b = some x)
    (fun s t => (∃ x', t.block b = some x' ∧ x'.failed = true ∧ x'.records = x.records ++ s.blockRecords b ∧ x'.shares = x.shares) ∧
      t.mem = s.mem ∧ t.jobs = s.jobs ∧ (∀ e ∈ t.reqs, e ∈ s.reqs) ∧ (∀ e ∈ s.reqs, e.2.kind ≠ .load → e ∈ t.reqs) ∧
      (∀ g gr, s.group g = some gr → ∃ gr', t.group g = some gr' ∧
        if gr.blk = b then gr'.st = .retiring ∧ gr'.s = gr.s ∧ (∀ l, (gr'.lane l).run = .exited ∧ (gr'.lane l).v = (gr.lane l).v) else gr' = gr))) ∧
  (∀ g gr b, takes (.groupRetire g)
    (fun s => s.group g = some gr ∧ s.mayRetire g gr = true ∧ s.block gr.blk = some b ∧ b.launch = none ∧
      ∃ h x, h ≠ g ∧ s.group h = some x ∧ x.blk = gr.blk)
    (fun s t => t.group g = none ∧ (∀ h, h ≠ g → t.group h = s.group h) ∧ g ∉ (t.core gr.core).active ∧ t.mem = s.mem ∧ t.tiles = s.tiles ∧
      ∃ b', t.block gr.blk = some b' ∧ b'.done = b.done ∧ b'.shares = b.shares ∧ Store.find b'.fltmasks gr.groupid = some gr.fltmask)) ∧
  (∀ g gr b l x, takes (.groupRetire g)
    (fun s => s.group g = some gr ∧ s.mayRetire g gr = true ∧ s.block gr.blk = some b ∧ b.launch = some l ∧ Store.find s.launches l = some x ∧
      s.blockOps gr.blk = false ∧ ∀ e ∈ s.groups, e.1 ≠ g → e.2.blk ≠ gr.blk)
    (fun s t => t.group g = none ∧ t.mem = s.mem ∧ (∀ e ∈ t.tiles, e.2.blk ≠ gr.blk) ∧
      (∃ b', t.block gr.blk = some b' ∧ b'.done = true ∧ Store.find b'.fltmasks gr.groupid = some gr.fltmask) ∧
      ∃ x', Store.find t.launches l = some x' ∧ x'.retired = x.retired + 1 ∧ x'.failed = (x.failed || b.failed) ∧
        x'.wit = s.joinPlain x.slice (fwCore (x.cp / 4)) x.wit (s.joinPlain (s.sliceOf gr) gr.core gr.obs gr.writes))) ∧
  (∀ g gr, takes (.preemptGroup g)
    (fun s => s.group g = some gr ∧ gr.priv = false ∧ (gr.st = .active ∨ gr.st = .pending) ∧ gr.between = 0 ∧ ∀ x ∈ s.issueQ, x.g ≠ g)
    (fun s t => (gr.image = none → t.mem = s.mem) ∧
      (∀ a, gr.image = some a → ∀ x, x < a / 32 * 32 ∨ a + (0xC00 + 1024 * gr.vgran + 512 * gr.divd) + 32 ≤ x → t.byte x = s.byte x) ∧ t.reqs = s.reqs ∧ (∀ x ∈ t.issueQ, x.g ≠ g) ∧ ∃ gr', t.group g = some gr' ∧ gr'.st = .preempted ∧ gr'.latch = [] ∧
      gr'.s = gr.s ∧ (∀ l, (gr'.lane l).v = (gr.lane l).v ∧ (gr'.lane l).pc = (gr.lane l).pc ∧ (gr'.lane l).run = (gr.lane l).run ∧
        (gr'.lane l).stack = (gr.lane l).stack))) ∧
  (∀ slice l x, takes (.blockPlace slice)
    (fun s => s.launches = [(l, x)] ∧ x.slice = slice ∧ s.canPlace l x = true ∧ s.blocks = [])
    (fun s t => t.mem = s.mem ∧ t.reqs = s.reqs ∧ s.nextId < t.nextId ∧ ∃ e ∈ t.blocks, e.2.launch = some l ∧ e.2.placed = true)) ∧
  (∀ slice, takes (.blockPlace slice)
    (fun s => ∃ e ∈ s.launches, e.2.slice = slice ∧ s.canPlace e.1 e.2 = true)
    (fun s t => t.mem = s.mem ∧ t.reqs = s.reqs ∧ t.jobs = s.jobs ∧ s.nextId ≤ t.nextId)) ∧
  (∀ l x, takes (.launchTurnBegin l)
    (fun s => Store.find s.launches l = some x ∧ x.turn = false ∧ x.live = true ∧
      ∀ e ∈ s.launches, e.1 < l → e.2.slice = x.slice → e.2.live = true → s.hasU e.1 e.2 = false)
    (fun s t => (∃ x', Store.find t.launches l = some x' ∧ x'.turn = true ∧ x'.nblocks = x.nblocks) ∧ t.mem = s.mem ∧ t.reqs = s.reqs ∧
      t.jobs = s.jobs)) ∧
  (∀ l i x, takes (.capacityHold l i)
    (fun s => Store.find s.launches l = some x ∧ x.live = true ∧ i < x.nblocks ∧ Store.get false x.placed i = false ∧ x.cut = false ∧
      Store.get false x.held i = false ∧ s.mustHold x i = true)
    (fun s t => (∃ x', Store.find t.launches l = some x' ∧ Store.get false x'.held i = true) ∧ (t.queue x.cp x.q).cap = true ∧
      (t.queue x.cp x.q).index = BitVec.ofNat 16 x.n ∧ t.mem = s.mem ∧ t.blocks = s.blocks)) ∧
  (∀ l i x, takes (.capacityHold l i)
    (fun s => Store.find s.launches l = some x ∧ x.live = true ∧ i < x.nblocks ∧ Store.get false x.placed i = false ∧ x.cut = false ∧
      Store.get false x.held i = true ∧ s.mustHold x i = false)
    (fun s t => (∃ x', Store.find t.launches l = some x' ∧ Store.get false x'.held i = false) ∧ t.mem = s.mem ∧ t.blocks = s.blocks ∧ t.groups = s.groups))

/-! ### Command processors -/

/-- R293–R297, R438, R440–R446: what an entry does when its turn comes. A launch record that passes its checks becomes a launch with the blocks and
status that the record and header give, one that does not an entry that has failed; a signal writes its word; a wait is met, or takes a slot; a copy
becomes a job; an entry that breaks a rule stops its queue. A launch whose blocks have retired stores its completion witness, and completes once that
store has committed.
Model's choices: log 51, 52. -/
def Obligations.Entries : Prop :=
  let read (s : State) (c q : Nat) (b : Begun) (rec : List Byte) (l : W64) (hdr : List Byte) : Prop :=
    s.freshEntry c q 1 = some b ∧ b.e.addr.toNat % 256 = 0 ∧ s.devAsks (cpG c q) (s.queue c q).vf b.e.addr 256 = none ∧
    s.devWaits (s.queue c q).vf (b.e.addr + 0x1C) = none ∧ s.devBytes (cpG c q) (s.queue c q).vf b.e.addr 256 = some rec ∧
    l = BitVec.ofNat 64 (field rec 0 8) ∧ s.devAsks (cpG c q) (s.queue c q).vf l 256 = none ∧ s.devBytes (cpG c q) (s.queue c q).vf l 256 = some hdr
  let atOnce (s : State) (c q : Nat) (a : W64) (tr : Tr) (n : Nat) : Prop := s.devWrite? (s.queue c q).vf a = some tr ∧
    s.devLater (cpG c q) (s.queue c q).vf a tr = false ∧ s.unraced (s.queue c q).vf ∧ s.offTable tr.pa n
  (∀ c q b rec hdr foot b' tiers ts l, takes (.launch c q)
    (fun s => read s c q b rec l hdr ∧ s.devAsks (cpG c q) (s.queue c q).vf (atOff l hdr 0x30) (16 * field hdr 0x16 2) = none ∧
      s.devBytes (cpG c q) (s.queue c q).vf (atOff l hdr 0x30) (16 * field hdr 0x16 2) = some foot ∧
      header l hdr foot rec (s.cpSlice c) (s.queue c q).vf b.e.addr = some (b', tiers) ∧ recordOk rec tiers = some ts ∧ (fit b').1 ≠ 0)
    (fun s t => ∃ x, Store.find t.launches s.nextId = some x ∧ x.cp = c ∧ x.q = q ∧ x.n = b.n ∧ x.nblocks = field rec 0x10 4 ∧
      x.bthreads = field rec 0x14 4 ∧ x.compl = BitVec.ofNat 64 (field rec 8 8) ∧ x.tiers = ts ∧ x.live = true ∧ x.retired = 0 ∧ x.placed = [] ∧
      x.status = launchStatus (fit b').1 (fit b').2 0 1 ∧ x.tmpl = b' ∧ (t.queue c q).done = (s.queue c q).done)) ∧
  (∀ c q b, takes (.launch c q) (fun s => s.freshEntry c q 1 = some b ∧ b.e.addr.toNat % 256 ≠ 0 ∧ (s.queue c q).st ≠ .stopped)
    (fun _ t => t.stoppedAt c q 3 b.n)) ∧
  (∀ c q b rec hdr l, takes (.launch c q)
    (fun s => read s c q b rec l hdr ∧ headerBad l hdr = true)
    (fun s t => s.entryOver t c q b.n true ∧ t.launches = s.launches ∧ t.blocks = s.blocks ∧
      ∀ tr, atOnce s c q (b.e.addr + 0x1C) tr 4 → s.storedAt t tr.pa (leBytes 4 0x104))) ∧
  (∀ c q b, takes (.graph c q)
    (fun s => s.freshEntry c q 2 = some b ∧ (s.queue c q).st ≠ .stopped ∧
      (b.e.value = 0 ∨ 1024 < b.e.value.toNat ∨ b.e.addr.toNat % 32 ≠ 0))
    (fun s t => t.stoppedAt c q 3 b.n ∧ t.launches = s.launches)) ∧
  (∀ c q b bs ns, takes (.graph c q)
    (fun s => s.freshEntry c q 2 = some b ∧ s.devAsks (cpG c q) (s.queue c q).vf b.e.addr (32 * b.e.value.toNat) = none ∧ b.e.value ≠ 0 ∧
      b.e.value.toNat ≤ 1024 ∧ b.e.addr.toNat % 32 = 0 ∧ s.devBytes (cpG c q) (s.queue c q).vf b.e.addr (32 * b.e.value.toNat) = some bs ∧
      allSome ((List.range b.e.value.toNat).map (fun k => nodeOf ((bs.drop (32 * k)).take 32) b.e.value.toNat)) = some ns ∧ graphOk ns = true ∧
      ((s.cp c).graphs.map (fun g => g.nodes.length)).foldl (· + ·) b.e.value.toNat ≤ 4096)
    (fun s t => (∀ y ∈ (t.queue c q).begun, y.n = b.n → y.fresh = false) ∧ t.jobs = s.jobs ∧ s.nextId ≤ t.nextId)) ∧
  (∀ c q b tr, takes (.signal c q)
    (fun s => s.freshEntry c q 3 = some b ∧ b.e.addr.toNat % 8 = 0 ∧ b.e.sop = false ∧ tr.w = true ∧ atOnce s c q b.e.addr tr 8)
    (fun s t => s.entryOver t c q b.n false ∧ s.storedAt t tr.pa (leBytes 8 (if b.e.wit then (s.queue c q).wits else b.e.value).toNat))) ∧
  (∀ c q b tr, takes (.signal c q)
    (fun s => s.freshEntry c q 3 = some b ∧ s.walk (s.queue c q).vf b.e.addr = .ok tr ∧ b.e.addr.toNat % 8 = 0 ∧ b.e.sop = true ∧
      tr.r = true ∧ tr.w = true ∧ (tr.coh = true ∨ tr.pa < hostBase) ∧ (tr.coh = true ∨ s.poisoned tr.pa 8 = false))
    (fun s t => (t.queue c q).done = (s.queue c q).done ∧ t.mem = s.mem ∧ ∃ r, Store.find t.reqs (reqKey s.nextSeq 0) = some r ∧
      r.g = cpG c q ∧ r.kind = .atom .add true ∧ r.pa = tr.pa ∧ r.bytes = 8 ∧ r.coh = tr.coh ∧
      r.data = (if b.e.wit then (s.queue c q).wits else b.e.value).zeroExtend 128)) ∧
  (∀ c q b, takes (.signal c q)
    (fun s => s.freshEntry c q 3 = none ∧ (s.queue c q).begun.find? (fun b => !b.fresh && b.e.type == 3) = some b ∧ s.unitBusy (cpG c q) = false ∧
      (s.queue c q).lost = [])
    (fun s t => s.entryOver t c q b.n false ∧ t.mem = s.mem)) ∧
  (∀ c q b, takes (.signal c q)
    (fun s => s.freshEntry c q 3 = none ∧ (s.queue c q).begun.find? (fun b => !b.fresh && b.e.type == 3) = some b ∧ s.unitBusy (cpG c q) = false ∧
      (s.queue c q).lost ≠ [] ∧ (s.queue c q).st ≠ .stopped)
    (fun _ t => t.stoppedAt c q 3 b.n)) ∧
  (∀ c q b tr, takes (.signal c q)
    (fun s => s.freshEntry c q 3 = some b ∧ s.walk (s.queue c q).vf b.e.addr = .ok tr ∧ (b.e.addr.toNat % 8 ≠ 0 ∨ tr.w = false) ∧
      (s.queue c q).st ≠ .stopped)
    (fun _ t => t.stoppedAt c q 3 b.n)) ∧
  (∀ c q b bs, takes (.wait c q)
    (fun s => s.freshEntry c q 4 = some b ∧ s.devAsks (cpG c q) (s.queue c q).vf b.e.addr 8 = none ∧ b.e.addr.toNat % 8 = 0 ∧
      s.devRead (cpG c q) (s.queue c q).vf b.e.addr 8 = some bs ∧ b.e.cond ≤ 2 ∧
      (b.e.cond = 0 → b.e.value.toNat ≤ leNat bs) ∧ (b.e.cond = 1 → leNat bs = b.e.value.toNat) ∧ (b.e.cond = 2 → leNat bs ≠ b.e.value.toNat))
    (fun s t => s.entryOver t c q b.n false ∧ (s.unraced (s.queue c q).vf → t.mem = s.mem))) ∧
  (∀ c q b bs, takes (.wait c q)
    (fun s => s.freshEntry c q 4 = some b ∧ s.devAsks (cpG c q) (s.queue c q).vf b.e.addr 8 = none ∧ b.e.addr.toNat % 8 = 0 ∧
      s.devRead (cpG c q) (s.queue c q).vf b.e.addr 8 = some bs ∧ b.e.cond = 0 ∧ leNat bs < b.e.value.toNat ∧ (s.queue c q).st ≠ .stopped ∧
      Store.find (s.cp c).slots 0 = none)
    (fun s t => (t.queue c q).st = .waiting ∧ (t.queue c q).slot = some 0 ∧ Store.find (t.cp c).slots 0 = some q ∧
      (t.queue c q).done = (s.queue c q).done ∧ (s.unraced (s.queue c q).vf → t.mem = s.mem))) ∧
  (∀ c q b eng bs j slot, takes (.copy c q)
    (fun s => s.freshEntry c q 5 = some b ∧ s.devAsks (cpG c q) (s.queue c q).vf b.e.addr 64 = none ∧ s.leastBusy (s.sliceEngines (s.cpSlice c)) = some eng ∧
      b.e.addr.toNat % 64 = 0 ∧ s.devBytes (cpG c q) (s.queue c q).vf b.e.addr 64 = some bs ∧
      bulkJob bs true eng (s.queue c q).vf (s.cpSlice c) (fwCore (eng / 24)) 0 0 0 = some j ∧
      (∀ t ∈ j.readRows.flatMap (s.pageTrs j false) ++ j.writeRows.flatMap (s.pageTrs j true), t.isOk = true) ∧
      (s.satAt (s.queue c q).vf j.slice j.judge j.wit = .yes ∨ s.satAt (s.queue c q).vf j.slice j.judge j.wit = .no) ∧ s.freeSlot eng = some slot)
    (fun s t => ∃ j', Store.find t.jobs s.nextJob = some j' ∧ j'.eng = eng ∧ j'.slot = slot ∧ j'.cp = some (c, q, b.n) ∧
      j'.counts = [field bs 0x10 4, field bs 0x14 4] ∧ j'.base = BitVec.ofNat 64 (field bs 0 8) ∧ j'.sbase = BitVec.ofNat 64 (field bs 8 8) ∧
      j'.next = 0 ∧ j'.started = false ∧ (s.unraced (s.queue c q).vf → t.mem = s.mem) ∧ (t.queue c q).done = (s.queue c q).done)) ∧
  (let retired (s : State) (l : Nat) (x : Launch) : Prop := Store.find s.launches l = some x ∧ s.launchOver l x = true ∧
     s.unitBusy (cpG x.cp x.q) = false ∧ s.devWaits x.vf x.compl = none ∧ s.devWaits x.vf (x.record + 0x1C) = none
  (∀ l x, takes (.launchComplete l)
    (fun s => retired s l x ∧ x.node = none ∧ x.sent = false ∧ ∀ tr, s.devWrite? x.vf x.compl = some tr → s.devLater (cpG x.cp x.q) x.vf x.compl tr = false)
    (fun s t => Store.find t.launches l = none ∧ s.entryOver t x.cp x.q x.n (x.failed || x.cut || (s.devWrite? x.vf x.compl).isNone))) ∧
  (∀ l x tr, takes (.launchComplete l)
    (fun s => retired s l x ∧ x.sent = false ∧ s.devWrite? x.vf x.compl = some tr ∧ s.devLater (cpG x.cp x.q) x.vf x.compl tr = true)
    (fun s t => Store.find t.launches l = some { x with sent := true } ∧ t.mem = s.mem ∧ t.cps = s.cps ∧
      ∃ r, Store.find t.reqs (reqKey s.nextSeq 0) = some r ∧ r.g = cpG x.cp x.q ∧ r.kind = .store ∧ r.pa = tr.pa ∧ r.bytes = 8 ∧
        r.data = x.wit.zeroExtend 128)) ∧
  (∀ l x, takes (.launchComplete l) (fun s => retired s l x ∧ x.node = none ∧ x.sent = true)
    (fun s t => Store.find t.launches l = none ∧ s.entryOver t x.cp x.q x.n (x.failed || x.cut)))) ∧
  (∀ l x k, takes (.graphNodeComplete l)
    (fun s => Store.find s.launches l = some x ∧ x.node = some k ∧ x.live = false ∧ l < s.nextId)
    (fun s t => Store.find t.launches l = none ∧ t.jobs = s.jobs ∧ s.nextId ≤ t.nextId))

/-- R431–R439, R442, R444, R448, R530: a refill takes the row, the entry at RDPTR where it is valid, and rewrites the guest page; a row out of range
stops the queue with ERR 6, one with nothing behind it with ERR 3; the chosen queue's head entry begins; slots are polled, expire and spill; an entry times out once; queues start and stop
at the host manager's command.
Model's choices: log 51, 59. -/
def Obligations.Queues : Prop :=
  let refills (e : Instr) (c q : Nat) (pre : State → Prop) : Prop :=
    (∀ r v bs tr, takes e
      (fun s => pre s ∧ s.mayRefill c q = true ∧ s.rowsBacked c q = true ∧ (s.readRow c q).qrow c q = some r ∧
        (s.readRow c q).vrow c r.vf = some v ∧ r.enable ≠ 0 ∧ (s.readRow c q).tstate r.vf ≠ 3 ∧
        (let u := ((s.readRow c q).takeRows c q r v).takeOwner c (s.queue c q).owner r.owner
         let a := (s.queue c q).ring + BitVec.ofNat 64 (64 * ((s.queue c q).rdptr % (s.queue c q).size))
         u.refillAsk c q r.vf r.qcb a = none ∧ (∃ w, u.devRead (cpG c q) r.vf (r.qcb + 0x10) 8 = some w) ∧ u.devBytes (cpG c q) r.vf a 64 = some bs ∧
         (s.queue c q).head = none ∧ (entryOf bs).valid (s.queue c q).rdptr = true ∧ (entryOf bs).bad bs = false ∧
         u.devWrite? r.vf (r.qcb + 0x18) = some tr ∧ u.devLater (cpG c q) r.vf (r.qcb + 0x18) tr = false ∧
         s.unraced r.vf ∧ s.offTable tr.pa 40))
      (fun s t => (t.queue c q).head = some (entryOf bs) ∧ (t.queue c q).rdptr = (s.queue c q).rdptr ∧ (t.queue c q).weight = r.weight ∧
        (t.queue c q).quota = r.quota ∧ (t.queue c q).timeout = r.timeout ∧
        (t.queue c q).st = (if (s.queue c q).st = .idle ∨ ((s.queue c q).st = .active ∧ (s.queue c q).begun = []) then .ready else (s.queue c q).st) ∧
        (t.queue c q).echo0 = BitVec.ofNat 64 (s.nat ((s.cp c).qtbase.toNat + 32 * q + 8) 7) ∧
        (t.queue c q).echo1 = BitVec.ofNat 64 (s.nat ((s.cp c).qtbase.toNat + 32 * q + 16) 4) ∧ s.storedAt t tr.pa (t.queue c q).pageBytes)) ∧
    takes e (fun s => pre s ∧ s.mayRefill c q = true ∧ s.rowsBacked c q = true ∧ (s.readRow c q).qrow c q = none)
      (fun s t => t.stoppedAt c q 6 (s.queue c q).rdptr) ∧
    takes e (fun s => pre s ∧ s.mayRefill c q = true ∧ s.rowsBacked c q = false) (fun s t => t.stoppedAt c q 3 (s.queue c q).rdptr)
  let polls (e : Instr) (c q : Nat) (pre : State → Prop) : Prop :=
    (∀ b, takes e (fun s => pre s ∧ s.waiting c q = some b ∧ s.waitRead c q b.e = .met)
      (fun s t => s.entryOver t c q b.n false ∧ (t.queue c q).slot = none ∧ q ∉ (t.cp c).spill ∧ (s.unraced (s.queue c q).vf → t.mem = s.mem))) ∧
    (∀ b, takes e (fun s => pre s ∧ s.waiting c q = some b ∧ s.waitRead c q b.e = .not)
      (fun s t => t.queue c q = s.queue c q ∧ (t.cp c).slots = (s.cp c).slots ∧ (q ∈ (s.cp c).spill → q ∈ (t.cp c).spill) ∧
        (s.unraced (s.queue c q).vf → t.mem = s.mem) ∧ s.groupsKept t)) ∧
    (∀ b code, takes e (fun s => pre s ∧ s.waiting c q = some b ∧ s.waitRead c q b.e = .err code ∧ (s.queue c q).st ≠ .stopped)
      (fun _ t => t.stoppedAt c q code b.n))
  (∀ c q, refills (.queueRefill c q) c q (fun _ => True)) ∧
  (∀ c q, takes (.queueRefill c q) (fun s => c < 16 ∧ q < 512 ∧ (s.queue c q).st = .stopped) (fun s t => t = s)) ∧ (∀ c q, refills (.refillTimer c q) c q (fun _ => True)) ∧
  (∀ vf q c, refills (.doorbell vf q) c q (fun s => c = s.cpOf vf ∧ (s.vf vf).enabled = true ∧ q < 512 ∧ (s.queue c q).vf = vf ∧ s.tstate vf ≠ 3)) ∧
  (∀ vf q, takes (.doorbell vf q) (fun s => (s.vf vf).enabled = true ∧ q < 512 ∧ (s.queue (s.cpOf vf) q).st = .stopped) (fun s t => t = s)) ∧
  (∀ c u q e, takes (.entrySelect c)
    (fun s => (s.cp c).stopped = false ∧ s.selectQueue c = some (u, q) ∧ (u.queue c q).head = some e)
    (fun s t => (t.queue c q).rdptr = (u.queue c q).rdptr + 1 ∧ (t.queue c q).head = none ∧ (t.queue c q).qc = (u.queue c q).qc - 1 ∧
      (t.queue c q).begun = (u.queue c q).begun ++ [{ n := (u.queue c q).rdptr, e := e, fresh := true, timedout := false }] ∧
      t.mem = s.mem ∧ t.groups = s.groups ∧ t.launches = s.launches)) ∧
  (∀ c q k, polls (.waitSlotPoll c k) c q (fun s => Store.find (s.cp c).slots k = some q)) ∧
  (∀ c q, polls (.spilledWaitPoll c q) c q (fun s => (s.cp c).spill.head? = some q)) ∧
  (∀ c q, takes (.holdtExpired c q) (fun s => (s.queue c q).slot ≠ none)
    (fun s t => (t.queue c q).slot = none ∧ q ∈ (t.cp c).spill ∧ (∀ k, Store.find (t.cp c).slots k ≠ some q) ∧
      (t.queue c q).st = (if (s.queue c q).st = .stopped then .stopped else .spilled) ∧ t.mem = s.mem)) ∧
  (∀ c q n b, takes (.entryTimeout c q n)
    (fun s => (s.queue c q).timeout ≠ 0 ∧ b ∈ (s.queue c q).begun ∧ b.n = n ∧ b.timedout = false ∧ b.e.type ≠ 3)
    (fun s t => (t.queue c q).timedout = true ∧ (t.queue c q).index = BitVec.ofNat 16 n ∧ (t.queue c q).done = (s.queue c q).done ∧
      (∀ y ∈ (t.queue c q).begun, y.n = n → y.timedout = true) ∧ t.mem = s.mem)) ∧
  (∀ die cmd u r v bs tr, let c := die * 4 + (cmd.extractLsb' 10 2).toNat
    let q := (cmd.extractLsb' 0 9).toNat
    takes (.queueStart die cmd)
    (fun s => let w := (u.updQueue c q (fun x => { x with lost := [] })).readRow c q
      s.takeCmd die 0x10 cmd = some u ∧ (s.queue c q).st = .stopped ∧ s.rowsBacked c q = true ∧ w.qrow c q = some r ∧ w.vrow c r.vf = some v ∧
      s.startAsk c q = none ∧ w.devBytes (cpG c q) r.vf r.qcb 0x18 = some bs ∧ r.enable ≠ 0 ∧ w.tstate r.vf ≠ 3 ∧ pow2In (field bs 8 4) 4 16 = true ∧
      field bs 0 8 % 64 = 0 ∧ w.devWrite? r.vf (r.qcb + 0x18) = some tr ∧ w.unraced r.vf)
    (fun s t => (t.queue c q).st = .idle ∧ (t.queue c q).rdptr = field bs 16 8 ∧ (t.queue c q).done = field bs 16 8 ∧ (t.queue c q).head = none ∧
      (t.queue c q).ring = BitVec.ofNat 64 (field bs 0 8) ∧ (t.queue c q).size = field bs 8 4 ∧ (t.queue c q).vf = r.vf ∧
      s.replied t die (cmdReply 0x10 true) ∧ (t.mbox die 0).inb.length + 1 = (s.mbox die 0).inb.length)) ∧
  (∀ die cmd u, let c := die * 4 + (cmd.extractLsb' 10 2).toNat
    let q := (cmd.extractLsb' 0 9).toNat
    takes (.queueStop die cmd)
    (fun s => s.takeCmd die 0x11 cmd = some u ∧ (s.queue c q).st ≠ .stopped)
    (fun s t => t.stoppedAt c q 4 (s.queue c q).rdptr ∧ (t.queue c q).head = none ∧ (∀ b ∈ (t.queue c q).begun, b.fresh = false ∧ b.isWait = false) ∧
      s.replied t die (cmdReply 0x11 true)))

/-! ### Memory, errors, services -/

/-- R417, R420–R424: a refresh that falls due refreshes an idle bank, is postponed on a busy one and counted in its debt, and at a debt of 8 becomes a
REFab of the pseudo-channel; debts are repaid; an alert is answered by RFM, after a REFab at a debt of 8; a row of 2048 activations has its VF
throttled.
Model's choices: log 56, 57, 159. -/
def Obligations.Refresh : Prop :=
  let quiet (s : State) (ch b : Nat) : Prop := ch < 384 ∧ b < 32 ∧ (s.chan ch).refreshing b = false
  let kept (s t : State) : Prop := t.mem = s.mem ∧ t.poison = s.poison ∧ t.blocks = s.blocks ∧ t.reqs = s.reqs
  (∀ ch b, takes (.refreshDue ch b)
    (fun s => quiet s ch b ∧ (s.chan ch).alertAt b = false ∧ s.bankInUse ch b = false)
    (fun s t => kept s t ∧ ((t.chan ch).bank b).busy = .refpb ∧ ((t.chan ch).bank b).debt = ((s.chan ch).bank b).debt ∧
      (t.chan ch).postpone = (s.chan ch).postpone ∧ (t.chan ch).refab = (s.chan ch).refab)) ∧
  (∀ ch b, takes (.refreshDue ch b)
    (fun s => quiet s ch b ∧ (s.chan ch).alertAt b = false ∧ s.bankInUse ch b = true ∧ ((s.chan ch).bank b).debt < 8)
    (fun s t => kept s t ∧ ((t.chan ch).bank b).debt = ((s.chan ch).bank b).debt + 1 ∧ ((t.chan ch).bank b).busy = ((s.chan ch).bank b).busy ∧
      (t.chan ch).postpone = (s.chan ch).postpone + 1)) ∧
  (∀ ch b, takes (.refreshDue ch b)
    (fun s => quiet s ch b ∧ (s.chan ch).alertAt b = false ∧ s.bankInUse ch b = true ∧ 8 ≤ ((s.chan ch).bank b).debt)
    (fun s t => kept s t ∧ (∀ k < 16, ((t.chan ch).bank (b / 16 * 16 + k)).debt = 0) ∧ ((t.chan ch).bank b).busy = .refab false ∧
      (t.chan ch).refab = (s.chan ch).refab + 1 ∧ s.logs t (chDie ch) 0x22 (chUnit ch) 0x1FF)) ∧
  (∀ ch b, takes (.refreshDue ch b)
    (fun s => ch < 384 ∧ b < 32 ∧ ((s.chan ch).refreshing b = true ∨ (s.chan ch).alertAt b = true) ∧ s.dueRepaid ch b = false)
    (fun s t => kept s t ∧ ((t.chan ch).bank b).due = true ∧ ((t.chan ch).bank b).debt = ((s.chan ch).bank b).debt)) ∧
  (∀ ch b, takes (.refreshDue ch b)
    (fun s => ch < 384 ∧ b < 32 ∧ ((s.chan ch).bank b).alertTime = some s.time ∧ ((s.chan ch).bank b).busy = .refab true)
    (fun s t => kept s t ∧ ((t.chan ch).bank b).due = ((s.chan ch).bank b).due ∧ ((t.chan ch).bank b).debt = ((s.chan ch).bank b).debt ∧
      ((t.chan ch).bank b).busy = .refab true ∧ (t.chan ch).refab = (s.chan ch).refab)) ∧
  (∀ ch b, takes (.refpbRepay ch b)
    (fun s => quiet s ch b ∧ ((s.chan ch).bank b).debt ≠ 0 ∧ s.bankInUse ch b = false ∧ (s.chan ch).alerted b = false)
    (fun s t => kept s t ∧ ((t.chan ch).bank b).debt + 1 = ((s.chan ch).bank b).debt ∧ ((t.chan ch).bank b).busy = .refpb)) ∧
  (∀ ch b, takes (.refreshComplete ch b)
    (fun s => (((s.chan ch).bank b).busy = .refpb ∨ ((s.chan ch).bank b).busy = .refab false) ∧ (s.chan ch).alerts = [] ∧
      ∀ k, ((s.chan ch).bank k).due = false)
    (fun s t => kept s t ∧ ((t.chan ch).bank b).busy = .idle ∧ ((t.chan ch).bank b).debt = ((s.chan ch).bank b).debt)) ∧
  (∀ ch b, takes (.refreshComplete ch b) (fun s => ((s.chan ch).bank b).busy = .refab true ∧ ((s.chan ch).bank b).alert ≠ none)
    (fun s t => kept s t ∧ ((t.chan ch).bank b).busy = .rfm ∧ (t.chan ch).rfm = (s.chan ch).rfm + 1)) ∧
  (∀ ch b ns v, takes (.refreshComplete ch b)
    (fun s => ((s.chan ch).bank b).busy = .rfm ∧ ((s.chan ch).bank b).alert = some ns ∧ ((s.chan ch).bank b).topVf = some v ∧ v ≠ fwVf ∧
      (s.chan ch).alerts = [] ∧ ∀ k, ((s.chan ch).bank k).due = false)
    (fun s t => kept s t ∧ ((t.chan ch).bank b).busy = .idle ∧ ((t.chan ch).bank b).alert = none ∧ s.logs t (chDie ch) 0x21 (chUnit ch) v ∧
      Store.get 0 (t.vf v).meter 2 = Store.get 0 (s.vf v).meter 2 + BitVec.ofNat 64 (ns * 48))) ∧
  (∀ ch b, takes (.rowPrecharge ch b) (fun s => ((s.chan ch).bank b).row ≠ none ∧ ((s.chan ch).bank b).last + 1600 ≤ s.time)
    (fun s t => kept s t ∧ ((t.chan ch).bank b).row = none ∧ ((t.chan ch).bank b).track = ((s.chan ch).bank b).track)) ∧
  (∀ ch b row e v n, takes (.activationThreshold ch b row)
    (fun s => ((s.chan ch).bank b).track.find? (fun e => e.row == row && decide (2048 ≤ e.count)) = some e ∧ (s.chan ch).refreshing b = false ∧
      (s.chan ch).alerted b = false ∧ (v, n) ∈ e.vfs ∧ ∀ x ∈ e.vfs, x = (v, n) ∨ x.2 < n)
    (fun s t => kept s t ∧ ((t.chan ch).bank b).busy = .rfm ∧ ((t.chan ch).bank b).row = none ∧ v ∈ ((t.chan ch).bank b).throttled ∧
      (t.chan ch).rfm = (s.chan ch).rfm + 1 ∧ (t.chan ch).throttle = (s.chan ch).throttle + 1 ∧ s.logs t (chDie ch) 0x20 (chUnit ch) v)) ∧
  (∀ ch b v, takes (.throttleEnd ch b v) (fun s => v ∈ ((s.chan ch).bank b).throttled)
    (fun s t => kept s t ∧ ∀ x, x ∈ ((t.chan ch).bank b).throttled ↔ x ∈ ((s.chan ch).bank b).throttled ∧ x ≠ v)) ∧
  (∀ ch b, takes (.trackerWindowEnd ch b) (fun _ => ch < 384 ∧ b < 32)
    (fun s t => kept s t ∧ ((t.chan ch).bank b).track = [] ∧ ((t.chan ch).bank b).row = ((s.chan ch).bank b).row)) ∧
  (∀ ch b, takes (.alertBackOff ch b) (fun s => quiet s ch b ∧ (s.chan ch).alerted b = false ∧ ((s.chan ch).bank b).dueTime ≠ some s.time)
    (fun s t => kept s t ∧ (t.chan ch).abo = (s.chan ch).abo + 1 ∧ ((t.chan ch).bank b).alert ≠ none ∧
      if ((s.chan ch).bank b).debt = 8 then ((t.chan ch).bank b).busy = .refab true ∧ (t.chan ch).refab = (s.chan ch).refab + 1 ∧
        ∀ k < 16, ((t.chan ch).bank (b / 16 * 16 + k)).debt = 0
      else ((t.chan ch).bank b).busy = .rfm ∧ (t.chan ch).rfm = (s.chan ch).rfm + 1)) ∧
  (∀ ch b, takes (.alertBackOff ch b)
    (fun s => ch < 384 ∧ b < 32 ∧ (s.chan ch).alertAt b = false ∧ ((s.chan ch).refreshing b = true ∨ (s.chan ch).alerted b = true) ∧
      ((s.chan ch).bank b).dueTime ≠ some s.time)
    (fun s t => kept s t ∧ (t.chan ch).abo = (s.chan ch).abo + 1 ∧
      (∀ k, { (t.chan ch).bank k with alertTime := none } = { (s.chan ch).bank k with alertTime := none }) ∧
      ∃ ns, (t.chan ch).alerts = (s.chan ch).alerts ++ [(b, ns)]))

/-- R379, R380, R391, R425–R429, R495, R496: the scrubbers move on line by line; an uncorrectable error poisons its words, is counted and logged; one
in a block's own context ends the block; a line that fails its MAC is poisoned, and a slice whose root is lost halts.
Model's choices: log 58, 62, 78, 174. -/
def Obligations.Errors : Prop :=
  let room (s : State) (ch : Nat) : Prop := ch < 384 ∧ s.scrubMay ch = true ∧ ∀ p < 2,
    ((List.range 16).map (fun k => s.queuedAt ch (16 * p + k))).foldl (· + ·) 0 < (s.chan ch).idleq.toNat
  let scrubbed (s t : State) (ch n : Nat) : Prop :=
    let p := (s.chan ch).scrubpos.toNat + n
    (t.chan ch).scrubpos = BitVec.ofNat 24 (if chanLines ≤ p then p - chanLines else p) ∧
    (t.chan ch).scrubpass = (if chanLines ≤ p then (s.chan ch).scrubpass + 1 else (s.chan ch).scrubpass)
  let bad (t : State) (p : Nat) : Prop := ∀ k < 8, t.poisoned (p + 4 * k) 4 = true
  let ended (s t : State) (b : Nat) : Prop := (∃ x, t.block b = some x ∧ x.failed = true) ∧
    ∀ g gr, s.group g = some gr → gr.blk = b → ∃ gr', t.group g = some gr' ∧ gr'.st = .retiring ∧ ∀ l, (gr'.lane l).run = .exited
  (∀ ch, takes (.hbmScrubRead ch .clean) (fun s => room s ch)
    (fun s t => scrubbed s t ch 1 ∧ t.mem = s.mem ∧ t.poison = s.poison ∧ t.groups = s.groups)) ∧
  (∀ ch p, takes (.hbmScrubRead ch .uncorrectable)
    (fun s => room s ch ∧ s.l2Dirty ch ((s.chan ch).scrubpos.toNat * 128) = false ∧ s.paOf ch ((s.chan ch).scrubpos.toNat * 128) = some p)
    (fun s t => scrubbed s t ch 1 ∧ t.mem = s.mem ∧ ∃ m, 1 ≤ m ∧ m ≤ 15 ∧ (∀ k < 4, m.testBit k = true → bad t (p + 32 * k)) ∧
      (t.chan ch).ue = (s.chan ch).ue + BitVec.ofNat 32 ((List.range 4).countP (fun k => m.testBit k)) ∧
      ((∀ k < 4, s.treeNode (p + 32 * k) = none) → (s.die (chDie ch)).head - (s.die (chDie ch)).tail ≠ 64 →
        ∃ e, Store.find (t.die (chDie ch)).log ((s.die (chDie ch)).head.toNat % 64) = some e ∧ e.type = 0x13 ∧ e.unit = chUnit ch ∧ e.vf = 0x1FF))) ∧
  (∀ ch, takes (.scrubEscalate ch .clean) (fun s => ch < 384 ∧ s.escalates ch = true ∧ s.scrubMay ch = true)
    (fun s t => scrubbed s t ch 2 ∧ t.mem = s.mem ∧ t.poison = s.poison ∧ t.groups = s.groups)) ∧
  (∀ ch a p, takes (.hbmUncorrectable ch a)
    (fun s => ch < 384 ∧ a < chanLines * 128 ∧ s.paOf ch (a / 32 * 32) = some p ∧ s.treeNode p = none ∧
      ∀ q, s.paOf ch a = some q → ∀ e ∈ s.l2, e.1 / 512 = q / 128 → e.2.valid.getLsbD (q / 32 % 4) = false)
    (fun s t => bad t p ∧ t.mem = s.mem ∧ (t.chan ch).ue = (s.chan ch).ue + 1 ∧ (t.chan ch).lastue = BitVec.ofNat 64 (a / 32 * 32) ∧
      s.logs t (chDie ch) 0x11 (chUnit ch) 0x1FF)) ∧
  (∀ ch a p level line i sl r n, takes (.hbmUncorrectable ch a)
    (fun s => ch < 384 ∧ a < chanLines * 128 ∧ s.paOf ch (a / 32 * 32) = some p ∧ s.treeNode p = some (level, line) ∧ level ≠ 0 ∧
      s.regionOfLine line = some (i, sl, r, n) ∧
      ∀ q, s.paOf ch a = some q → ∀ e ∈ s.l2, e.1 / 512 = q / 128 → e.2.valid.getLsbD (q / 32 % 4) = false)
    (fun s t => bad t p ∧ t.mem = s.mem ∧ (t.chan ch).ue = (s.chan ch).ue + 1 ∧
      t.badNodes = (line - n % min 16384 (nodeSpan level), min 16384 (nodeSpan level)) :: s.badNodes)) ∧
  (∀ line sec k l, takes (.l2Uncorrectable line sec)
    (fun s => s.l2.find? (fun e => e.1 / 512 == line && e.2.valid.getLsbD sec) = some (k, l) ∧ sec < 4)
    (fun s t => t.mem = s.mem ∧ (if l.dirty.getLsbD sec then bad t (line * 128 + 32 * sec) else t.poison = s.poison) ∧
      s.logs t (s.homeOf (line * 128 + 32 * sec) / 48) 0x14 (s.homeOf (line * 128 + 32 * sec) % 48) l.vf)) ∧
  (∀ c, takes (.sramUncorrectable c .free) (fun _ => c < 196)
    (fun s t => (t.core c).sramue = (s.core c).sramue + 1 ∧ t.blocks = s.blocks ∧ t.mem = s.mem ∧ s.logs t (c / 49) 0x01 (c % 49) 0x1FF)) ∧
  (∀ c vf line, takes (.sramUncorrectable c (.l1 vf line)) (fun _ => c < 196)
    (fun s t => (t.core c).sramue = (s.core c).sramue + 1 ∧ t.blocks = s.blocks ∧ t.mem = s.mem ∧ s.logs t (c / 49) 0x01 (c % 49) vf ∧
      (∀ l ∈ t.l1, ¬ (l.core = c ∧ l.vf = vf ∧ l.line = line)) ∧ ∀ l ∈ s.l1, ¬ (l.core = c ∧ l.vf = vf ∧ l.line = line) → l ∈ t.l1)) ∧
  (∀ c b x, takes (.sramUncorrectable c (.block b)) (fun s => c < 196 ∧ Store.sorted s.groups = true ∧ s.block b = some x ∧ x.done = false ∧ x.vf ≠ fwVf)
    (fun s t => (t.core c).sramue = (s.core c).sramue + 1 ∧ t.mem = s.mem ∧ s.logs t (c / 49) 0x01 (c % 49) x.vf ∧ ended s t b)) ∧
  (∀ c g gr x, takes (.sramUncorrectable c (.image g))
    (fun s => c < 196 ∧ Store.sorted s.groups = true ∧ s.group g = some gr ∧ gr.priv = false ∧ s.block gr.blk = some x ∧ x.done = false)
    (fun s t => (t.core c).sramue = (s.core c).sramue + 1 ∧ t.mem = s.mem ∧ s.logs t (c / 49) 0x01 (c % 49) x.vf ∧ ended s t gr.blk)) ∧
  (∀ c b x, takes (.sramUncorrectable c .firmware) (fun s => c < 196 ∧ c % 49 = 48 ∧ s.fwOf (c / 49) = some (b, x) ∧ s.block b = some x)
    (fun s t => t.mem = s.mem ∧ s.logs t (c / 49) 0x01 (c % 49) 0x1FF ∧ s.nextId < t.nextId)) ∧
  (∀ k b x, takes (.clusterNetworkError k b)
    (fun s => k < 48 ∧ Store.sorted s.groups = true ∧ s.block b = some x ∧ x.done = false ∧ ∃ sh ∈ x.shares, sh.core ∈ coresOf [k])
    (fun s t => t.mem = s.mem ∧ s.logs t (k / 12) 0x02 (k % 12) x.vf ∧ ended s t b)) ∧
  (∀ line level i sl r n, takes (.macMismatch line level)
    (fun s => s.regionOfLine line = some (i, sl, r, n) ∧ r.kind = 1 ∧ level ≤ 4 ∧ (level = 0 → s.written line = true))
    (fun s t => t.mem = s.mem ∧ if level = 0 then ∀ k < 32, t.poisoned (128 * line + 4 * k) 4 = true
      else t.badNodes = (line - n % min 16384 (nodeSpan level), min 16384 (nodeSpan level)) :: s.badNodes)) ∧
  (∀ i reg r, takes (.rootLost i reg)
    (fun s => i < 16 ∧ s.anyStall = false ∧ (s.slice i).st ≠ .free ∧ Store.find s.regions (i * 2 ^ 32 + reg) = some r ∧ r.kind = 1)
    (fun s t => (t.slice i).failed = true ∧ ∀ c ∈ coresOf ((s.slice i).numbered.map Prod.snd), (t.core c).halted = true))

/-- R280–R282, R441, R444, R448, R449, R469, R473, R531: the services of sys answer, and the reply goes to the destination; commands that invalidate
translations are answered; messages enter and leave mailboxes in order; registers take what their writer may change.
Model's choices: log 32, 59, 161. -/
def Obligations.Services : Prop :=
  let answered (s t : State) (g : Nat) (gr : Group) (r : SysReq) (v : W64) : Prop :=
    t = s.putGroup g { gr with sysq := some { r with reply := some v } }
  (∀ g gr r, takes (.sysNop g) (fun s => s.sysWants g 0 = some (gr, r)) (fun s t => answered s t g gr r 0)) ∧
  (∀ g gr r, takes (.meter g) (fun s => s.sysWants g 1 = some (gr, r))
    (fun s t => let u := if r.arg.toNat % 8 = 6 then s.estimateEnergy else s
      answered u t g gr r (if r.arg.toNat % 8 = 7 then 0xFFFFFFFFFFFFFFFF else Store.get 0 (u.vf (s.jobVf gr)).meter (r.arg.toNat % 8)))) ∧
  (∀ g gr r v, takes (.notify g)
    (fun s => s.sysWants g 3 = some (gr, r) ∧ s.stalled (s.vf (s.jobVf gr)).slice = false ∧ v = s.vf (s.jobVf gr) ∧
      (v.nring < hostBase ∨ v.nring % 8 ≠ 0 ∨ (s.die 0).bstate ≠ 3 ∨ s.tstate (s.jobVf gr) = 3))
    (fun s t => answered s t g gr r 0xFFFFFFFFFFFFFFFF)) ∧
  (∀ g gr r v, takes (.notify g)
    (fun s => s.sysWants g 3 = some (gr, r) ∧ s.stalled (s.vf (s.jobVf gr)).slice = false ∧ v = s.vf (s.jobVf gr) ∧ hostBase ≤ v.nring ∧ v.nring % 8 = 0 ∧
      (s.die 0).bstate = 3 ∧ s.tstate (s.jobVf gr) ≠ 3 ∧ v.nring + 8 * v.nsize + 16 ≤ 2 ^ 50 ∧ v.prod - BitVec.ofNat 64 (s.nat (v.nring + 8 * v.nsize + 8) 8) = BitVec.ofNat 64 v.nsize)
    (fun s t => answered s t g gr r 1)) ∧
  (∀ g gr r v, takes (.notify g)
    (fun s => s.sysWants g 3 = some (gr, r) ∧ s.stalled (s.vf (s.jobVf gr)).slice = false ∧ v = s.vf (s.jobVf gr) ∧ hostBase ≤ v.nring ∧ v.nring % 8 = 0 ∧
      (s.die 0).bstate = 3 ∧ s.tstate (s.jobVf gr) ≠ 3 ∧ v.nring + 8 * v.nsize + 16 ≤ 2 ^ 50 ∧ 0 < v.nsize ∧
      v.prod - BitVec.ofNat 64 (s.nat (v.nring + 8 * v.nsize + 8) 8) ≠ BitVec.ofNat 64 v.nsize ∧ s.offTable v.nring (8 * v.nsize + 8))
    (fun s t => (∃ gr', t.group g = some gr' ∧ gr'.sysq = some { r with reply := some 0 }) ∧ (t.vf (s.jobVf gr)).prod = v.prod + 1 ∧
      let a := v.nring + 8 * (v.prod.toNat % v.nsize)
      let p := v.nring + 8 * v.nsize
      ∀ x, t.byte x = if a ≤ x ∧ x < a + 8 then (leBytes 8 r.arg.toNat).getD (x - a) 0
        else if p ≤ x ∧ x < p + 8 then (leBytes 8 (v.prod + 1).toNat).getD (x - p) 0 else s.byte x)) ∧
  (∀ g gr r, takes (.tlbinv g)
    (fun s => s.sysWants g 4 = some (gr, r) ∧ s.tlbBusy (if r.arg.getLsbD 0 then 1 else 0) (s.jobVf gr) r.arg = false)
    (fun s t => (∃ gr', t.group g = some gr' ∧ gr'.sysq = some { r with reply := some 0 }) ∧ t.mem = s.mem ∧
      ∀ e, e ∈ t.tlb ↔ e ∈ s.tlb ∧ tlbSelects (if r.arg.getLsbD 0 then 1 else 0) (s.jobVf gr) r.arg e = false)) ∧
  (∀ g gr r v b, takes (.sysReply g)
    (fun s => s.group g = some gr ∧ gr.sysq = some r ∧ Operand.ofSpec r.dst = .sreg b ∧
      (r.reply = some v ∨ (r.reply = none ∧ isService r.service.toNat = false ∧ v = 0xFFFFFFFFFFFFFFFF)))
    (fun s t => ∃ gr', s.groupTo t g gr' ∧ gr'.sysq = none ∧ gr'.rd b = v.extractLsb' 0 32 ∧ gr'.rd (b + 1) = v.extractLsb' 32 32 ∧
      (∀ x, ¬ inDst b 2 x → gr'.rd x = gr.rd x) ∧ gr'.lanes = gr.lanes)) ∧
  (∀ die cmd u, takes (.stage2InvalidatePage die cmd)
    (fun s => s.takeCmd die 0x01 cmd = some u ∧ s.tlbBusy 2 (cmd.extractLsb' 38 9).toNat ((cmd.extractLsb' 0 38).zeroExtend 64 <<< 12) = false)
    (fun s t => s.replied t die (cmdReply 0x01 true) ∧ t.mem = s.mem ∧
      ∀ e, e ∈ t.tlb ↔ e ∈ s.tlb ∧ tlbSelects 2 (cmd.extractLsb' 38 9).toNat ((cmd.extractLsb' 0 38).zeroExtend 64 <<< 12) e = false)) ∧
  (∀ die cmd u, takes (.stage2InvalidateVf die cmd)
    (fun s => s.takeCmd die 0x02 cmd = some u ∧ s.tlbBusy 3 (cmd.extractLsb' 0 9).toNat 0 = false)
    (fun s t => s.replied t die (cmdReply 0x02 true) ∧ t.mem = s.mem ∧
      ∀ e, e ∈ t.tlb ↔ e ∈ s.tlb ∧ tlbSelects 3 (cmd.extractLsb' 0 9).toNat 0 e = false)) ∧
  (∀ die mbx msg, takes (.mailboxInbound die mbx msg)
    (fun s => die < 4 ∧ mbx ≤ 10 ∧ ¬ (die = 0 ∧ mbx = 0 ∧ msg.extractLsb' 56 8 = 0x38) ∧ (s.mbox die mbx).inb.length < 16)
    (fun s t => (t.mbox die mbx).inb = (s.mbox die mbx).inb ++ [msg] ∧ (t.mbox die mbx).outb = (s.mbox die mbx).outb ∧ t.mem = s.mem)) ∧
  (∀ msg, takes (.mailboxInbound 0 0 msg)
    (fun s => msg.extractLsb' 56 8 = 0x38 ∧ msg.extractLsb' 0 13 ≠ 0 ∧ (msg.extractLsb' 0 13).toNat ≤ 4096 ∧ (s.mbox 0 0).inb.length < 16 ∧
      s.sec.doeBusy = false ∧ s.stalled 16 = false)
    (fun s t => (t.mbox 0 0).inb = (s.mbox 0 0).inb ++ [msg] ∧ t.sec.doeBusy = true ∧
      ∀ x, x < s.sltbase + 0x12400 ∨ (s.sltbase + 0x12400 + (msg.extractLsb' 0 13).toNat ≤ x ∧ x < s.sltbase + 0x14700) ∨ s.sltbase + 0x14720 ≤ x →
        t.byte x = s.byte x)) ∧
  (∀ die msg, takes (.mbxin die msg) (fun _ => die < 4)
    (fun s t => (t.mbox die 0).inb = (if (s.mbox die 0).inb.length < 16 then (s.mbox die 0).inb ++ [msg] else (s.mbox die 0).inb) ∧ t.mem = s.mem)) ∧
  (∀ die, takes (.mbxout die) (fun _ => die < 4)
    (fun s t => (t.mbox die 0).outb = (s.mbox die 0).outb.tail ∧ (t.mbox die 0).inb = (s.mbox die 0).inb ∧
      t.sec.answers = s.sec.answers ++ [leBytes 8 ((s.mbox die 0).outb.headD 0).toNat] ∧ t.mem = s.mem)) ∧
  (∀ die mbx, takes (.inpop die mbx) (fun _ => die < 4 ∧ mbx < 64)
    (fun s t => (t.mbox die mbx).inb = (s.mbox die mbx).inb.tail ∧ (t.mbox die mbx).outb = (s.mbox die mbx).outb ∧ t.mem = s.mem ∧
      t.groups = s.groups)) ∧
  (∀ die mbx m rest, takes (.outboundRingTake die mbx)
    (fun s => die < 4 ∧ (mbx = 10 ∨ (1 ≤ mbx ∧ mbx ≤ 5)) ∧ (s.mbox die mbx).outb = m :: rest)
    (fun s t => (t.mbox die mbx).outb = rest ∧ (t.mbox die mbx).inb = (s.mbox die mbx).inb ∧ t.mem = s.mem ∧ t.groups = s.groups)) ∧
  (∀ die m rest, takes (.noticePost die)
    (fun s => die < 4 ∧ (s.die die).notices = m :: rest ∧ (s.mbox die 0).outb.length < 16 ∧ m.extractLsb' 56 8 ≠ 0x38)
    (fun s t => (t.die die).notices = rest ∧ (t.mbox die 0).outb = (s.mbox die 0).outb ++ [m] ∧ t.mem = s.mem ∧
      t.sec.msix = if (s.mbox die 0).outb = [] then s.sec.msix ++ [die] else s.sec.msix)) ∧
  (∀ g gr h b, takes (.haltTimerExpired g)
    (fun s => s.group g = some gr ∧ gr.haltq = some h ∧ h.us ≠ 0 ∧ Operand.ofSpec h.dst = .sreg b)
    (fun s t => ∃ gr', s.groupTo t g gr' ∧ gr'.haltq = none ∧ gr'.events = 0 ∧ gr'.rd b = (gr.events ||| 8).zeroExtend 32 ∧
      (∀ x, x ≠ b → gr'.rd x = gr.rd x) ∧ gr'.lanes = gr.lanes)) ∧
  (∀ reg v c o, takes (.registerWrite .hostManager reg v) (fun _ => ioWin reg = some (.cp c o))
    (fun s t => (o = 0 → (t.cp c).qtbase = v &&& 0xFFFFFFFFFFFFFFE0) ∧ (o = 8 → (t.cp c).vtbase = v &&& 0xFFFFFFFFFFFFFFF0) ∧
      (o = 0x10 → (t.cp c).nq = min 512 (v.toNat % 1024)) ∧ (o = 0x18 → (t.cp c).holdt = max 1 (min 1000 (v.toNat % 1024))) ∧
      (t.cp c).queues = (s.cp c).queues ∧ t.mem = s.mem)) ∧
  (∀ reg v c, takes (.registerWrite .firmware reg v) (fun _ => ioWin reg = some (.chan c 0x60))
    (fun s t => (t.chan c).idleq = v.extractLsb' 0 4 ∧ (t.chan c).period = (if v.extractLsb' 8 8 = 0 then 1 else v.extractLsb' 8 8) ∧ t.mem = s.mem)) ∧
  (∀ reg v d, takes (.registerWrite .firmware reg v) (fun _ => ioWin reg = some (.log d 0x808))
    (fun s t => (t.die d).tail = v ∧ (t.die d).head = (s.die d).head ∧ t.mem = s.mem)) ∧
  (∀ reg v, takes (.registerWrite .other reg v) (fun _ => ioWin reg ≠ none) (fun s t => t = s)) ∧
  (takes .meterCopy (fun s => s.stalled 16 = false) (fun s t => (∀ v, s.sameVf t v) ∧ t.slices = s.slices ∧ t.cps = s.cps ∧ t.blocks = s.blocks)) ∧
  (takes .meterCopy (fun s => s.stalled 16 = false ∧ s.backed (s.sltbase + 0x6400) = true ∧ s.partPoison (s.sltbase + 0x6400) 64 = false)
    (fun s t => (∀ i < 64, t.byte (s.sltbase + 0x6400 + i) = ((s.estimateEnergy.meterView 0).flatMap (fun w => leBytes 8 w.toNat)).getD i 0) ∧
      ∀ x, x < s.sltbase + 0x6400 ∨ s.sltbase + 0x6400 + 64 * 384 ≤ x → t.byte x = s.byte x))

/-! ### Slices -/

/-- R454–R457, R462–R467, R480, R491, R493, R497, R531: a command whose block breaks a rule is refused with reason 1; TABLE, CREATE, DESTROY, VFON, VFOFF,
CORE, FLAGS and REGION change their tables and are answered at once; LEND, RECALL and the commands that reshape begin, and are not answered yet.
Model's choices: log 67, 68, 72. -/
def Obligations.SliceCommands : Prop :=
  let refused (e : W64 → Instr) (op : Nat) : Prop := ∀ cmd u d, takes (e cmd)
    (fun s => s.anyStall = false ∧ (s.cmd = none ∨ op = 0x26) ∧ d < 4 ∧ s.takeCmd d op cmd = some u ∧ (∀ x, x < d → s.takeCmd x op cmd = none) ∧ u.cmdBlock cmd = none)
    (fun s t => s.replied t d (sliceReply op 1) ∧ t.slices = s.slices ∧ t.vfs = s.vfs ∧ t.cmd = s.cmd)
  (refused .table 0x20 ∧ refused .create 0x21 ∧ refused .destroy 0x22 ∧ refused .vfon 0x23 ∧ refused .vfoff 0x24 ∧ refused .lend 0x25 ∧
    refused .recall 0x26 ∧ refused .merge 0x27 ∧ refused .split 0x28 ∧ refused .resize 0x29 ∧ refused .exportSlice 0x2A ∧
    refused .importSlice 0x2B ∧ refused .core 0x2C ∧ refused .flags 0x2D ∧ refused .region 0x30) ∧
  (let unbacked (e : W64 → Instr) (op : Nat) : Prop := ∀ cmd u d b, takes (e cmd)
     (fun s => s.commandRead u d op cmd b ∧ u.backed u.sltbase = false)
     (fun s t => s.replied t d (sliceReply op 1) ∧ t.slices = s.slices ∧ t.vfs = s.vfs ∧ t.cmd = s.cmd ∧ t.mem = s.mem)
   unbacked .destroy 0x22 ∧ unbacked .lend 0x25 ∧ unbacked .recall 0x26 ∧ unbacked .merge 0x27 ∧ unbacked .split 0x28 ∧ unbacked .resize 0x29 ∧
     unbacked .exportSlice 0x2A ∧ unbacked .importSlice 0x2B ∧ unbacked .core 0x2C ∧ unbacked .flags 0x2D) ∧
  (∀ cmd u d b, takes (.table cmd) (fun s => s.commanded u d 0x20 cmd b ∧ ∀ e ∈ s.slices, e.2.st = .free)
    (fun s t => s.replied t d (sliceReply 0x20 0) ∧ t.sltbase = b.apb ∧ t.slices = s.slices ∧
      (b.apb % 64 = 0 → ∀ v < 384, t.backed (b.apb + 0xC400 + 64 * v) = true → t.byte (b.apb + 0xC400 + 64 * v) = 0 ∧
        t.byte (b.apb + 0xC400 + 64 * v + 1) = 0xFF))) ∧
  (∀ cmd u d b, takes (.create cmd) (fun s => s.commanded u d 0x21 cmd b ∧ createCheck u b = 0)
    (fun s t => s.replied t d (sliceReply 0x21 0) ∧ (∀ i, i ≠ b.sa → t.slice i = s.slice i) ∧ (t.slice b.sa).st = .running ∧
      (t.slice b.sa).clusters = b.clusters ∧ (t.slice b.sa).apbase = b.apb ∧ (t.slice b.sa).cpn = BitVec.ofNat 4 b.cpn ∧ (t.slice b.sa).gen = 0 ∧
      (t.slice b.sa).prot = b.prot ∧ (t.slice b.sa).race = b.race ∧ (t.slice b.sa).tslice = b.tslice ∧ (t.slice b.sa).key ≠ none ∧ (t.slice b.sa).lent = 0 ∧
      (t.slice b.sa).borrowed = 0)) ∧
  (∀ cmd u d b, takes (.create cmd) (fun s => s.commanded u d 0x21 cmd b ∧ createCheck u b ≠ 0)
    (fun s t => s.replied t d (sliceReply 0x21 (createCheck u b)) ∧ t.slices = s.slices ∧ t.mem = s.mem)) ∧
  (∀ cmd u d b, takes (.destroy cmd) (fun s => s.commanded u d 0x22 cmd b ∧ b.sa < 16 ∧ ((s.slice b.sa).st = .exported ∨
      ((s.slice b.sa).st = .running ∧ s.enabledIn b.sa = [] ∧ (s.slice b.sa).lent = 0 ∧ (s.slice b.sa).borrowed = 0)))
    (fun s t => s.replied t d (sliceReply 0x22 0) ∧ (t.slice b.sa).st = .free ∧ (t.slice b.sa).clusters = 0 ∧
      (t.slice b.sa).migKey = (s.slice b.sa).migKey ∧ (∀ i, i ≠ b.sa → t.slice i = s.slice i) ∧ (∀ e ∈ t.blocks, e.2.slice ≠ b.sa) ∧
      (∀ e ∈ t.launches, e.2.slice ≠ b.sa) ∧ (∀ e ∈ t.reqs, e.2.slice ≠ b.sa) ∧ ∀ e ∈ t.regions, e.1 / 2 ^ 32 ≠ b.sa)) ∧
  (∀ cmd u d b i l, takes (.vfon cmd) (fun s => s.commanded u d 0x23 cmd b ∧ b.vf < 384 ∧ u.backed (u.vfRowAt b.vf) = true ∧
      i = field (u.bytes (u.vfRowAt b.vf) 64) 0x1C 1 ∧ l = field (u.bytes (u.vfRowAt b.vf) 64) 0x1D 1 ∧ i < 16 ∧ l < 24 ∧ u.isRunning i = true ∧
      (s.vf b.vf).enabled = false ∧ l ∉ u.locals i ∧ (u.enabledIn i).length < 24)
    (fun s t => s.replied t d (sliceReply 0x23 0) ∧ (t.vf b.vf).enabled = true ∧ (t.vf b.vf).slice = i ∧ (t.vf b.vf).local_ = l ∧
      (t.vf b.vf).key ≠ none ∧ (t.vf b.vf).prod = 0 ∧ ∀ v, v ≠ b.vf → s.sameVf t v)) ∧
  (∀ cmd u d b, takes (.vfoff cmd) (fun s => s.commanded u d 0x24 cmd b ∧ b.vf < 384 ∧ u.backed (u.vfRowAt b.vf) = true ∧
      (s.vf b.vf).enabled = true ∧ ∀ e ∈ (u.cp (u.cpOf b.vf)).queues, e.2.vf = b.vf → e.2.st = .stopped)
    (fun s t => s.replied t d (sliceReply 0x24 0) ∧ (t.vf b.vf).enabled = false ∧ (t.vf b.vf).key = none ∧ t.slices = s.slices)) ∧
  (∀ cmd u d b, takes (.core cmd) (fun s => s.commanded u d 0x2C cmd b ∧ b.sa < 16 ∧ s.isRunning b.sa = true ∧
      b.core < 4 * (s.slice b.sa).allClusters.length ∧ b.core < 192 ∧ (s.slice b.sa).clusters &&& (s.slice b.sa).borrowed = 0)
    (fun s t => s.replied t d (sliceReply 0x2C 0) ∧
      ((s.slice b.sa).has ((s.slice b.sa).allClusters.getD (b.core / 4) 0) = true → (t.core ((s.slice b.sa).coreOf b.core)).online = b.on) ∧
      (∀ i < 192, (t.slice b.sa).offline.getLsbD i = if i = b.core then !b.on else (s.slice b.sa).offline.getLsbD i) ∧
      ∀ i, i ≠ b.sa → t.slice i = s.slice i)) ∧
  (∀ cmd u d b, takes (.flags cmd) (fun s => s.commanded u d 0x2D cmd b ∧ b.sa < 16 ∧ b.flagsOk = true ∧ s.isRunning b.sa = true ∧
      b.prot = (s.slice b.sa).prot)
    (fun s t => s.replied t d (sliceReply 0x2D 0) ∧
      t.slice b.sa = { s.slice b.sa with boost := b.boost, race := b.race, tslice := b.tslice } ∧ ∀ i, i ≠ b.sa → t.slice i = s.slice i)) ∧
  (∀ cmd u d b r, takes (.region cmd) (fun s => s.commanded u d 0x30 cmd b ∧ regionCheck u b = 0 ∧ (s.slice b.sa).apbase % 32 = 0 ∧
      r = ownerOf (u.nat (u.ownerAt b.sa (b.apb / 2 ^ 21)) 8))
    (fun s t => s.replied t d (sliceReply 0x30 0) ∧ t.slices = s.slices ∧
      Store.find t.regions (b.sa * 2 ^ 32 + b.apb / 2 ^ 21) = (if r.kind = 0 then none else some r) ∧
      let a := (s.slice b.sa).apbase + b.apb
      let n := (s.slice b.sa).apbase + r.tree * 2 ^ 21 + 0x22280 * r.slot
      (r.kind = 1 → ∀ x, (a ≤ x ∧ x < a + 2 ^ 21) ∨ (n ≤ x ∧ x < n + 0x22280) → t.byte x = 0) ∧
      ∀ x, (x < a ∨ a + 2 ^ 21 ≤ x) → (r.kind ≠ 1 ∨ x < n ∨ n + 0x22280 ≤ x) → t.byte x = s.byte x)) ∧
  (∀ cmd u d b, takes (.lend cmd) (fun s => s.commanded u d 0x25 cmd b ∧ b.sa < 16 ∧ b.sb < 16 ∧ b.cl < 48 ∧ s.isRunning b.sa = true ∧
      s.isRunning b.sb = true ∧ b.sa ≠ b.sb ∧ (s.slice b.sa).clusters.getLsbD b.cl = true ∧ (s.slice b.sa).lent.getLsbD b.cl = false ∧
      (s.slice b.sa).prot = false ∧ (s.slice b.sb).prot = false)
    (fun s t => t.cmd = some (b.begun cmd 0x25 d) ∧ t.slices = s.slices ∧ (t.mbox d 0).outb = (s.mbox d 0).outb)) ∧
  (∀ cmd u d b o r, takes (.recall cmd) (fun s => s.commanded u d 0x26 cmd b ∧ b.cl < 48 ∧ s.lending b.cl = some (o, r) ∧
      ∀ x ∈ s.recalls, x.cluster ≠ b.cl)
    (fun s t => t.recalls = s.recalls ++ [{ cluster := b.cl, owner := o, borrower := r, step := 1, cmd := some cmd, die := d }] ∧
      t.cmd = s.cmd ∧ (t.mbox d 0).outb = (s.mbox d 0).outb)) ∧
  (∀ cl r, takes (.recallJobDeadline cl) (fun s => r ∈ s.recalls ∧ r.cluster = cl ∧ r.step = 2 ∧ s.clusterJobs cl ≠ [] ∧
      ∀ e ∈ s.clusterJobs cl, ∀ q ∈ s.reqs, q.2.g = engG e.1 → q.2.fab = .unsent ∨ q.2.kind.writes = false)
    (fun s t => t.clusterJobs cl = [] ∧ t.mem = s.mem ∧ t.recalls = s.recalls)) ∧
  (∀ cmd u d b k, takes (.merge cmd) (fun s => s.commanded u d 0x27 cmd b ∧ b.sa < 16 ∧ b.sb < 16 ∧ u.isRunning b.sa = true ∧
      u.isRunning b.sb = true ∧ b.sa ≠ b.sb ∧ (∀ l ∈ u.locals b.sa, l ∉ u.locals b.sb) ∧ (u.slice b.sa).prot = (u.slice b.sb).prot ∧
      k = u.delta b.sa b.sb ∧ (k < 7 ∨ 9 < k) ∧
      (let n := (clustersOf (u.slice b.sa).clusters).length + (clustersOf (u.slice b.sb).clusters).length
       n ≤ 48 ∧ u.apFree (u.slice b.sa).apbase n [b.sa, b.sb] = true) ∧ (u.enabledIn b.sa).length + (u.enabledIn b.sb).length ≤ 24 ∧
      (∀ q ∈ u.usedQueues b.sb, q ∉ u.usedQueues b.sa ∧ q < (u.cp (u.slice b.sa).cpn.toNat).nq))
    (fun s t => (∃ c, t.cmd = some c ∧ c.op = 0x27 ∧ c.sa = b.sa ∧ c.sb = b.sb ∧ c.step = 0) ∧
      (t.slice b.sa).st = .quiescing ∧ (t.slice b.sb).st = .quiescing ∧ (t.mbox d 0).outb = (s.mbox d 0).outb)) ∧
  (∀ cmd u d b, takes (.split cmd) (fun s => s.commanded u d 0x28 cmd b ∧ b.sa < 16 ∧ b.sb < 16 ∧ b.cpn < 16 ∧ b.vfs < 2 ^ 24 ∧ b.maskOk = true ∧
      b.clusters &&& ~~~(u.slice b.sa).clusters = 0 ∧ b.clusters ≠ (u.slice b.sa).clusters ∧ u.isRunning b.sa = true ∧ (u.slice b.sb).st = .free ∧
      b.apb % (16 * 2 ^ 30) = 0 ∧ u.apFree b.apb (clustersOf b.clusters).length [b.sa] = true ∧ u.cpTaken b.cpn = false ∧
      (let x := u.slice b.sa
       let n := (clustersOf b.clusters).length
       b.apb + 12 * 2 ^ 30 * n ≤ x.apbase ∨ x.apbase + 12 * 2 ^ 30 * ((clustersOf x.clusters).length - n) ≤ b.apb))
    (fun s t => (∃ c, t.cmd = some c ∧ c.op = 0x28 ∧ c.sa = b.sa ∧ c.sb = b.sb ∧ c.step = 0 ∧ c.mask = b.clusters) ∧
      (t.slice b.sa).st = .quiescing ∧ (t.mbox d 0).outb = (s.mbox d 0).outb)) ∧
  (∀ cmd u d b, takes (.resize cmd) (fun s => s.commanded u d 0x29 cmd b ∧ b.sa < 16 ∧ b.maskOk = true ∧ u.isRunning b.sa = true ∧
      b.clusters &&& u.ownedBut [b.sa] = 0 ∧ u.apFree (u.slice b.sa).apbase (clustersOf b.clusters).length [b.sa] = true)
    (fun s t => (∃ c, t.cmd = some c ∧ c.op = 0x29 ∧ c.sa = b.sa ∧ c.step = 0 ∧ c.mask = b.clusters) ∧
      (t.slice b.sa).st = .quiescing ∧ (t.mbox d 0).outb = (s.mbox d 0).outb)) ∧
  (∀ cmd u d b, takes (.exportSlice cmd) (fun s => s.commanded u d 0x2A cmd b ∧ b.sa < 16 ∧ hostBase ≤ b.buf ∧ u.isRunning b.sa = true ∧
      (u.slice b.sa).migKey ≠ none ∧
      blobLen (stateLen u.free) (u.enabledIn b.sa).length (u.slice b.sa).apLen ≤ b.blen)
    (fun s t => (∃ c, t.cmd = some c ∧ c.op = 0x2A ∧ c.sa = b.sa ∧ c.step = 0 ∧ c.buf = b.buf) ∧ (t.slice b.sa).st = .quiescing ∧
      ((∀ v ∈ u.enabledIn b.sa, u.tstate v ≠ 1 ∧ u.tstate v ≠ 2) → (t.mbox d 0).outb = (s.mbox d 0).outb))) ∧
  (∀ cmd u d b, takes (.importSlice cmd) (fun s => s.commanded u d 0x2B cmd b ∧ b.sa < 16 ∧ b.cpn < 16 ∧ b.maskOk = true ∧ hostBase ≤ b.buf ∧
      (u.slice b.sa).st = .free ∧ (u.slice b.sa).migKey ≠ none ∧ b.clusters &&& u.ownedBut [] = 0 ∧ b.apb % (16 * 2 ^ 30) = 0 ∧
      u.apFree b.apb (clustersOf b.clusters).length [] = true ∧ u.cpTaken b.cpn = false ∧ u.nat (b.buf + 6) 1 = (clustersOf b.clusters).length)
    (fun s t => (∃ c, t.cmd = some c ∧ c.op = 0x2B ∧ c.sa = b.sa ∧ c.step = 0) ∧ (t.slice b.sa).st = .importing ∧
      (t.slice b.sa).clusters = b.clusters ∧ (t.slice b.sa).apbase = b.apb ∧ (t.mbox d 0).outb = (s.mbox d 0).outb))

/-- R458–R467, R474–R477, R499: the steps that a command in progress takes, in their order; cores halt, pools are exchanged and return; a protected
slice's time slices pass from VF to VF; the boot ROM accepts an image or stops with its cause; loss of power leaves the host's memory and the fuses.
Model's choices: log 69, 70, 76, 160. -/
def Obligations.SliceSteps : Prop :=
  let runs (s : State) (c : SlCmd) (i n : Nat) : Prop := s.anyStall = false ∧ s.cmd = some c ∧ c.sa = i ∧ (s.mbox c.die 0).outb.length < 16 ∧ c.reshapes = true ∧ c.step = n
  (∀ i c, takes (.quiesceStep i)
    (fun s => s.anyStall = false ∧ s.cmd = some c ∧ c.sa = i ∧ (s.mbox c.die 0).outb.length < 16 ∧ c.op = 0x25 ∧ c.cl < 48 ∧ s.blocksOn (coresOf [c.cl]) = [] ∧
      s.clusterJobs c.cl = [])
    (fun s t => t.cmd = none ∧ (t.slice c.sb).borrowed.getLsbD c.cl = true ∧ (t.slice c.sa).lent.getLsbD c.cl = true ∧
      s.replied t c.die (sliceReply 0x25 0))) ∧
  (∀ i c, takes (.quiesceStep i)
    (fun s => s.anyStall = false ∧ s.cmd = some c ∧ c.sa = i ∧ (s.mbox c.die 0).outb.length < 16 ∧ c.op = 0x2B ∧ field (s.bytes c.buf 256) 0 4 ≠ 0x4F4C5342)
    (fun s t => t.cmd = none ∧ (t.slice i).st = .free ∧ s.replied t c.die (sliceReply 0x2B 5))) ∧
  (∀ i c, takes (.quiesceStep i) (fun s => runs s c i 0 ∧ ∀ j ∈ c.slices, (s.slice j).lent = 0 ∧ (s.slice j).borrowed = 0)
    (fun s t => t = { s with cmd := some { c with step := 1 } })) ∧
  (∀ i c, takes (.quiesceStep i) (fun s => runs s c i 1)
    (fun s t => t.cmd = some { c with step := 2 } ∧ (∀ j ∈ c.slices, (t.cp (s.slice j).cpn.toNat).stopped = true) ∧ t.mem = s.mem ∧ t.slices = s.slices)) ∧
  (∀ i c, takes (.quiesceStep i) (fun s => runs s c i 2 ∧ (∀ e ∈ s.jobs, e.2.slice ∉ c.slices) ∧ ∀ e ∈ s.cores, e.2.mq = [])
    (fun s t => t = { s with cmd := some { c with step := 3 } })) ∧
  (∀ i c, takes (.quiesceStep i) (fun s => runs s c i 3 ∧ ∀ j ∈ c.slices, j ∈ c.exch) (fun s t => t = { s with cmd := some { c with step := 4 } })) ∧
  (∀ i c, takes (.quiesceStep i) (fun s => runs s c i 4 ∧ ∀ e ∈ s.reqs, e.2.slice ∉ c.slices)
    (fun s t => t = { s with cmd := some { c with step := 5 } })) ∧
  (∀ i c, takes (.quiesceStep i) (fun s => runs s c i 5 ∧ c.op = 0x27 ∧ c.sa ≠ c.sb ∧ c.sa < 16 ∧ c.sb < 16)
    (fun s t => t.cmd = some { c with step := 6 } ∧ (t.slice c.sa).gen = (t.slice c.sb).gen ∧
      (t.slice c.sa).gen = (if s.delta c.sa c.sb ≤ 8 then (s.slice c.sb).gen + 1 else (s.slice c.sa).gen + 1) ∧ ∀ e ∈ t.groups, e.2.hwatch = [] ∨ s.sliceOf e.2 ∉ c.slices)) ∧
  (∀ i c, takes (.quiesceStep i) (fun s => runs s c i 6 ∧ c.op ≠ 0x2A ∧ ∀ l ∈ s.fab.lines, l.slice ∉ c.slices)
    (fun s t => t.cmd = some { c with step := 7 } ∧ (∀ e ∈ t.blocks, e.2.slice ∈ c.slices → e.2.inGourd = false) ∧ s.imagesOnly t)) ∧
  (∀ i c, takes (.quiesceStep i) (fun s => runs s c i 8 ∧ c.op ≠ 0x2A ∧ (s.slice i).st = .quiescing)
    (fun s t => t.cmd = none ∧ (t.slice i).st = .running ∧ (t.cp (s.slice i).cpn.toNat).stopped = false ∧
      s.replied t c.die (sliceReply c.op.toNat 0))) ∧
  (∀ cores r, takes (.haltCores cores)
    (fun s => s.recalls.find? (fun x => x.step == 1 && coresOf [x.cluster] == cores) = some r)
    (fun s t => (∀ c ∈ cores, (t.core c).halted = true) ∧ (∀ x ∈ t.recalls, x.cluster = r.cluster → x.step = 2) ∧ s.imagesOnly t)) ∧
  (∀ cores c, takes (.haltCores cores)
    (fun s => (∀ x ∈ s.recalls, x.step = 1 → coresOf [x.cluster] ≠ cores) ∧ s.cmd = some c ∧ c.reshapes = true ∧ c.step = 3 ∧ s.involved c = cores ∧
      ∃ k ∈ cores, (s.core k).halted = false)
    (fun s t => (∀ k ∈ cores, (t.core k).halted = true) ∧ t.cmd = s.cmd ∧ s.imagesOnly t ∧
      ∀ g gr, s.group g = some gr → gr.core ∈ cores → gr.priv = false → (gr.st = .active ∨ gr.st = .pending) → ∃ gr', t.group g = some gr' ∧
        gr'.st = .preempted ∧ gr'.s = gr.s)) ∧
  (∀ i cores r, takes (.gourdExchange i cores)
    (fun s => s.recalls.find? (fun x => x.step == 2 && x.borrower == i && coresOf [x.cluster] == cores) = some r ∧ r.cluster < 48 ∧
      s.anyStall = false ∧ s.clusterJobs r.cluster = [] ∧ (∀ k ∈ cores, (s.core k).mq = []) ∧ s.gourdFree cores = true)
    (fun _ t => (t.slice r.borrower).borrowed.getLsbD r.cluster = false ∧ (t.slice r.owner).lent.getLsbD r.cluster = false ∧
      (∀ x ∈ t.recalls, x.cluster ≠ r.cluster) ∧ ∀ k ∈ cores, (t.core k).halted = false)) ∧
  (∀ i cores c, takes (.gourdExchange i cores)
    (fun s => (∀ x ∈ s.recalls, x.step = 2 → x.borrower = i → coresOf [x.cluster] ≠ cores) ∧ s.cmd = some c ∧ c.reshapes = true ∧ c.step = 3 ∧
      i ∈ c.slices ∧ i ∉ c.exch ∧ coresOf (clustersOf (s.slice i).clusters) = cores ∧ (∀ k ∈ cores, (s.core k).halted = true ∧ (s.core k).mq = []) ∧
      (∀ e ∈ s.jobs, e.2.slice ≠ i) ∧ s.gourdFree cores = true)
    (fun s t => t.cmd = some { c with exch := i :: c.exch } ∧ t.mem = s.mem ∧ t.slices = s.slices)) ∧
  (∀ b x, takes (.gourdWriteOut b) (fun s => s.block b = some x ∧ x.inGourd = true)
    (fun s t => t.block b = some { x with inGourd := false } ∧ (∀ a, a ≠ b → t.block a = s.block a) ∧ s.imagesOnly t)) ∧
  (∀ i, takes (.timeSliceEnd i) (fun s => (s.slice i).prot = true ∧ (s.slice i).st = .running ∧ s.enabledIn i ≠ [] ∧
      (∀ e ∈ s.cores, ∀ m ∈ e.2.mq, m.2.started = false) ∧ s.gourdFree (coresOf (clustersOf (s.slice i).clusters)) = true ∧
      ∀ e ∈ s.jobs, s.jobAsks e.1 = false)
    (fun s t => t.slice i = { s.slice i with turnVf := nextLocal (s.locals i) (s.slice i).turnVf } ∧ s.imagesOnly t ∧ t.reqs = s.reqs)) ∧
  (takes .boostLimit (fun s => s.capped = false) (fun s t => t = { s with capped := true })) ∧
  (∀ die v, takes (.powerGood die v) (fun s => die < 4 ∧ (s.die die).bstate = 0)
    (fun s t => t.powered = true ∧ t.mem = s.mem ∧ (t.die die).bstate = 1)) ∧
  (∀ die v, takes (.powerGood die v)
    (fun s => die < 4 ∧ (s.die die).bstate = 1 ∧ (die = 0 ∨ (s.die 0).bstate = 3) ∧ ∀ w, s.flashCopy die = some w → w = v)
    (fun s t => t.mem = s.mem ∧ if imageStep v s.sec.fusecnt = 0 then (t.die die).bstate = 2 ∧ (t.die die).svn = imageSvn v
      else if (s.die die).retried then (t.die die).bstate = 15 ∧ (t.die die).bcause = imageStep v s.sec.fusecnt
      else (t.die die).bstate = 1 ∧ (t.die die).retried = true)) ∧
  (∀ die v k, takes (.powerGood die v)
    (fun s => die < 4 ∧ (s.die die).bstate = 2 ∧ (s.die die).image = some v ∧ fwKernel v (codeBase die) = some k)
    (fun s t => t.mem = s.mem ∧ if die = 0 ∧ imageAdvance v = true ∧ s.sec.fusecnt < imageSvn v
      then t.sec.fusecnt = s.sec.fusecnt + 1 ∧ (t.die die).bstate = 2
      else (t.die die).bstate = 3 ∧ (t.die die).code = v.body ∧ t.sec.fusecnt = s.sec.fusecnt ∧ ∃ b, Store.find t.blocks s.nextId = some b ∧
        b.vf = fwVf ∧ b.placed = true ∧ b.entry = k.entry ∧ b.ngroups = v.groups)) ∧
  (takes .powerLoss (fun s => s.powered = true)
    (fun s t => t.powered = false ∧ t.groups = [] ∧ t.blocks = [] ∧ t.cores = [] ∧ t.sec.fusecnt = s.sec.fusecnt ∧
      ∀ a, t.byte a = if hostBase ≤ a then s.byte a else 0))

/-! ### The host link -/

/-- R472, R478–R483: the device answers discovery and SPDM requests once die 0 has booted; the texts are uninterpreted, the layout generation and the
security versions in them are the machine's. Sessions open up to 16 and end; a key or a migration key is installed only at the layout generation
named; streams take keys, go and stop.
Model's choices: log 79, 80, 81, 168. -/
def Obligations.Attestation : Prop :=
  let tells (e : Instr) (pre : State → Prop) : Prop := takes e (fun s => s.hostUp = true ∧ pre s) (fun s t => ∃ bs, { t with free := s.free } = s.answer bs)
  let retries (e : Instr) : Prop := takes e (fun s => s.hostUp = false) (fun s t => { t with free := s.free } = s.answer [])
  let within (e : Nat → Instr) : Prop := ∀ n, tells (e n) (fun s => n ∈ s.sec.sessions)
  (∀ n, takes (.doeDiscovery n) (fun s => s.hostUp = true ∧ n < 3)
    (fun s t => t = s.answer [1, 0, BitVec.ofNat 8 n, if n = 2 then 0 else BitVec.ofNat 8 (n + 1)])) ∧
  (∀ n, retries (.doeDiscovery n) ∧ retries (.getVersion n) ∧ retries (.getCapabilities n) ∧ retries (.negotiateAlgorithms n) ∧ retries (.getDigests n) ∧
    retries (.keyExchange n) ∧ retries (.finish n) ∧ retries (.heartbeat n) ∧ retries (.keyUpdate n) ∧ retries (.endSession n)) ∧
  (∀ n, tells (.doeDiscovery n) (fun _ => True)) ∧ (∀ n, tells (.getCapabilities n) (fun _ => True)) ∧
  (∀ n, takes (.getVersion n) (fun s => s.hostUp = true) (fun s t => t = s.answer versionMsg)) ∧
  (∀ n, takes (.negotiateAlgorithms n) (fun s => s.hostUp = true) (fun s t => t = s.answer algorithmsMsg)) ∧ (∀ n, tells (.getDigests n) (fun _ => True)) ∧
  (∀ n k, tells (.getCertificate n k) (fun _ => True)) ∧ (∀ n k, tells (.challenge n k) (fun _ => True)) ∧
  (∀ n k, tells (.getMeasurements n k) (fun _ => True)) ∧
  (∀ n, takes (.getMeasurements n 8) (fun s => s.hostUp = true) (fun s t => t = s.answer (signed (sesBytes n ++ leBytes 8 s.sec.layoutgen.toNat)))) ∧
  (∀ n, takes (.getMeasurements n 6) (fun s => s.hostUp = true)
    (fun s t => t = s.answer (signed (sesBytes n ++ (leBytes 1 s.sec.fusecnt ++ leBytes 1 (s.die 0).svn))))) ∧
  within .finish ∧ within .heartbeat ∧ within .keyUpdate ∧
  (∀ n, takes (.keyExchange n) (fun s => s.hostUp = true ∧ n ∉ s.sec.sessions ∧ s.sec.sessions.length < 16)
    (fun s t => (∀ x, x ∈ t.sec.sessions ↔ x = n ∨ x ∈ s.sec.sessions) ∧ t.sec.sessions.length = s.sec.sessions.length + 1 ∧
      t.sec.answers.length = s.sec.answers.length + 1 ∧ t.mem = s.mem)) ∧
  (∀ n, takes (.keyExchange n) (fun s => s.hostUp = true ∧ n ∉ s.sec.sessions ∧ 16 ≤ s.sec.sessions.length)
    (fun s t => t = s.answer (spdmError 0x03))) ∧
  (∀ n, takes (.endSession n) (fun s => s.hostUp = true ∧ n ∈ s.sec.sessions)
    (fun s t => (∀ x, x ∈ t.sec.sessions ↔ x ∈ s.sec.sessions ∧ x ≠ n) ∧ t.sec.answers.length = s.sec.answers.length + 1 ∧ t.mem = s.mem)) ∧
  (∀ n v meter nonce, takes (.evidence n v meter nonce)
    (fun s => s.hostUp = true ∧ s.cmd = none ∧ (∀ r ∈ s.recalls, r.cmd = none) ∧ v < 384)
    (fun s t => ∃ bs, t = (if meter then s.estimateEnergy else s).answer bs)) ∧
  (∀ n k v gen key, takes (.install n k v gen key) (fun s => s.hostUp = true ∧ (k = 1 ∨ k = 2) ∧ n ∉ s.sec.sessions) (fun s t => t = s.answer [3])) ∧
  (∀ n v gen key, takes (.install n 1 v gen key) (fun s => s.hostUp = true ∧ n ∈ s.sec.sessions ∧ (384 ≤ v ∨ s.tstate v ≠ 1))
    (fun s t => t = s.answer [2])) ∧
  (∀ n k v gen key, takes (.install n k v gen key)
    (fun s => s.hostUp = true ∧ (k = 2 ∨ (k = 1 ∧ v < 384 ∧ s.tstate v = 1)) ∧ n ∈ s.sec.sessions ∧ gen ≠ s.sec.layoutgen)
    (fun s t => t = s.answer [1])) ∧
  (∀ n i gen key, takes (.install n 2 i gen key) (fun s => s.hostUp = true ∧ n ∈ s.sec.sessions ∧ gen = s.sec.layoutgen ∧ 16 ≤ i)
    (fun s t => t = s.answer [2])) ∧
  (∀ n v gen key, takes (.install n 1 v gen key) (fun s => s.hostUp = true ∧ n ∈ s.sec.sessions ∧ gen = s.sec.layoutgen ∧ v < 384 ∧ s.tstate v = 1)
    (fun s t => (t.vf v).key = some key ∧ t.sec.answers = s.sec.answers ++ [[0]] ∧ (∀ x, x ≠ v → s.sameVf t x))) ∧
  (∀ n i gen key, takes (.install n 2 i gen key) (fun s => s.hostUp = true ∧ n ∈ s.sec.sessions ∧ gen = s.sec.layoutgen ∧ i < 16)
    (fun s t => (t.slice i).migKey = some (key.setWidth 256) ∧ t.sec.answers = s.sec.answers ++ [[0]] ∧ t.mem = s.mem)) ∧
  (∀ n k key, takes (.keyProg n k key) (fun s => s.hostUp = true ∧ s.stalled 16 = false ∧ n ∈ s.sec.sessions ∧ k < 64)
    (fun s t => t.stream k = { s.stream k with key := some key } ∧ ∀ j, j ≠ k → t.stream j = s.stream j)) ∧
  (∀ n k, takes (.kSetGo n k) (fun s => s.hostUp = true ∧ s.stalled 16 = false ∧ n ∈ s.sec.sessions ∧ k < 64)
    (fun s t => (t.stream k).go = (s.stream k).key.isSome ∧ ∀ j, j ≠ k → t.stream j = s.stream j)) ∧
  (∀ n k, takes (.kSetStop n k) (fun s => s.hostUp = true ∧ s.stalled 16 = false ∧ n ∈ s.sec.sessions ∧ k < 64)
    (fun s t => (t.stream k).go = false ∧ ∀ j, j ≠ k → t.stream j = s.stream j))

/-- R435, R437, R484–R490, R503, R504: a TDISP request that fails its tests is answered with TDISP_ERROR; the lock binds stream, nonce and layout
generation, the report is answered, the start needs the nonce, the stop gives the VF a fresh key; a write of a frozen register puts the VF into
ERROR; an access to a VF's BAR0 that R486 does not accept has no effect; Nymlink reads and writes are performed at the home.
Model's choices: log 79, 82, 84. -/
def Obligations.HostLink : Prop :=
  let asks (s : State) (op : Nat) (ses : Byte) (msg : List Byte) : Prop := s.hostUp = true ∧ s.stalled 16 = false ∧ s.sec.doeBusy = false ∧ field msg 1 1 = op ∧ msg ≠ [] ∧
    msg.length ≤ 4096 ∧ (s.mbox 0 0).inb.length < 16 ∧ ses ≠ 0xFF ∧ field msg 0 1 = 0x10 ∧ s.tdispVf msg < 384 ∧
    ∀ a, s.sltbase ≤ a → a < s.sltbase + 0x15000 → s.backed a = true ∧ s.poisoned a 1 = false ∧ s.inTree (a / 128) = none
  let refused (e : Byte → List Byte → Instr) (op : Nat) : Prop := ∀ msg, takes (e 0xFF msg)
    (fun s => s.hostUp = true ∧ s.stalled 16 = false ∧ s.sec.doeBusy = false ∧ field msg 1 1 = op ∧ msg ≠ [] ∧ msg.length ≤ 4096 ∧
      (s.mbox 0 0).inb.length < 16)
    (fun s t => t.sec.answers = s.sec.answers ++ [tdispErr 0x0001 msg] ∧ (∀ v, s.sameVf t v) ∧ t.regions = s.regions)
  (refused .lockInterfaceRequest 0x83 ∧ refused .getDeviceInterfaceReport 0x84 ∧ refused .startInterfaceRequest 0x86 ∧
    refused .stopInterfaceRequest 0x87) ∧
  (∀ ses msg v, takes (.lockInterfaceRequest ses msg)
    (fun s => asks s 0x83 ses msg ∧ v = s.tdispVf msg ∧ (s.vf v).enabled = true ∧ s.tstate v = 0 ∧ field msg 16 2 / 8 % 2 = 0 ∧
      field msg 18 1 < 64 ∧ (s.stream (field msg 18 1)).go = true ∧ s.serves (field msg 18 1) v = true)
    (fun s t => t.tstate v = 1 ∧ t.sec.layoutgen = s.sec.layoutgen + 1 ∧ t.nat (s.ifRow v + 8) 8 = t.sec.layoutgen.toNat ∧
      t.boundStream v = field msg 18 1 ∧ t.sec.answers = s.sec.answers ++ [tdispHead 0x03 msg ++ t.bytes (s.ifRow v + 0x10) 32])) ∧
  (∀ ses msg v, takes (.getDeviceInterfaceReport ses msg)
    (fun s => asks s 0x84 ses msg ∧ v = s.tdispVf msg ∧ (s.tstate v = 1 ∨ s.tstate v = 2) ∧ field msg 16 2 < 52)
    (fun s t => let o := field msg 16 2
      let p := min (field msg 18 2) (52 - o)
      t.sec.answers = s.sec.answers ++ [tdispHead 0x04 msg ++ leBytes 2 p ++ leBytes 2 (52 - o - p) ++ ((s.report v).drop o).take p] ∧
      t.tstate v = s.tstate v)) ∧
  (∀ ses msg v, takes (.startInterfaceRequest ses msg)
    (fun s => asks s 0x86 ses msg ∧ v = s.tdispVf msg ∧ s.tstate v = 1 ∧ (msg.drop 16).take 32 = s.bytes (s.ifRow v + 0x10) 32)
    (fun s t => t.tstate v = 2 ∧ t.sec.answers = s.sec.answers ++ [tdispHead 0x06 msg])) ∧
  (∀ ses msg v, takes (.startInterfaceRequest ses msg)
    (fun s => asks s 0x86 ses msg ∧ v = s.tdispVf msg ∧ s.tstate v = 1 ∧ (msg.drop 16).take 32 ≠ s.bytes (s.ifRow v + 0x10) 32)
    (fun s t => t.tstate v = 1 ∧ t.sec.answers = s.sec.answers ++ [tdispErr 0x0102 msg])) ∧
  (∀ ses msg v, takes (.stopInterfaceRequest ses msg)
    (fun s => asks s 0x87 ses msg ∧ v = s.tdispVf msg ∧ (s.vf v).enabled = true)
    (fun s t => t.tstate v = 0 ∧ (t.vf v).key ≠ none ∧ t.sec.answers = s.sec.answers ++ [tdispHead 0x07 msg])) ∧
  (∀ ses msg op, takes (.unsupportedTdispRequest ses msg)
    (fun s => asks s op ses msg ∧ op ≠ 0x83 ∧ op ≠ 0x84 ∧ op ≠ 0x86 ∧ op ≠ 0x87)
    (fun s t => t.sec.answers = s.sec.answers ++ [tdispErr 0x0007 msg] ∧ ∀ v, s.sameVf t v)) ∧
  (takes .tdispAbort (fun s => (s.mbox 0 0).inb.length < 16)
    (fun s t => t.sec.doeAborted = s.sec.doeBusy ∧ (t.mbox 0 0).inb = (s.mbox 0 0).inb ++ [0x3A00000000000000] ∧ t.mem = s.mem)) ∧
  (∀ reg v, takes (.frozenRegisterWrite reg v) (fun s => s.hostUp = false) (fun s t => t = s.answer [])) ∧
  (∀ reg v, takes (.frozenRegisterWrite reg v) (fun s => s.hostUp = true ∧ s.stalled 16 = false ∧ s.frozenFor reg = [])
    (fun s t => Store.get 0 t.sec.cfg (cfgKey reg) = v ∧ ∀ x, s.sameVf t x)) ∧
  (∀ reg v f, takes (.frozenRegisterWrite reg v)
    (fun s => s.hostUp = true ∧ s.stalled 16 = false ∧ s.frozenFor reg = [f] ∧ s.backed (s.ifRow f) = true ∧
      s.poisoned (s.ifRow f) 1 = false ∧ s.inTree (s.ifRow f / 128) = none ∧ (∀ e ∈ (s.cp (s.cpOf f)).queues, e.2.vf = f → e.2.st = .stopped) ∧
      (s.mbox 0 0).inb.length < 16)
    (fun s t => Store.get 0 t.sec.cfg (cfgKey reg) = v ∧ t.tstate f = 3 ∧ (t.mbox 0 0).inb = (s.mbox 0 0).inb ++ [BitVec.ofNat 64 (0x39 * 2 ^ 56 + f)])) ∧
  (∀ n f, takes (.wrongStreamTlp n f true) (fun s => n < 64 ∧ f < 384 ∧ s.serves n f = false)
    (fun s t => t = { s with sec := { s.sec with ideDrops := s.sec.ideDrops + 1 } })) ∧
  (∀ n f, takes (.wrongStreamTlp n f false) (fun s => n < 64 ∧ f < 384 ∧ s.serves n f = false)
    (fun s t => t.sec.ideDrops = s.sec.ideDrops + 1 ∧ t.sec.answers = s.sec.answers ++ [[]] ∧ t.mem = s.mem ∧ t.cps = s.cps)) ∧
  (∀ f o w tee n, takes (.hostMmio f o w tee n) (fun s => f < 384 ∧ o < 4096 ∧ o % 8 = 0 ∧ s.hostUp = true ∧ (64 ≤ n ∨ s.serves n f = true) ∧
      s.mmioOk f tee n = false)
    (fun s t => t = if w then s else s.answer [])) ∧
  (∀ f o tee n, takes (.hostMmio f o true tee n)
    (fun s => f < 384 ∧ o < 4096 ∧ o % 8 = 0 ∧ s.hostUp = true ∧ (64 ≤ n ∨ s.serves n f = true) ∧ s.mmioOk f tee n = true)
    (fun s t => t = if (s.vf f).enabled && s.mayRefill (s.cpOf f) (o / 8) && (s.queue (s.cpOf f) (o / 8)).vf == f then s.refill (s.cpOf f) (o / 8) else s)) ∧
  (∀ f o w tee n, takes (.hostMmio f o w tee n) (fun s => f < 384 ∧ o < 4096 ∧ o % 8 = 0 ∧ s.hostUp = true ∧ n < 64 ∧ s.serves n f = false)
    (fun s t => t.sec.ideDrops = s.sec.ideDrops + 1 ∧ t.sec.answers = (if w then s.sec.answers else s.sec.answers ++ [[]]) ∧ t.mem = s.mem ∧
      t.cps = s.cps)) ∧
  (∀ f o tee n, takes (.hostMmio f o false tee n)
    (fun s => f < 384 ∧ o < 4096 ∧ o % 8 = 0 ∧ s.hostUp = true ∧ (64 ≤ n ∨ s.serves n f = true) ∧ s.mmioOk f tee n = true)
    (fun s t => (∃ bs, bs.length = 8 ∧ t.sec.answers = s.sec.answers ++ [bs]) ∧ t.mem = s.mem ∧ t.cps = s.cps)) ∧
  (∀ a n, takes (.nymlinkRead a n) (fun s => s.oneLine a n = true)
    (fun s t => t.sec.answers = s.sec.answers ++ [if s.poisoned a n then [] else s.bytesFor fwVf a n] ∧
      ((∀ v < 384, (s.vf v).enabled = true → s.unraced v) → t = s.answer (if s.poisoned a n then [] else s.bytesFor fwVf a n)))) ∧
  (∀ a bs, takes (.nymlinkWrite a bs)
    (fun s => s.oneLine a bs.length = true ∧ s.pkgRenewing = false ∧ s.partPoison a bs.length = false ∧ s.offTable a bs.length ∧
      s.sees none a bs.length = true ∧ ∀ v < 384, (s.vf v).enabled = true → s.unraced v)
    (fun s t => s.storedAt t a (s.granted .hm a bs) ∧ t.cores = s.cores ∧ t.blocks = s.blocks))

/-! ### The fabric -/

/-- R511–R514, R519–R524: a request goes out as its message on its way, to the secondary where a failover has it sent again; with no route, or no answer in time, its thread parks with REMOTE; a response
reaches the request that waits for it; a recall is answered with the line's data; lines are evicted, marks expire, duplicates and messages that no
node sends are dropped and counted; a directory that has failed is replaced by its secondary.
Model's choices: log 86, 87, 91, 95, 96, 101, 159. -/
def Obligations.FabricMessages : Prop :=
  let sends (e : Nat → Instr) (kind : Nat) : Prop := ∀ r q rt p d, takes (e r)
    (fun s => Store.find s.reqs r = some q ∧ s.waitsAs r q kind = true ∧ s.route q.vf q.pa = some rt ∧ s.remoteWaits (s.reqDie q) < 2048 ∧
      s.wayOf rt = some p ∧ s.earlierWaits r q p = false ∧ s.shadowFirst q = none ∧ s.dirFor q rt kind = some d ∧
      (fabTokens (s.reqMsg q rt kind (s.freshTag s.fab.nextTag 8193)) : Int) ≤ Store.get 0 (s.port p).level q.vf)
    (fun s t => ∃ m, t.fab.out = s.fab.out ++ [(p, m)] ∧ m.kind = kind ∧ m.crit = false ∧ m.ndir = d ∧ (s.failingAt rt.ndir = false → d = rt.ndir) ∧
      m.src = s.fab.pkgid ∧ m.fa = (if kind ≤ 2 then q.pa / 128 * 128 else q.pa) ∧ m.tag = s.freshTag s.fab.nextTag 8193 ∧
      Store.find t.reqs r = some { q with fab := .sent m.tag kind, home := 0x200 + d } ∧ t.mem = s.mem ∧ t.groups = s.groups)
  let stray (e : Nat → Instr) (kind : Nat) : Prop := ∀ r q gr, takes (e r)
    (fun s => Store.find s.reqs r = some q ∧ s.waitsAs r q kind = true ∧ s.route q.vf q.pa = none ∧ q.g < 2 ^ 40 ∧ s.group q.g = some gr ∧
      (gr.lane q.lane).run ≠ .exited ∧ ∀ e ∈ s.sameRead r q, e.2.lane = q.lane → e = (r, q))
    (fun s t => Store.find t.reqs r = none ∧ t.mem = s.mem ∧ ∃ gr', t.group q.g = some gr' ∧ (gr'.lane q.lane).run = .parked ∧
      (gr'.lane q.lane).flt.code = 0x17 ∧ (gr'.lane q.lane).flt.extra = 4 ∧ (gr'.lane q.lane).flt.addr = q.va)
  let answer (s : State) (m : FabMsg) (p k : Nat) (q : Req) (kind : Nat) : Prop := s.arrives 8 m p = true ∧ s.fab.deferred = [] ∧
    s.reqs.find? (fun e => match e.2.fab with | .sent t _ => t == m.tag | .unsent => false) = some (k, q) ∧ q.fab = .sent m.tag kind ∧
    s.rspFits q kind m = true ∧ m.status = 0
  (sends .rd 1 ∧ sends .rdx 2 ∧ sends .wr 3 ∧ stray .rd 1 ∧ stray .rdx 2 ∧ stray .wr 3 ∧ stray .atm 4) ∧
  (∀ r q rt, takes (.atm r)
    (fun s => Store.find s.reqs r = some q ∧ s.waitsAs r q 4 = true ∧ s.route q.vf q.pa = some rt ∧ s.remoteWaits (s.reqDie q) < 2048 ∧
      s.shadowFirst q = none ∧ s.failingAt rt.ndir = false ∧ (s.portUp rt.porta = true ∨ s.portUp rt.portb = true))
    (fun s t => ∃ m, t.fab.out = s.fab.out ++ (s.critWays rt).map (fun p => (p, m)) ∧ m.kind = 4 ∧ m.crit = true ∧ m.ndir = rt.ndir ∧
      m.cseq = Store.get 0 s.fab.ctx rt.ndir + 1 ∧ m.fa = q.pa ∧ Store.get 0 t.fab.ctx rt.ndir = m.cseq ∧
      Store.find t.reqs r = some { q with fab := .sent m.tag 4, home := 0x200 + rt.ndir } ∧ t.mem = s.mem)) ∧
  (∀ d rt p sl rest, takes (.probe d) (fun s => s.routeTo d = some rt ∧ s.wayOf rt = some p ∧ s.usersOf d = sl :: rest)
    (fun s t => ∃ m, t.fab.out = s.fab.out ++ [(p, m)] ∧ m.kind = 5 ∧ m.ndir = d ∧ m.tag ∈ t.fab.probes ∧ t.reqs = s.reqs ∧ t.mem = s.mem)) ∧
  (∀ r q gr tag kind, takes (.remoteTimeout r)
    (fun s => Store.find s.reqs r = some q ∧ q.coh = true ∧ q.fab = .sent tag kind ∧ q.g < 2 ^ 40 ∧ s.group q.g = some gr ∧ (gr.lane q.lane).run ≠ .exited)
    (fun s t => Store.find t.reqs r = none ∧ t.mem = s.mem ∧ ∃ gr', t.group q.g = some gr' ∧ (gr'.lane q.lane).run = .parked ∧
      (gr'.lane q.lane).flt.code = 0x17 ∧ (gr'.lane q.lane).flt.extra = 1)) ∧
  (∀ m p k q gr b, takes (.rsp m p)
    (fun s => answer s m p k q 1 ∧ q.kind = .load ∧ q.g < 2 ^ 40 ∧ q.coh = true ∧ q.sp = none ∧ (s.ncMark q.pa = true ∨ q.hint = 2) ∧
      s.racing q.slice q.rchk = false ∧ s.awaits k q gr b ∧ s.sameRead k q = [(k, q)])
    (fun s t => s.delivered t k q gr b (loadValue q.width (leNat (((s.lineDec q.vf (q.pa / 128 * 128) m.data).drop (q.pa % 128)).take q.bytes))) ∧ t.mem = s.mem)) ∧
  (∀ m p k q, takes (.rsp m p) (fun s => answer s m p k q 2 ∧ s.ncMark q.pa = false)
    (fun s t => Store.find t.reqs k = some { q with fab := .unsent } ∧ t.mem = s.mem ∧ t.groups = s.groups ∧
      ∃ l, t.fabLine q.slice q.vf q.pa = some l ∧ l.st = .M ∧ l.data = s.lineDec q.vf (q.pa / 128 * 128) m.data ∧ l.stamp = m.stamp)) ∧
  (∀ m p, takes (.rsp m p)
    (fun s => s.arrives 8 m p = true ∧ ∀ e ∈ s.reqs, ∀ x k, e.2.fab = .sent x k → x ≠ m.tag)
    (fun s t => m.tag ∉ t.fab.probes ∧ t.reqs = s.reqs ∧ t.mem = s.mem ∧
      Store.get 0 t.fab.heard m.ndir = max (Store.get 0 s.fab.heard m.ndir) m.stamp)) ∧
  (∀ m p l rt, takes (.rcl m p)
    (fun s => s.arrives 9 m p = true ∧ m.fa % 128 = 0 ∧ s.copiesOf m.fa = [l] ∧ l.st = .M ∧ s.route l.vf m.fa = some rt ∧
      (s.lineBusy m.fa = false ∨ m.stamp ≤ l.stamp))
    (fun s t => (∃ w, t.fab.out = s.fab.out ++ (s.critWays rt).map (fun x => (x, w)) ∧ w.kind = 10 ∧ w.crit = true ∧ w.ndir = m.ndir ∧
        w.tag = m.tag ∧ w.fa = m.fa ∧ w.data = s.lineEnc l.vf m.fa l.data) ∧ t.mem = s.mem ∧ t.reqs = s.reqs ∧
      t.copiesOf m.fa = (if m.shared then [{ l with st := .O }] else []) ∧ (m.shared = false → m.nc = true → t.ncMark m.fa = true))) ∧
  (∀ m p, takes (.rcl m p)
    (fun s => s.arrives 9 m p = true ∧ m.fa % 128 = 0 ∧ s.lineBusy m.fa = true ∧ ∀ l ∈ s.copiesOf m.fa, l.stamp < m.stamp)
    (fun s t => t.fab.deferred = s.fab.deferred ++ [(m, p)] ∧ t.fab.out = s.fab.out ∧ t.fab.lines = s.fab.lines ∧ t.mem = s.mem)) ∧
  (∀ m p, takes (.fail m p) (fun s => s.arrives 11 m p = true ∧ s.failingAt m.ndir = false ∧ s.usersOf m.ndir = [] ∧ m.ndir < 256)
    (fun s t => t.fab.failed.getLsbD m.ndir = true ∧
      t.fab.routes = s.fab.routes.map (fun r => if r.ndir = m.ndir then { r with ndir := r.ndir2 } else r))) ∧
  (∀ m p, takes (.fail m p) (fun s => s.arrives 11 m p = true ∧ s.failingAt m.ndir = false ∧ s.usersOf m.ndir ≠ [])
    (fun s t => (∀ i ∈ s.usersOf m.ndir, t.stalled i = true) ∧ t.failingAt m.ndir = true ∧ t.fab.routes = s.fab.routes ∧ t.fab.failed = s.fab.failed)) ∧
  (∀ m p, takes (.badmsg m p) (fun s => m.kind ≠ 8 ∧ m.kind ≠ 9 ∧ m.kind ≠ 11 ∧ p < 16 ∧ (s.port p).st ≠ .down)
    (fun s t => t = { s with fab := { s.fab with badmsg := s.fab.badmsg + 1 } })) ∧
  (∀ m p, takes (.criticalDuplicate m p)
    (fun s => (m.kind = 8 ∨ m.kind = 9 ∨ m.kind = 11) ∧ m.crit = true ∧ s.inWindow m = false ∧ p < 16 ∧ (s.port p).st ≠ .down)
    (fun s t => (t.port p).dups = (s.port p).dups + 1 ∧ t.fab.crx = s.fab.crx ∧ t.reqs = s.reqs ∧ t.mem = s.mem)) ∧
  (∀ i fa l rt, takes (.lineEvict i fa)
    (fun s => s.fab.lines.find? (fun l => l.slice == i && l.fa == fa) = some l ∧ i < 2 ^ 20 ∧ s.lineBusy fa = false ∧ s.route l.vf fa = some rt)
    (fun s t => (∀ x ∈ t.fab.lines, ¬ (x.slice = i ∧ x.vf = l.vf ∧ x.fa = fa)) ∧ t.mem = s.mem ∧
      if l.st = .M ∨ l.st = .O then ∃ w, t.fab.out = s.fab.out ++ (s.critWays rt).map (fun x => (x, w)) ∧ w.kind = 10 ∧ w.ndir = rt.ndir ∧ w.fa = fa ∧
        w.data = s.lineEnc l.vf fa l.data
      else t.fab.out = s.fab.out)) ∧
  (∀ fa, takes (.ncExpire fa) (fun s => s.ncOver fa = true ∧ fa % 128 = 0)
    (fun s t => t.ncMark fa = false ∧ (∀ a, a / 128 * 128 ≠ fa → t.ncMark a = s.ncMark a) ∧ t.fab.lines = s.fab.lines ∧ t.mem = s.mem))

/-- R507–R509, R516–R518: links train, replay, retrain and go down; lanes that err too often retire and their scores decay; buckets refill to their depth;
RELOAD takes the configuration, the routes and the buckets, and a table beyond the limit is refused.
Model's choices: log 92, 93, 94. -/
def Obligations.FabricLinks : Prop :=
  let only (s t : State) (p : Nat) : Prop := (∀ x, x ≠ p → t.port x = s.port x) ∧ t = { s with fab := { s.fab with ports := t.fab.ports } }
  (∀ p n, takes (.linkTrained p n)
    (fun s => p < 16 ∧ s.powered = true ∧ (s.port p).st = .down ∧ s.fab.disable.getLsbD p = false ∧ (n = 1 ∨ n = 2 ∨ n = 4) ∧
      (if n = 4 then 3 else n) ≤ (s.port p).widest)
    (fun s t => only s t p ∧ (t.port p).st = .normal ∧ (t.port p).width = (if n = 4 then 3 else n))) ∧
  (∀ p l, takes (.crcFailure p l) (fun s => p < 16 ∧ l < 4 ∧ ((s.port p).st = .normal ∨ ((s.port p).st = .replay ∧ (s.port p).flitFails < 2)))
    (fun s t => only s t p ∧ (t.port p).st = .replay ∧ (t.port p).crc = (s.port p).crc + 1 ∧ (t.port p).width = (s.port p).width)) ∧
  (∀ p l, takes (.crcFailure p l) (fun s => p < 16 ∧ l < 4 ∧ (s.port p).st = .replay ∧ 2 ≤ (s.port p).flitFails)
    (fun s t => only s t p ∧ (t.port p).st = .retrain ∧ (t.port p).crc = (s.port p).crc + 1 ∧ (t.port p).retrains = (s.port p).retrains + 1)) ∧
  (∀ p, takes (.replayPassed p) (fun s => p < 16 ∧ (s.port p).st = .replay)
    (fun s t => only s t p ∧ (t.port p).st = (if (s.port p).marked then .retrain else .normal) ∧ (t.port p).flitFails = 0)) ∧
  (∀ p ok, takes (.retrain p ok) (fun s => p < 16 ∧ (s.port p).st = .retrain)
    (fun s t => only s t p ∧
      if (s.port p).widest = 0 then (t.port p).st = .down
      else if ok then (t.port p).st = .normal ∧ (t.port p).width = (s.port p).widest
      else if 2 ≤ (s.port p).trainFails then (t.port p).st = .down
      else (t.port p).st = .retrain ∧ (t.port p).trainFails = (s.port p).trainFails + 1)) ∧
  (∀ p l, takes (.laneRetire p l)
    (fun s => p < 16 ∧ l < 4 ∧ (s.port p).retired.getLsbD l = false ∧ s.fab.lhthresh < (s.port p).health.getD l 0)
    (fun s t => only s t p ∧ (∀ i < 4, (t.port p).retired.getLsbD i = (i == l || (s.port p).retired.getLsbD i)) ∧
      (t.port p).st = (if (s.port p).st = .normal then .retrain else (s.port p).st) ∧
      ((s.port p).st = .replay → (t.port p).marked = true))) ∧
  (∀ p, takes (.healthDecay p) (fun s => p < 16 ∧ s.powered = true)
    (fun s t => only s t p ∧ ∀ l, (t.port p).health.getD l 0 = (s.port p).health.getD l 0 / 2)) ∧
  (∀ p, takes (.portDisable p) (fun s => p < 16 ∧ s.fab.disable.getLsbD p = true ∧ (s.port p).st ≠ .down)
    (fun s t => only s t p ∧ (t.port p).st = .down ∧ (t.port p).width = 0)) ∧
  (∀ p, takes (.tokenRefill p) (fun s => p < 16 ∧ s.powered = true ∧ s.reqs = [])
    (fun s t => only s t p ∧ (t.port p).st = (s.port p).st ∧ ∀ v, Store.get 0 (t.port p).level v =
      min ((Store.get 0 (s.port p).depth v : Nat) : Int) (Store.get 0 (s.port p).level v + (s.port p).scaled (Store.get 0 (s.port p).rate v)))) ∧
  (∀ p, takes (.tokenRefill p) (fun s => p < 16 ∧ s.powered = true) (fun s t => only s t p ∧ (t.port p).st = (s.port p).st)) ∧
  (takes .fabricStatusWrite (fun s => s.powered = true ∧ s.sltbase ≠ 0 ∧ s.stalled 16 = false)
    (fun s t => t.fab = s.fab ∧ t.slices = s.slices ∧ ∀ v, s.sameVf t v)) ∧
  (∀ cmd u d, takes (.reload cmd)
    (fun s => d < 4 ∧ s.takeCmd d 0x31 cmd = some u ∧ (∀ x, x < d → s.takeCmd x 0x31 cmd = none) ∧ cmd.extractLsb' 0 56 = 0 ∧ u.bucketsOk = true)
    (fun s t => s.replied t d (sliceReply 0x31 0) ∧ t.mem = s.mem ∧ t.fab.pkgid = s.nat (s.sltbase + 0x15000) 2 % 4096 ∧
      t.fab.disable = BitVec.ofNat 16 (s.nat (s.sltbase + 0x15008) 2) ∧ t.fab.lhthresh = s.nat (s.sltbase + 0x15010) 2 ∧ t.fab.routes = u.readRoutes)) ∧
  (∀ cmd u d, takes (.reload cmd)
    (fun s => d < 4 ∧ s.takeCmd d 0x31 cmd = some u ∧ (∀ x, x < d → s.takeCmd x 0x31 cmd = none) ∧ cmd.extractLsb' 0 56 = 0 ∧ u.bucketsOk = false)
    (fun s t => s.replied t d (sliceReply 0x31 3) ∧ t.mem = s.mem ∧ t.fab = s.fab))

/-! ### The whole machine -/

/-- R45, R48, R69, R73: a step runs the instruction that the slot at the pick's pc decodes to, the pair's second right after it; a slot whose opcode
is no instruction parks the passing threads with ILLOP, reason 1. The satisfied witness arrivals of the slot that a barrier instruction names land before it
(R365). A pick that has issued takes one from its path's quantum; one that came to wait leaves the latches of its group as they were, and its path's turn
ends (R174–R177). With no pick left a step runs the next event.
Model's choices: log 4, 100. -/
def Obligations.StepRunsDecoded : Prop :=
  (∀ s u iss gr d i, s.fetches u iss gr d → decode (lineSlot d (iss.pc.extractLsb' 0 3).toNat) = .ok i →
    step s = afterIssue gr (iss.started gr d) ((iss.started gr d).follower (opcode i))
      (exec i ((u.fetched iss gr d).landed ((gr.toIssue iss (laneMask (iss.live gr))).hold iss.pc d) i))) ∧
  (∀ s u iss gr d e, s.fetches u iss gr d → decode (lineSlot d (iss.pc.extractLsb' 0 3).toNat) = .error e →
    fld 9 76 (lineSlot d (iss.pc.extractLsb' 0 3).toNat) = 511 →
    ∃ x gr', (u.fetched iss gr d).group iss.g = some x ∧
      step s = afterIssue gr (iss.started gr d) ((iss.started gr d).follower (fld 10 86 (lineSlot d (iss.pc.extractLsb' 0 3).toNat)))
        (.next ((u.fetched iss gr d).putGroup iss.g gr')) ∧
      ∀ l, gr'.lane l = if l ∈ iss.live gr then (x.lane l).park l gr.trapvec (checkFault 1 iss.pc) else x.lane l) ∧
  (∀ t gr0 gr iss second, t.group iss.g = some gr → iss.onlyWaits gr = false →
    ∃ u gr', afterIssue gr0 iss second (.next t) = .next u ∧ u.group iss.g = some gr' ∧
      gr' = { gr with quantum := gr.quantum - 1, mid := gr'.mid } ∧ (∀ g, g ≠ iss.g → u.group g = t.group g) ∧ u.mem = t.mem ∧ u.reqs = t.reqs ∧
      u.blocks = t.blocks ∧ u.issueQ = (if t.carried gr.core iss.g then [] else second.toList) ++ t.issueQ) ∧
  (∀ t gr0 gr iss second, t.group iss.g = some gr → iss.onlyWaits gr = true →
    ∃ u gr', afterIssue gr0 iss second (.next t) = .next u ∧ u.group iss.g = some gr' ∧ gr'.latch = gr0.latch ∧ gr'.quantum = 0 ∧
      gr'.stallc = gr.stallc + 1 ∧ (∀ l, { gr'.lane l with served := 0 } = { gr.lane l with served := 0 }) ∧ gr'.s = gr.s ∧ u.mem = t.mem ∧
      u.reqs = t.reqs ∧ u.issueQ = t.issueQ) ∧
  (∀ s iss rest, s.issueQ = iss :: rest → (∀ gr, s.group iss.g = some gr → iss.live gr = []) → step s = .next { s with issueQ := rest }) ∧
  (∀ s e rest, s.issueQ = [] → s.inbox = e :: rest → step s = exec e { s with inbox := rest }) ∧
  (∀ s, s.issueQ = [] → s.inbox = [] → step s = stepEvents s s.events)

/-- How a word placed where the machine fetches next runs from reset: the step executes the instruction it decodes to, for 32 running threads of a
firmware group.
Model's choices: log 3, 21. -/
def Obligations.PlacedWordRuns : Prop :=
  ∀ w i, decode w = .ok i → ∃ s iss, step (State.reset.withFetchWord 96 w.toNat) = afterIssue placedGroup iss none (exec i s) ∧
    s.cur = some iss ∧ iss.g = 0 ∧ iss.lanes = 0xFFFFFFFF ∧ iss.pc = placedPc ∧ iss.first = false ∧
    (∃ gr, s.group 0 = some gr ∧ gr.priv = true ∧ iss.path gr = List.range 32) ∧ s.mem = (State.reset.withFetchWord 96 w.toNat).mem

/-- The words of the chapters' worked encodings decode to the instructions they stand for. -/
def Obligations.DecodeWords : Prop :=
  decode 0x005FF0004004028416000000 = .ok (.add { h := bareHdr 0x004, a := 0x001, b := 0x002, c := 0x210, md := 0x16000000 }) ∧
  decode 0x0C9FF0007842103F80000010 = .ok (.movk { h := bareHdr 0x007, a := 0x210, b := 0x210, imm := 0x3F800000, md := 0x10 }) ∧
  decode 0x701FF0104842100008000000 = .ok (.rdcr { h := bareHdr 0x104, a := 0x210, b := 0x210, imm := 0x0008, sub := 0, pad := 0 }) ∧
  decode 0x801FF010A411068400100220 = .ok (.cpy { h := bareHdr 0x10A, a := 0x104, b := 0x106, c := 0x210, soff := 0x100, width := 2, dims := 1, bt := 0, eflg := 0 }) ∧
  decode 0x861FF021000100840B000200 = .ok (.mma { h := bareHdr 0x210, slota := 0, slotb := 1, acc := 0, c := 0x210, etype := 5, gsz := 2, rnd := 0, ovf := 0, outt := 0, xflg := 0x200 }) ∧
  decode 0x901FF0210412100003000000 = .ok (.bini { h := bareHdr 0x210, a := 0x104, b := 0x210, imm := 3, sub := 0, pad := 0 }) ∧
  decode 0x911FF0210842100003100000 = .ok (.binv { h := bareHdr 0x210, a := 0x210, b := 0x210, imm := 3, sub := 1, pad := 0 }) ∧
  (decode 0 = .error (.notInstruction 0))

/-- R53, R72: decoding the word of any instruction gives it back, with every field, and a word that decodes to an instruction is that
instruction's word: no bit of an encoding is dropped and no two words mean one instruction. -/
def Obligations.DecodeEncode : Prop :=
  (∀ i w, encode i = some w → decode w = .ok i) ∧ (∀ w i, decode w = .ok i → encode i = some w)

/-- R73, R74, R266: for every instruction, the passing threads park with the first check that fails, PRIV for reason 2 and ILLOP with the reason in
EXTRA for the others, and the rest of the path goes on; when the guard itself fails its check, every running thread of the path parks. Nothing
else of the machine changes. -/
def Obligations.FailedChecks : Prop :=
  ∀ i, (encode i).isSome = true → ∃ once, ∀ s iss gr r, s.cur = some iss → s.group iss.g = some gr → failedCheck iss gr i = some r →
    let good := (use i).guardOk && (use i).guardBudget gr
    let ps := if good then gr.passing (use i).h once (iss.path gr) else iss.path gr
    ps ≠ [] → (good = true → gr.guardWait (use i).h (iss.path gr) = none) →
    ∃ gr', exec i s = .next (s.putGroup iss.g gr') ∧ gr'.body = gr.body ∧ gr'.ilines = gr.ilines ∧
      gr.threads gr' iss ps (parked gr (if r = 2 then 0x60 else 0x01) (BitVec.ofNat 32 r) iss.pc)

/-- Every step, of any instruction or event, keeps the memory's canonical form: addresses strictly rising, and no byte listed that an unlisted
address reads as; and the same of the memory that the model keeps for an exported blob.
Model's choices: log 9. -/
def Obligations.MemoryCanonical : Prop := ∀ s t : State, s.canonical → s.stepsTo t → t.canonical

/-- What holds at reset: no barrier slot is armed, every queue is Stopped, mailboxes are empty, ports are down, and the registers named here have the
values of the Reset column of their maps. That the memory lists nothing is the model's choice (log 9).
Model's choices: log 1, 9. -/
def Obligations.ResetState : Prop :=
  let s := State.reset
  s.canonical ∧ s.mem = [] ∧ (∀ slot, Store.find s.bars slot = none) ∧ (∀ c q, (s.queue c q).st = .stopped) ∧
  (∀ c, (s.core c).cycle = 0 ∧ (s.core c).partw = 0x01020040 ∧ (s.core c).orphan = 0 ∧ (s.core c).sramce = 0 ∧ (s.core c).sramue = 0 ∧
    (s.core c).scrubpass = 0) ∧
  (∀ c, (s.cp c).qtbase = 0 ∧ (s.cp c).vtbase = 0 ∧ (s.cp c).nq = 0 ∧ (s.cp c).holdt = 20 ∧ (s.cp c).slots = [] ∧ (s.cp c).spill = []) ∧
  (∀ ch, (s.chan ch).refab = 0 ∧ (s.chan ch).postpone = 0 ∧ (s.chan ch).rfm = 0 ∧ (s.chan ch).abo = 0 ∧ (s.chan ch).throttle = 0 ∧ (s.chan ch).ce = 0 ∧
    (s.chan ch).ue = 0 ∧ (s.chan ch).scrubpos = 0 ∧ (s.chan ch).scrubpass = 0 ∧ (s.chan ch).idleq = 2 ∧ (s.chan ch).period = 12 ∧ (s.chan ch).lastue = 0 ∧
    ∀ b, ((s.chan ch).bank b).debt = 0) ∧
  (∀ d, (s.die d).bstate = 0 ∧ (s.die d).bcause = 0 ∧ (s.die d).svn = 0 ∧ (s.mbox d 0).inb = [] ∧ (s.mbox d 0).outb = []) ∧
  (∀ v k, Store.get 0 (s.vf v).meter k = 0) ∧
  (∀ p, (s.port p).st = .down ∧ (s.port p).width = 0 ∧ (s.port p).retired = 0 ∧ (∀ l, (s.port p).health.getD l 0 = 0) ∧ (s.port p).fec = 0 ∧
    (s.port p).crc = 0 ∧ (s.port p).retrains = 0 ∧ (s.port p).dups = 0) ∧
  s.fab.pkgid = 0 ∧ s.fab.disable = 0 ∧ s.fab.lhthresh = 4096 ∧ s.fab.rtimeout = 1000 ∧ s.fab.badmsg = 0 ∧ s.fab.failed = 0

/-- R45: a line that the assembler packs holds its five words in its slots, its target and pair bits as the slots ask, zero in bits 14:0 of the line word,
and even parity over every chunk of 60 bits, so that fetching it raises no parity fault. -/
def Obligations.AssembledLines : Prop := ∀ (ws : List W96) (xs : List AsmSlot), ws.length = 5 → xs.length = 5 →
  let d := asmLine ws xs
  (∀ k < 5, lineSlot d k = ws.getD k 0 ∧ lineTgt d k = (xs.getD k { i := nopInstr 0 }).tgt) ∧
  (∀ k < 4, linePair d k = (xs.getD k { i := nopInstr 0 }).pair) ∧ (lineWord d).extractLsb' 0 15 = 0 ∧ lineParity d = true
end

