-- ==== Sys2Proof/Laws/Store.lean ====
section
/-! SUPPORT. Laws of stores: reading after writing, and the canonical form that every operation keeps. -/

namespace Sys2Proof.Machine

variable {β : Type}

@[simp] theorem Store.get_nil (d : β) (k : Nat) : Store.get d [] k = d := rfl
@[simp] theorem Store.find_nil (k : Nat) : Store.find ([] : Store β) k = none := rfl

theorem Store.get_del_self (d : β) (m : Store β) (k : Nat) : Store.get d (Store.del m k) k = d := by
  induction m with
  | nil => rfl
  | cons e m ih => obtain ⟨k', v⟩ := e; by_cases h : k' = k <;> simp [Store.del, Store.get, h, ih]

theorem Store.get_del_other (d : β) (m : Store β) {k j : Nat} (h : j ≠ k) : Store.get d (Store.del m k) j = Store.get d m j := by
  induction m with
  | nil => rfl
  | cons e m ih =>
    obtain ⟨k', v⟩ := e
    by_cases hk : k' = k
    · subst hk; simp [Store.del, Store.get, ih, h.symm]
    · simp [Store.del, Store.get, hk, ih]

theorem Store.get_put_self (d : β) (m : Store β) (k : Nat) (v : β) : Store.get d (Store.put m k v) k = v := by
  induction m with
  | nil => simp [Store.put, Store.get]
  | cons e m ih =>
    obtain ⟨k', v'⟩ := e
    by_cases h1 : k < k'
    · simp [Store.put, Store.get, h1]
    · by_cases h2 : k' = k
      · simp [Store.put, Store.get, h2]
      · simp [Store.put, Store.get, h1, h2, ih]

theorem Store.get_put_other (d : β) (m : Store β) {k j : Nat} (v : β) (h : j ≠ k) :
    Store.get d (Store.put m k v) j = Store.get d m j := by
  induction m with
  | nil => simp [Store.put, Store.get, h.symm]
  | cons e m ih =>
    obtain ⟨k', v'⟩ := e
    by_cases h1 : k < k'
    · simp [Store.put, Store.get, h1, h.symm]
    · by_cases h2 : k' = k
      · subst h2; simp [Store.put, Store.get, h.symm]
      · simp [Store.put, Store.get, h1, h2, ih]

@[simp] theorem Store.get_set_self [DecidableEq β] (d : β) (m : Store β) (k : Nat) (v : β) : Store.get d (Store.set d m k v) k = v := by
  unfold Store.set
  split
  · rename_i h; rw [Store.get_del_self, h]
  · exact Store.get_put_self d m k v

theorem Store.get_set_other [DecidableEq β] (d : β) (m : Store β) {k j : Nat} (v : β) (h : j ≠ k) :
    Store.get d (Store.set d m k v) j = Store.get d m j := by
  unfold Store.set
  split
  · exact Store.get_del_other d m h
  · exact Store.get_put_other d m v h

@[simp] theorem Store.find_put_self (m : Store β) (k : Nat) (v : β) : Store.find (Store.put m k v) k = some v := by
  induction m with
  | nil => simp [Store.put, Store.find]
  | cons e m ih =>
    obtain ⟨k', v'⟩ := e
    by_cases h1 : k < k'
    · simp [Store.put, Store.find, h1]
    · by_cases h2 : k' = k
      · simp [Store.put, Store.find, h2]
      · simp [Store.put, Store.find, h1, h2, ih]

theorem Store.find_put_other (m : Store β) {k j : Nat} (v : β) (h : j ≠ k) : Store.find (Store.put m k v) j = Store.find m j := by
  induction m with
  | nil => simp [Store.put, Store.find, h.symm]
  | cons e m ih =>
    obtain ⟨k', v'⟩ := e
    by_cases h1 : k < k'
    · simp [Store.put, Store.find, h1, h.symm]
    · by_cases h2 : k' = k
      · subst h2; simp [Store.put, Store.find, h.symm]
      · simp [Store.put, Store.find, h1, h2, ih]

@[simp] theorem Store.find_del_self (m : Store β) (k : Nat) : Store.find (Store.del m k) k = none := by
  induction m with
  | nil => rfl
  | cons e m ih => obtain ⟨k', v⟩ := e; by_cases h : k' = k <;> simp [Store.del, Store.find, h, ih]

theorem Store.find_del_other (m : Store β) {k j : Nat} (h : j ≠ k) : Store.find (Store.del m k) j = Store.find m j := by
  induction m with
  | nil => rfl
  | cons e m ih =>
    obtain ⟨k', v⟩ := e
    by_cases hk : k' = k
    · subst hk; simp [Store.del, Store.find, ih, h.symm]
    · simp [Store.del, Store.find, hk, ih]

@[simp] theorem Store.find_upd_self (m : Store β) (k : Nat) (f : β → β) : Store.find (Store.upd m k f) k = (Store.find m k).map f := by
  induction m with
  | nil => rfl
  | cons e m ih => obtain ⟨k', v⟩ := e; by_cases h : k' = k <;> simp [Store.upd, Store.find, h, ih]

theorem Store.find_upd_other (m : Store β) {k j : Nat} (f : β → β) (h : j ≠ k) : Store.find (Store.upd m k f) j = Store.find m j := by
  induction m with
  | nil => rfl
  | cons e m ih =>
    obtain ⟨k', v⟩ := e
    by_cases hk : k' = k
    · subst hk; simp [Store.upd, Store.find, h.symm]
    · simp [Store.upd, Store.find, hk, ih]

/-- Changing an entry that has just been put is putting the changed entry. -/
theorem Store.upd_put (m : Store β) (k : Nat) (v : β) (f : β → β) : Store.upd (Store.put m k v) k f = Store.put m k (f v) := by
  induction m with
  | nil => simp [Store.put, Store.upd]
  | cons e m ih =>
    obtain ⟨k', v'⟩ := e
    by_cases h1 : k < k'
    · simp [Store.put, Store.upd, h1]
    · by_cases h2 : k' = k
      · simp [Store.put, Store.upd, h2]
      · simp [Store.put, Store.upd, h1, h2, ih]

theorem Store.put_put (m : Store β) (k : Nat) (v w : β) : Store.put (Store.put m k v) k w = Store.put m k w := by
  induction m with
  | nil => simp [Store.put]
  | cons e m ih =>
    obtain ⟨k', v'⟩ := e
    by_cases h1 : k < k'
    · simp [Store.put, h1]
    · by_cases h2 : k' = k
      · simp [Store.put, h2]
      · simp [Store.put, h1, h2, ih]

/-! ### The canonical form -/

/-- Every key is at least n. -/
def Store.above (n : Nat) (m : Store β) : Prop := ∀ e ∈ m, n ≤ e.1

theorem Store.sorted_cons (e : Nat × β) (m : Store β) : Store.sorted (e :: m) = true ↔ Store.above (e.1 + 1) m ∧ Store.sorted m = true := by
  induction m generalizing e with
  | nil => simp [Store.sorted, Store.above]
  | cons e2 m ih =>
    obtain ⟨k, v⟩ := e
    obtain ⟨k2, v2⟩ := e2
    simp only [Store.sorted, Bool.and_eq_true, decide_eq_true_eq]
    constructor
    · rintro ⟨h1, h2⟩
      refine ⟨?_, h2⟩
      intro x hx
      rcases List.mem_cons.mp hx with rfl | hx
      · exact h1
      · have := ((ih (k2, v2)).mp h2).1 x hx
        simp only at this ⊢; omega
    · rintro ⟨h1, h2⟩
      exact ⟨h1 (k2, v2) (by simp), h2⟩

theorem Store.mem_del (m : Store β) (k : Nat) (e : Nat × β) (h : e ∈ Store.del m k) : e ∈ m := by
  induction m with
  | nil => exact h
  | cons x m ih =>
    obtain ⟨k', v⟩ := x
    by_cases hk : k' = k
    · simp only [Store.del, hk, if_true] at h; exact List.mem_cons_of_mem _ (ih h)
    · simp only [Store.del, hk, if_false] at h
      rcases List.mem_cons.mp h with rfl | h
      · exact List.mem_cons_self
      · exact List.mem_cons_of_mem _ (ih h)

theorem Store.mem_put (m : Store β) (k : Nat) (v : β) (e : Nat × β) (h : e ∈ Store.put m k v) : e = (k, v) ∨ e ∈ m := by
  induction m with
  | nil => simpa [Store.put] using h
  | cons x m ih =>
    obtain ⟨k', v'⟩ := x
    simp only [Store.put] at h
    split at h
    · rcases List.mem_cons.mp h with rfl | h
      · exact .inl rfl
      · exact .inr h
    · split at h
      · rcases List.mem_cons.mp h with rfl | h
        · exact .inl rfl
        · exact .inr (List.mem_cons_of_mem _ h)
      · rcases List.mem_cons.mp h with rfl | h
        · exact .inr List.mem_cons_self
        · rcases ih h with rfl | h
          · exact .inl rfl
          · exact .inr (List.mem_cons_of_mem _ h)

theorem Store.sorted_del (m : Store β) (k : Nat) (h : Store.sorted m = true) : Store.sorted (Store.del m k) = true := by
  induction m with
  | nil => rfl
  | cons e m ih =>
    obtain ⟨k', v⟩ := e
    obtain ⟨ha, hs⟩ := (Store.sorted_cons _ _).mp h
    by_cases hk : k' = k
    · simpa [Store.del, hk] using ih hs
    · simp only [Store.del, hk, if_false]
      exact (Store.sorted_cons _ _).mpr ⟨fun e he => ha e (Store.mem_del m k e he), ih hs⟩

theorem Store.sorted_put (m : Store β) (k : Nat) (v : β) (h : Store.sorted m = true) : Store.sorted (Store.put m k v) = true := by
  induction m with
  | nil => rfl
  | cons e m ih =>
    obtain ⟨k', v'⟩ := e
    obtain ⟨ha, hs⟩ := (Store.sorted_cons _ _).mp h
    simp only [Store.put]
    split
    · rename_i h1
      refine (Store.sorted_cons _ _).mpr ⟨?_, h⟩
      intro e he
      rcases List.mem_cons.mp he with rfl | he
      · exact h1
      · have := ha e he; simp only at this ⊢; omega
    · split
      · rename_i h2
        subst h2
        exact (Store.sorted_cons _ _).mpr ⟨ha, hs⟩
      · refine (Store.sorted_cons _ _).mpr ⟨?_, ih hs⟩
        intro e he
        rcases Store.mem_put m k v e he with rfl | he
        · simp only; omega
        · exact ha e he

/-- Writing keeps the canonical form. -/
theorem Store.wf_set [DecidableEq β] (d : β) (m : Store β) (k : Nat) (v : β) (h : Store.wf d m = true) :
    Store.wf d (Store.set d m k v) = true := by
  simp only [Store.wf, Bool.and_eq_true, List.all_eq_true, decide_eq_true_eq] at h ⊢
  unfold Store.set
  split
  · exact ⟨Store.sorted_del m k h.1, fun e he => h.2 e (Store.mem_del m k e he)⟩
  · rename_i hv
    refine ⟨Store.sorted_put m k v h.1, fun e he => ?_⟩
    rcases Store.mem_put m k v e he with rfl | he
    · exact hv
    · exact h.2 e he

/-- Leaving entries out keeps the canonical form. -/
theorem Store.wf_filter [DecidableEq β] (d : β) (m : Store β) (p : Nat × β → Bool) (h : Store.wf d m = true) :
    Store.wf d (m.filter p) = true := by
  simp only [Store.wf, Bool.and_eq_true, List.all_eq_true, decide_eq_true_eq] at h ⊢
  refine ⟨?_, fun e he => h.2 e (List.mem_filter.mp he).1⟩
  have : ∀ m : Store β, Store.sorted m = true → Store.sorted (m.filter p) = true := by
    intro m
    induction m with
    | nil => intro h; exact h
    | cons e m ih =>
      intro h
      obtain ⟨ha, hs⟩ := (Store.sorted_cons _ _).mp h
      by_cases hp : p e = true
      · rw [List.filter_cons_of_pos hp]
        exact (Store.sorted_cons _ _).mpr ⟨fun x hx => ha x (List.mem_filter.mp hx).1, ih hs⟩
      · rw [List.filter_cons_of_neg hp]; exact ih hs
  exact this m h.1

end Sys2Proof.Machine
end

