-- ==== Sys2Proof/Laws/Memory.lean ====
section
/-! SUPPORT. Laws of the byte memory: a read after a write, other bytes untouched, and the canonical form kept. -/

namespace Sys2Proof.Machine

theorem Memory.get_writeList (m : List Host.Cell) (a x : Nat) (bs : List Byte) :
    Store.get memDefault (Memory.writeList m a bs) x =
      if a ≤ x ∧ x < a + bs.length then bs.getD (x - a) 0 else Store.get memDefault m x := by
  induction bs generalizing m a with
  | nil => rw [if_neg (by simp only [List.length_nil]; omega)]; rfl
  | cons b bs ih =>
    rw [Memory.writeList, ih]
    by_cases h : x = a
    · subst h
      have h1 : ¬ (x + 1 ≤ x ∧ x < x + 1 + bs.length) := by omega
      have h2 : x ≤ x ∧ x < x + (b :: bs).length := by simp
      rw [if_neg h1, if_pos h2]
      simp [Memory.write]
    · rw [Memory.write, Store.get_set_other _ _ _ h]
      by_cases h1 : a + 1 ≤ x ∧ x < a + 1 + bs.length
      · have h2 : a ≤ x ∧ x < a + (b :: bs).length := by simp only [List.length_cons]; omega
        rw [if_pos h1, if_pos h2]
        obtain ⟨k, rfl⟩ : ∃ k, x = a + 1 + k := ⟨x - (a + 1), by omega⟩
        have e1 : a + 1 + k - (a + 1) = k := by omega
        have e2 : a + 1 + k - a = k + 1 := by omega
        rw [e1, e2]; rfl
      · have h2 : ¬ (a ≤ x ∧ x < a + (b :: bs).length) := by simp only [List.length_cons]; omega
        rw [if_neg h1, if_neg h2]

theorem Memory.wf_writeList (m : List Host.Cell) (a : Nat) (bs : List Byte) (h : Memory.wf m = true) :
    Memory.wf (Memory.writeList m a bs) = true := by
  induction bs generalizing m a with
  | nil => exact h
  | cons b bs ih => exact ih _ _ (Store.wf_set _ _ _ _ h)

@[simp] theorem State.setPoison_mem (s : State) (a n : Nat) (p : Bool) : (s.setPoison a n p).mem = s.mem := rfl

/-- The byte at an address after a write. -/
theorem State.byte_writeBytes (s : State) (a x : Nat) (bs : List Byte) :
    (s.writeBytes a bs).byte x = if a ≤ x ∧ x < a + bs.length then bs.getD (x - a) 0 else s.byte x :=
  Memory.get_writeList s.mem a x bs

/-- Outside the bytes written, memory reads as before. -/
theorem State.byte_writeBytes_other (s : State) (a x : Nat) (bs : List Byte) (h : x < a ∨ a + bs.length ≤ x) :
    (s.writeBytes a bs).byte x = s.byte x := by
  rw [State.byte_writeBytes, if_neg (by omega)]

/-- A write keeps the canonical form. -/
theorem State.wf_writeBytes (s : State) (a : Nat) (bs : List Byte) (h : Memory.wf s.mem = true) :
    Memory.wf (s.writeBytes a bs).mem = true := Memory.wf_writeList _ _ _ h

/-- Steps that each keep the canonical form keep it together. -/
theorem State.wf_foldl {α : Type} (f : State → α → State) (hf : ∀ s a, Memory.wf s.mem = true → Memory.wf (f s a).mem = true) (l : List α) (s : State)
    (h : Memory.wf s.mem = true) : Memory.wf (l.foldl f s).mem = true := by
  induction l generalizing s with
  | nil => exact h
  | cons a l ih => exact ih _ (hf s a h)

/-- A sector written under a key keeps the canonical form. -/
theorem State.wf_setSectorBy (s : State) (k : Option Nat) (sec : Nat) (x : BitVec 256) (h : Memory.wf s.mem = true) :
    Memory.wf (s.setSectorBy k sec x).mem = true := Memory.wf_writeList _ _ _ h

/-- A write under a key keeps the canonical form. -/
theorem State.wf_writeBy (s : State) (k : Option Nat) (a : Nat) (bs : List Byte) (h : Memory.wf s.mem = true) :
    Memory.wf (s.writeBy k a bs).mem = true := by
  unfold State.writeBy
  split
  · exact State.wf_writeBytes _ _ _ h
  · rw [State.setPoison_mem]
    refine State.wf_foldl _ (fun t i ht => ?_) _ _ h
    dsimp only
    split
    · exact State.wf_setSectorBy _ _ _ _ ht
    · exact ht

/-- A write of any accessor keeps the canonical form. -/
theorem State.wf_writeFor (s : State) (vf a : Nat) (bs : List Byte) (h : Memory.wf s.mem = true) : Memory.wf (s.writeFor vf a bs).mem = true := by
  unfold State.writeFor
  split
  · exact State.wf_writeBy _ _ _ _ h
  · exact State.wf_writeBytes _ _ _ h

theorem leBytes_length (n v : Nat) : (leBytes n v).length = n := by
  induction n generalizing v with
  | zero => rfl
  | succ n ih => simp [leBytes, ih]

/-- The bytes of a number give it back. -/
theorem leNat_leBytes (n v : Nat) : leNat (leBytes n v) = v % 256 ^ n := by
  induction n generalizing v with
  | zero => simp [leBytes, leNat, Nat.mod_one]
  | succ n ih =>
    have h : (BitVec.ofNat 8 v).toNat = v % 256 := rfl
    rw [leBytes, leNat, ih, h, Nat.pow_succ, Nat.mul_comm (256 ^ n) 256, Nat.mod_mul]

end Sys2Proof.Machine
end

