-- ==== Sys2Proof/Laws/Canonical.lean ====
section
/-! SUPPORT. The memory operations above a write of bytes keep the canonical form: putting entries, moving a range, zeroing a range, a change of
keys, a write of a class. -/

namespace Sys2Proof.Machine

/-- A value other than the default, put at a key, keeps the canonical form. -/
theorem Store.wf_put [DecidableEq β] (d : β) (m : Store β) (k : Nat) (v : β) (hv : v ≠ d) (h : Store.wf d m = true) :
    Store.wf d (Store.put m k v) = true := by
  have := Store.wf_set d m k v h
  rwa [Store.set, if_neg hv] at this

/-- Entries other than the default, put one after the other, keep the canonical form. -/
theorem Store.wf_putList [DecidableEq β] (d : β) (f : Nat × β → Nat × β) (n : List (Nat × β)) (hn : ∀ e ∈ n, (f e).2 ≠ d) (m : Store β)
    (h : Store.wf d m = true) : Store.wf d (n.foldl (fun st e => Store.put st (f e).1 (f e).2) m) = true := by
  induction n generalizing m with
  | nil => exact h
  | cons e n ih =>
    exact ih (fun x hx => hn x (List.mem_cons_of_mem _ hx)) _ (Store.wf_put d m _ _ (hn e List.mem_cons_self) h)

theorem wf_putAll [DecidableEq β] (d : β) (m n : Store β) (hn : ∀ e ∈ n, e.2 ≠ d) (h : Store.wf d m = true) :
    Store.wf d (putAll m n) = true := Store.wf_putList d (fun e => e) n hn m h

/-- No entry of a canonical store is the default. -/
theorem Store.ne_of_wf [DecidableEq β] {d : β} {m : Store β} (h : Store.wf d m = true) (e : Nat × β) (he : e ∈ m) : e.2 ≠ d := by
  rw [Store.wf, Bool.and_eq_true, List.all_eq_true] at h
  exact of_decide_eq_true (h.2 e he)

/-- Moving a range of a store keeps the canonical form. -/
theorem wf_moveStore [DecidableEq β] (d : β) (m : Store β) (u lo n dst : Nat) (keep : Nat → Bool)
    (h : Store.wf d m = true) : Store.wf d (moveStore m u lo n dst keep) = true :=
  Store.wf_putList d (fun e => (e.1 - lo / u + dst / u, e.2)) _ (fun e he => Store.ne_of_wf h e (List.mem_filter.1 he).1) _ (Store.wf_filter d m _ h)

/-- Settling poison writes no byte. -/
theorem State.settlePoison_mem (ls : List Nat) (s : State) : (s.settlePoison ls).mem = s.mem := by
  unfold State.settlePoison
  generalize ls.filter _ = xs
  induction xs generalizing s with
  | nil => rfl
  | cons x xs ih => exact ih (s.setPoison (128 * x) 128 true)

theorem State.wf_moveMem (s : State) (i lo n dst : Nat) (h : Memory.wf s.mem = true) : Memory.wf (s.moveMem i lo n dst).mem = true := by
  refine wf_moveStore memDefault (s.settlePoison (s.movedLines i lo n)).mem 1 lo n dst
    (fun a => !s.inTreeRegion i a) ?_
  rw [State.settlePoison_mem]; exact h

theorem State.wf_zeroMem (s : State) (a n : Nat) (h : Memory.wf s.mem = true) : Memory.wf (s.zeroMem a n).mem = true :=
  Store.wf_filter _ _ _ h

/-- A change of keys keeps the canonical form. -/
theorem State.wf_recipher (s t : State) (h : Memory.wf t.mem = true) : Memory.wf (s.recipher t).mem = true := by
  unfold State.recipher
  refine State.wf_foldl _ (fun u sec hu => ?_) _ _ h
  dsimp only
  split
  · exact hu
  · exact Memory.wf_writeList _ _ _ hu

/-- A write of any class at its home keeps the canonical form. -/
theorem State.wf_putBytes (s : State) (vf pa : Nat) (bs : List Byte) (cls : Nat) (h : Memory.wf s.mem = true) :
    Memory.wf (s.putBytes vf pa bs cls).mem = true := by
  unfold State.putBytes
  split
  · exact State.wf_writeBy _ _ _ _ h
  · split
    · exact State.wf_writeBy _ _ _ _ h
    · exact State.wf_writeBytes _ _ _ h

end Sys2Proof.Machine
end

