-- ==== Sys2Proof/Laws/Group.lean ====
section
/-! SUPPORT. Laws of groups and threads: what the shared register operations write, and what they leave. -/

namespace Sys2Proof.Machine

theorem mapLanes_getD (f : Nat → Lane → Lane) (ls : List Lane) (i l : Nat) :
    (mapLanes f i ls).getD l {} = if l < ls.length then f (i + l) (ls.getD l {}) else {} := by
  induction ls generalizing i l with
  | nil => simp [mapLanes]
  | cons x xs ih =>
    cases l with
    | zero => simp [mapLanes]
    | succ l => simp only [mapLanes, List.getD_cons_succ, ih, List.length_cons, Nat.add_lt_add_iff_right]; rw [Nat.add_assoc, Nat.add_comm 1 l]

theorem mapLanes_id (f : Nat → Lane → Lane) (ls : List Lane) (i : Nat) (h : ∀ j l, f j l = l) : mapLanes f i ls = ls := by
  induction ls generalizing i with
  | nil => rfl
  | cons x xs ih => simp [mapLanes, h, ih]

@[simp] theorem mapLanes_length (f : Nat → Lane → Lane) (ls : List Lane) (i : Nat) : (mapLanes f i ls).length = ls.length := by
  induction ls generalizing i with
  | nil => rfl
  | cons x xs ih => simp [mapLanes, ih]

/-- A lane that the group lacks is as after its exit. -/
theorem Group.lane_out (gr : Group) (l : Nat) (h : gr.lanes.length ≤ l) : gr.lane l = {} := by
  simp [Group.lane, List.getD_eq_getElem?_getD, List.getElem?_eq_none h]

/-- A lane after an update. -/
theorem Group.lane_upd (gr : Group) (ps : List Nat) (f : Nat → Lane → Lane) (l : Nat) :
    (gr.upd ps f).lane l = if l < gr.lanes.length ∧ l ∈ ps then f l (gr.lane l) else gr.lane l := by
  simp only [Group.upd, Group.lane, mapLanes_getD, Nat.zero_add]
  by_cases h1 : l < gr.lanes.length <;> by_cases h2 : l ∈ ps <;> simp [h1, h2]

@[simp] theorem Group.upd_length (gr : Group) (ps : List Nat) (f : Nat → Lane → Lane) : (gr.upd ps f).lanes.length = gr.lanes.length := by
  simp [Group.upd]

@[simp] theorem Group.upd_s (gr : Group) (ps : List Nat) (f : Nat → Lane → Lane) : (gr.upd ps f).s = gr.s := rfl
@[simp] theorem Group.upd_rd (gr : Group) (ps : List Nat) (f : Nat → Lane → Lane) (r : Nat) : (gr.upd ps f).rd r = gr.rd r := rfl
@[simp] theorem Group.upd_latch (gr : Group) (ps : List Nat) (f : Nat → Lane → Lane) : (gr.upd ps f).latch = gr.latch := rfl
@[simp] theorem Group.upd_oq (gr : Group) (ps : List Nat) (f : Nat → Lane → Lane) : (gr.upd ps f).oq = gr.oq := rfl
@[simp] theorem Group.upd_fpstat (gr : Group) (ps : List Nat) (f : Nat → Lane → Lane) : (gr.upd ps f).fpstat = gr.fpstat := rfl

/-- An update that changes nothing. -/
theorem Group.upd_id (gr : Group) (ps : List Nat) (f : Nat → Lane → Lane) (h : ∀ i ∈ ps, ∀ l, f i l = l) : gr.upd ps f = gr := by
  have : ∀ ls i, mapLanes (fun i l => if ps.contains i then f i l else l) i ls = ls := by
    intro ls i
    apply mapLanes_id
    intro j l
    by_cases hj : j ∈ ps <;> simp [hj, h]
  rw [Group.upd, this]

/-! ### Writing registers -/

@[simp] theorem Lane.rd_setReg_self (l : Lane) (n : Nat) (x : W32) : (l.setReg n x).rd n = x := by simp [Lane.setReg, Lane.rd]
theorem Lane.rd_setReg_other (l : Lane) {n r : Nat} (x : W32) (h : r ≠ n) : (l.setReg n x).rd r = l.rd r := by
  simp [Lane.setReg, Lane.rd, Store.get_set_other _ _ _ h]
@[simp] theorem Group.rd_setReg_self (gr : Group) (n : Nat) (x : W32) : (gr.setReg n x).rd n = x := by simp [Group.setReg, Group.rd]
theorem Group.rd_setReg_other (gr : Group) {n r : Nat} (x : W32) (h : r ≠ n) : (gr.setReg n x).rd r = gr.rd r := by
  simp [Group.setReg, Group.rd, Store.get_set_other _ _ _ h]

theorem Lane.rd_setRegs_below (l : Lane) (b n r : Nat) (x : W128) (h : r < b) : (l.setRegs b n x).rd r = l.rd r := by
  induction n generalizing l b x with
  | zero => rfl
  | succ n ih => rw [Lane.setRegs, ih _ _ _ (by omega), Lane.rd_setReg_other _ _ (by omega)]

theorem Lane.rd_setRegs_above (l : Lane) (b n r : Nat) (x : W128) (h : b + n ≤ r) : (l.setRegs b n x).rd r = l.rd r := by
  induction n generalizing l b x with
  | zero => rfl
  | succ n ih => rw [Lane.setRegs, ih _ _ _ (by omega), Lane.rd_setReg_other _ _ (by omega)]

theorem extract_shift (x : W128) (k : Nat) : (x >>> 32).extractLsb' (32 * k) 32 = x.extractLsb' (32 * (k + 1)) 32 := by
  apply BitVec.eq_of_getLsbD_eq
  intro i hi
  rw [BitVec.getLsbD_extractLsb', BitVec.getLsbD_extractLsb', BitVec.getLsbD_ushiftRight]
  congr 2; omega

theorem Lane.rd_setRegs (l : Lane) (b n k : Nat) (x : W128) (h : k < n) : (l.setRegs b n x).rd (b + k) = x.extractLsb' (32 * k) 32 := by
  induction n generalizing l b x k with
  | zero => omega
  | succ n ih =>
    rw [Lane.setRegs]
    cases k with
    | zero => rw [Lane.rd_setRegs_below _ _ _ _ _ (by omega)]; simp
    | succ k => rw [← extract_shift, ← ih (l.setReg b (x.extractLsb' 0 32)) (b + 1) k (x >>> 32) (by omega)]; congr 1; omega

theorem Group.rd_setRegs_below (gr : Group) (b n r : Nat) (x : W128) (h : r < b) : (gr.setRegs b n x).rd r = gr.rd r := by
  induction n generalizing gr b x with
  | zero => rfl
  | succ n ih => rw [Group.setRegs, ih _ _ _ (by omega), Group.rd_setReg_other _ _ (by omega)]

theorem Group.rd_setRegs_above (gr : Group) (b n r : Nat) (x : W128) (h : b + n ≤ r) : (gr.setRegs b n x).rd r = gr.rd r := by
  induction n generalizing gr b x with
  | zero => rfl
  | succ n ih => rw [Group.setRegs, ih _ _ _ (by omega), Group.rd_setReg_other _ _ (by omega)]

theorem Group.rd_setRegs (gr : Group) (b n k : Nat) (x : W128) (h : k < n) : (gr.setRegs b n x).rd (b + k) = x.extractLsb' (32 * k) 32 := by
  induction n generalizing gr b x k with
  | zero => omega
  | succ n ih =>
    rw [Group.setRegs]
    cases k with
    | zero => rw [Group.rd_setRegs_below _ _ _ _ _ (by omega)]; simp
    | succ k => rw [← extract_shift, ← ih (gr.setReg b (x.extractLsb' 0 32)) (b + 1) k (x >>> 32) (by omega)]; congr 1; omega

/-- Writing registers leaves the rest of the thread. -/
theorem Lane.setRegs_frame (l : Lane) (b n : Nat) (x : W128) :
    (l.setRegs b n x).pc = l.pc ∧ (l.setRegs b n x).run = l.run ∧ (l.setRegs b n x).stack = l.stack ∧ (l.setRegs b n x).prods = l.prods ∧
    ({ l.setRegs b n x with v := [], pend := [] } : Lane) = { l with v := [], pend := [] } := by
  induction n generalizing l b x with
  | zero => exact ⟨rfl, rfl, rfl, rfl, rfl⟩
  | succ n ih => rw [Lane.setRegs]; exact ih _ _ _

/-- Writing scalar registers leaves the rest of the group. -/
theorem Group.setRegs_frame (gr : Group) (b n : Nat) (x : W128) :
    ({ gr.setRegs b n x with s := [], spend := [] } : Group) = { gr with s := [], spend := [] } := by
  induction n generalizing gr b x with
  | zero => rfl
  | succ n ih => rw [Group.setRegs]; exact ih _ _ _

end Sys2Proof.Machine
end

