-- ==== Sys2Proof/Laws/Issue.lean ====
section
/-! SUPPORT. Laws of the issue: an instruction that takes effect runs its body on the passing threads; what a register-result instruction
writes and leaves. -/

namespace Sys2Proof.Machine

/-- What `issuing` says. -/
theorem issuing_spec {i : Instr} {once : Bool} {s : State} {iss : Issue} {gr : Group} {ps : List Nat}
    (h : issuing i once s = some (iss, gr, ps)) :
    s.cur = some iss ∧ s.group iss.g = some gr ∧ gr.takers i (use i).h (gr.passing (use i).h once (iss.path gr)) = ps ∧ ps ≠ [] ∧ failedCheck iss gr i = none ∧
    gr.guardWait (use i).h (if fromLowest i once then (iss.path gr).take 1 else iss.path gr) = none ∧ gr.srcWait i once ps = none ∧
    (queuesOf i).find? (fun k => (gr.oq.getD k {}).st == .idle) = none ∧ gr.sound i once iss.pc ps = true := by
  unfold issuing at h
  split at h
  · cases h
  · rename_i iss' hc
    split at h
    · cases h
    · rename_i gr' hg
      dsimp only at h
      obtain ⟨⟨a, b, c, d, e, f⟩, h⟩ := Option.ite_none_right_eq_some.mp h
      injection h with h
      injection h with h1 h
      injection h with h2 h3
      subst h1 h2 h3
      exact ⟨hc, hg, rfl, a, b, c, d, e, f⟩

theorem guardOk_of_check {iss : Issue} {gr : Group} {i : Instr} (h : failedCheck iss gr i = none) :
    (!(use i).guardOk || !(use i).guardBudget gr) = false := by
  unfold failedCheck at h
  dsimp only at h
  by_cases hp : (isPriv i && !gr.priv) = true
  · rw [if_pos hp] at h; cases h
  · rw [if_neg hp] at h
    by_cases hg : (!(use i).guardOk || !(use i).guardBudget gr) = true
    · rw [if_pos hg] at h; cases h
    · simpa using hg

/-- What `sound` says. -/
theorem Group.sound_spec {gr : Group} {i : Instr} {once : Bool} {pc : W64} {ps : List Nat} (h : gr.sound i once pc ps = true) :
    (∀ l ∈ ps, gr.queueFault (queuesOf i) l pc = none) ∧ (∀ l ∈ if fromLowest i once then ps.take 1 else ps, gr.lostLatch i l = none) := by
  unfold Group.sound at h
  rw [Bool.and_eq_true, List.all_eq_true, List.all_eq_true] at h
  exact ⟨fun l hl => by simpa using h.1 l hl, fun l hl => by simpa using h.2 l hl⟩

theorem Group.parkEach_none {gr : Group} {ps : List Nat} {f : Nat → Option FaultInfo} (h : ∀ l ∈ ps, f l = none) : gr.parkEach ps f = gr := by
  rw [Group.parkEach, Group.upd_id]
  intro l hl x
  rw [h l hl]

/-- Without a fault at its sources an instruction that reads the lowest thread alone issues in every passing thread. -/
theorem Group.srcOnce_sound {gr : Group} {i : Instr} {pc : W64} {p : Nat} {rest : List Nat}
    (hq : ∀ l ∈ p :: rest, gr.queueFault (queuesOf i) l pc = none) (hl : gr.lostLatch i p = none) :
    gr.srcOnce i (queuesOf i) pc (p :: rest) = .go (gr.popQueues (queuesOf i)) (p :: rest) := by
  have h1 : (p :: rest).filter (fun l => (gr.queueFault (queuesOf i) l pc).isNone) = p :: rest := by
    rw [List.filter_eq_self]; intro l h; simp [hq l h]
  unfold Group.srcOnce
  rw [h1]
  simp only [hl]
  rw [Group.parkEach_none hq]

/-- Without a fault at its sources an instruction that reads each passing thread issues in every one. -/
theorem Group.srcEach_sound {gr : Group} {i : Instr} {pc : W64} {p : Nat} {rest : List Nat}
    (hq : ∀ l ∈ p :: rest, gr.queueFault (queuesOf i) l pc = none) (hl : ∀ l ∈ p :: rest, gr.lostLatch i l = none) :
    gr.srcEach i (queuesOf i) pc (p :: rest) = .go (gr.popQueues (queuesOf i)) (p :: rest) := by
  have hs : ∀ l ∈ p :: rest, gr.srcFault i (queuesOf i) pc l = none := by
    intro l h; simp [Group.srcFault, hl l h, hq l h]
  have h1 : (p :: rest).filter (fun l => (gr.srcFault i (queuesOf i) pc l).isNone) = p :: rest := by
    rw [List.filter_eq_self]; intro l h; simp [hs l h]
  unfold Group.srcEach
  dsimp only
  rw [h1, Group.parkEach_none (gr := gr.popQueues (queuesOf i)) hs]
  simp

theorem Group.takers_nil (gr : Group) (i : Instr) (h : Hdr) : gr.takers i h [] = [] := by unfold Group.takers; split <;> rfl

theorem Group.takers_nodup {gr : Group} {i : Instr} {h : Hdr} {ps : List Nat} (hp : ps.Nodup) : (gr.takers i h ps).Nodup := by
  unfold Group.takers
  split
  · exact hp.filter _
  · exact hp

theorem Group.takers_sub {gr : Group} {i : Instr} {h : Hdr} {ps : List Nat} {l : Nat} (hl : l ∈ gr.takers i h ps) : l ∈ ps := by
  unfold Group.takers at hl
  split at hl
  · exact (List.mem_filter.mp hl).1
  · exact hl

/-- The checks let an instruction that takes effect through, with its queues popped. -/
theorem prep_issuing {i : Instr} {once : Bool} {s : State} {iss : Issue} {gr : Group} {ps : List Nat}
    (h : issuing i once s = some (iss, gr, ps)) : prep iss gr i once = .go (gr.popQueues (queuesOf i)) ps := by
  obtain ⟨-, -, hp, hne, hc, hgw, hsw, hq, hs⟩ := issuing_spec h
  obtain ⟨p, rest, rfl⟩ := List.exists_cons_of_ne_nil hne
  obtain ⟨a, as, ha⟩ : ∃ a as, gr.passing (use i).h once (iss.path gr) = a :: as :=
    List.exists_cons_of_ne_nil (fun h0 => by rw [h0, Group.takers_nil] at hp; cases hp)
  unfold prep
  dsimp only
  rw [guardOk_of_check hc, hgw]
  rw [ha] at hp ⊢
  simp only [Bool.false_eq_true, if_false, hc, hp, hsw, hq]
  obtain ⟨hqf, hll⟩ := Group.sound_spec hs
  by_cases hf : fromLowest i once = true
  · rw [if_pos hf] at hll ⊢
    exact Group.srcOnce_sound hqf (hll p (by simp))
  · rw [if_neg hf] at hll ⊢
    exact Group.srcEach_sound hqf hll

/-- An instruction that takes effect runs its body. -/
theorem issueWith_issuing {i : Instr} {once : Bool} {s : State} {iss : Issue} {gr : Group} {ps : List Nat}
    (body : Issue → Group → List Nat → List Nat → State → State) (h : issuing i once s = some (iss, gr, ps)) :
    issueWith i once s body = .next (body iss gr (iss.path gr) ps (s.putGroup iss.g (gr.popQueues (queuesOf i)))) := by
  obtain ⟨hc, hg, -, hne, -⟩ := issuing_spec h
  obtain ⟨p, rest, rfl⟩ := List.exists_cons_of_ne_nil hne
  unfold issueWith
  simp only [hc, hg, prep_issuing h]

/-- The passing threads run, and lie on the path. -/
theorem issuing_path {i : Instr} {once : Bool} {s : State} {iss : Issue} {gr : Group} {ps : List Nat}
    (h : issuing i once s = some (iss, gr, ps)) : ∀ l ∈ ps, l ∈ iss.path gr := by
  obtain ⟨-, -, hp, -⟩ := issuing_spec h
  subst hp
  intro l hl
  replace hl := Group.takers_sub hl
  unfold Group.passing at hl
  cases once with
  | true =>
    simp only [if_true] at hl
    split at hl
    · cases hl
    · split at hl
      · exact hl
      · cases hl
  | false => exact (List.mem_filter.mp (by simpa using hl)).1

theorem path_run {iss : Issue} {gr : Group} {l : Nat} (h : l ∈ iss.path gr) : (gr.lane l).run = .running := by
  have := (List.mem_filter.mp h).2
  simp only [Bool.and_eq_true, beq_iff_eq] at this
  exact this.2

theorem path_lt {iss : Issue} {gr : Group} {l : Nat} (h : l ∈ iss.path gr) : l < gr.lanes.length := by
  by_contra hl
  have := path_run h
  rw [Group.lane_out gr l (by omega)] at this
  cases this

theorem State.updGroup_putGroup (s : State) (g : Nat) (gr : Group) (f : Group → Group) :
    (s.putGroup g gr).updGroup g f = s.putGroup g (f gr) := by
  simp [State.putGroup, State.updGroup, Store.upd_put]

theorem State.putGroup_putGroup (s : State) (g : Nat) (a b : Group) : (s.putGroup g a).putGroup g b = s.putGroup g b := by
  simp [State.putGroup, Store.put_put]

@[simp] theorem State.group_putGroup (s : State) (g : Nat) (gr : Group) : (s.putGroup g gr).group g = some gr := by
  simp [State.putGroup, State.group]

/-- A register-result instruction that takes effect. -/
theorem produce_issuing {i : Instr} {s : State} {iss : Issue} {gr : Group} {ps : List Nat} (n : Nat) (f : Group → List Nat → Nat → Res)
    (h : issuing i (isScalSpec (use i).h.dst) s = some (iss, gr, ps)) :
    produce i n f s = .next (s.putGroup iss.g ((gr.popQueues (queuesOf i)).produce gr iss (iss.path gr) ps (use i).h n f)) := by
  unfold produce
  dsimp only
  rw [issueWith_issuing _ h, State.updGroup_putGroup]

end Sys2Proof.Machine
end

