-- ==== Sys2Proof/Laws/Control.lean ====
section
/-! SUPPORT. Laws of transfers of control: the line of a target does not depend on the threads, a line that passed its checks passes them again
while it is held, and an instruction that acts in each passing thread changes the group alone. -/

namespace Sys2Proof.Machine

/-- Metering touches no group. -/
theorem State.meterAdd_putGroup (s : State) (g : Nat) (x : Group) (v c n : Nat) :
    (s.putGroup g x).meterAdd v c n = (s.meterAdd v c n).putGroup g x := by
  unfold State.meterAdd; split <;> rfl

/-- An access to HBM4E touches no group. -/
theorem State.hbmTouch_putGroup (s : State) (g : Nat) (x : Group) (v a n : Nat) :
    (s.putGroup g x).hbmTouch v a n = (s.hbmTouch v a n).putGroup g x := by
  unfold State.hbmTouch
  have h : (s.putGroup g x).channelOf a = s.channelOf a := rfl
  rw [h]
  cases s.channelOf a <;> rfl

/-- A write into a counter tree touches no group. -/
theorem State.treeWrite_putGroup (s : State) (g : Nat) (x : Group) (l : Nat) :
    (s.putGroup g x).treeWrite l = (s.treeWrite l).putGroup g x := by
  unfold State.treeWrite
  have h : (s.putGroup g x).inTree l = s.inTree l := rfl
  rw [h]
  cases s.inTree l <;> rfl

/-- A write-back touches no group. -/
theorem State.wroteBack_putGroup (s : State) (g : Nat) (x : Group) (v a n : Nat) :
    (s.putGroup g x).wroteBack v a n = (s.wroteBack v a n).putGroup g x := by
  unfold State.wroteBack
  rw [State.meterAdd_putGroup, State.hbmTouch_putGroup]
  exact State.treeWrite_putGroup { (s.meterAdd v 3 n).hbmTouch v a n with lineCtr := bumpLine ((s.meterAdd v 3 n).hbmTouch v a n).lineCtr (a / 128) } g x _

/-- An L2 line that leaves touches no group. -/
theorem State.l2Evict_putGroup (s : State) (g : Nat) (x : Group) (k : Nat) : (s.putGroup g x).l2Evict k = (s.l2Evict k).putGroup g x := by
  unfold State.l2Evict
  have h : (s.putGroup g x).l2 = s.l2 := rfl
  rw [h]
  cases Store.find s.l2 k with
  | none => rfl
  | some l =>
    dsimp only
    split
    · rfl
    · exact State.wroteBack_putGroup { s with l2 := Store.del s.l2 k } g x _ _ _

/-- A message handed to a port touches no group. -/
theorem State.sendOn_putGroup (s : State) (g : Nat) (x : Group) (v : Nat) (m : FabMsg) (p : Nat) :
    (s.putGroup g x).sendOn v m p = (s.sendOn v m p).putGroup g x := by
  unfold State.sendOn State.meterAdd
  by_cases h : v = fwVf
  · rw [if_pos h, if_pos h]; rfl
  · rw [if_neg h, if_neg h]; rfl

theorem State.sendOns_putGroup (g : Nat) (x : Group) (v : Nat) (m : FabMsg) (ps : List Nat) (s : State) :
    ps.foldl (fun t p => t.sendOn v m p) (s.putGroup g x) = (ps.foldl (fun t p => t.sendOn v m p) s).putGroup g x := by
  induction ps generalizing s with
  | nil => rfl
  | cons p ps ih => simp only [List.foldl_cons]; rw [State.sendOn_putGroup, ih]

theorem State.sendCrit_putGroup (s : State) (g : Nat) (x : Group) (v : Nat) (rt : Route) (m : FabMsg) :
    (s.putGroup g x).sendCrit v rt m = (s.sendCrit v rt m).putGroup g x := by
  unfold State.sendCrit
  exact State.sendOns_putGroup g x v _ _ { s with fab := { s.fab with ctx := Store.set 0 s.fab.ctx m.ndir (Store.get 0 s.fab.ctx m.ndir + 1) } }

theorem State.writeBack_putGroup (s : State) (g : Nat) (x : Group) (rt : Route) (n t fa : Nat) (l : Option FabLine) :
    (s.putGroup g x).writeBack rt n t fa l = (s.writeBack rt n t fa l).putGroup g x := by
  have he : (s.putGroup g x).lineEnc = s.lineEnc := rfl
  have hm : (s.putGroup g x).fabMsg = s.fabMsg := rfl
  have hh : (s.putGroup g x).fab = s.fab := rfl
  unfold State.writeBack
  simp only [he, hm, hh]
  exact State.sendCrit_putGroup s g x _ rt _

/-- A coherent line that leaves touches no group. -/
theorem State.cohEvict_putGroup (s : State) (g : Nat) (x : Group) (l : FabLine) : (s.putGroup g x).cohEvict l = (s.cohEvict l).putGroup g x := by
  have hr : (s.putGroup g x).route l.vf l.fa = s.route l.vf l.fa := rfl
  unfold State.cohEvict
  rw [hr]
  cases s.route l.vf l.fa with
  | none => rfl
  | some rt =>
    dsimp only
    split
    · exact State.writeBack_putGroup { s with fab := { s.fab with lines := _ } } g x rt _ 0 _ _
    · rfl

/-- Making room in L2 touches no group. -/
theorem State.l2Room_putGroup (s : State) (g : Nat) (x : Group) (sl b : Nat) : (s.putGroup g x).l2Room sl b = (s.l2Room sl b).putGroup g x := by
  unfold State.l2Room
  have h : (s.putGroup g x).l2 = s.l2 := rfl
  have hc : (s.putGroup g x).cohAt sl b = s.cohAt sl b := rfl
  have hb : (s.putGroup g x).lineBusy = s.lineBusy := rfl
  have hr : (s.putGroup g x).bankRoom sl b = s.bankRoom sl b := rfl
  have hf : (s.putGroup g x).free = s.free := rfl
  simp only [h, hc, hb, hr, hf]
  split
  · rfl
  · split
    · split
      · rw [State.l2Evict_putGroup]; rfl
      · rw [State.cohEvict_putGroup]; rfl
    · rw [State.l2Evict_putGroup]; rfl

/-- A line taken into L2 touches no group. -/
theorem State.l2Mark_putGroup (s : State) (g : Nat) (x : Group) (v a : Nat) (w : Bool) :
    (s.putGroup g x).l2Mark v a w = (s.l2Mark v a w).putGroup g x := by
  have hl : (s.putGroup g x).l2Line v a = (s.l2Line v a).putGroup g x := by
    unfold State.l2Line
    have h : (s.putGroup g x).l2 = s.l2 := rfl
    have ho : (s.putGroup g x).ownerSlice a = s.ownerSlice a := rfl
    have hh : (s.putGroup g x).homeOf a = s.homeOf a := rfl
    simp only [h, ho, hh]
    split
    · rfl
    · rw [State.l2Room_putGroup]; rfl
  unfold State.l2Mark
  rw [hl]; rfl

/-- A sector read touches no group. -/
theorem State.sectorRead_putGroup (s : State) (g : Nat) (x : Group) (v a : Nat) (hint : BitVec 3) :
    (s.putGroup g x).sectorRead v a hint = (s.sectorRead v a hint).putGroup g x := by
  unfold State.sectorRead
  have h : (s.putGroup g x).l2Has v a = s.l2Has v a := rfl
  have hm : (s.putGroup g x).macFails (a / 128) = s.macFails (a / 128) := rfl
  rw [h, hm]
  split
  · rfl
  · split
    · rfl
    · rw [State.meterAdd_putGroup, State.hbmTouch_putGroup]
      dsimp only
      split
      · rfl
      · rw [State.l2Mark_putGroup]

theorem State.sectorReads_putGroup (s : State) (g : Nat) (x : Group) (v : Nat) (as : List Nat) :
    as.foldl (fun t a => t.sectorRead v a 1) (s.putGroup g x) = (as.foldl (fun t a => t.sectorRead v a 1) s).putGroup g x := by
  induction as generalizing s with
  | nil => rfl
  | cons a as ih => simp only [List.foldl_cons]; rw [State.sectorRead_putGroup, ih]

/-- The reads of a walk touch no group. -/
theorem State.walkReads_putGroup (s : State) (g : Nat) (x : Group) (v : Nat) (va : W64) :
    (s.putGroup g x).walkReads v va = (s.walkReads v va).putGroup g x := by
  have hw : (s.putGroup g x).walkAll v va = s.walkAll v va := rfl
  unfold State.walkReads
  rw [hw, State.sectorReads_putGroup]

/-- A filled TLB touches no group. -/
theorem State.tlbFill_putGroup (s : State) (g : Nat) (x : Group) (t : Tr) (c v : Nat) (va : W64) :
    (s.putGroup g x).tlbFill t c v va = (s.tlbFill t c v va).putGroup g x := by
  unfold State.tlbFill; split <;> rfl

/-- A translation reads no group. -/
theorem State.translate_putGroup (s : State) (g : Nat) (x : Group) (c : Nat) (vf : Option Nat) (va : W64) :
    (s.putGroup g x).translate c vf va = (((s.translate c vf va).1).putGroup g x, (s.translate c vf va).2) := by
  have hw : ∀ v, (s.putGroup g x).walkAll v va = s.walkAll v va := fun _ => rfl
  have hf : ∀ a v, (s.putGroup g x).tlbFind a v va = s.tlbFind a v va := fun _ _ => rfl
  have ho : ∀ e, (s.putGroup g x).tlbOut e va = s.tlbOut e va := fun _ => rfl
  have hb : ∀ a, (s.putGroup g x).backed a = s.backed a := fun _ => rfl
  unfold State.translate
  cases vf with
  | none => simp only [hb]; split <;> (try rfl); split <;> rfl
  | some v =>
    simp only [hf, hw, ho]
    cases s.tlbFind c v va with
    | some e => rfl
    | none =>
      cases s.tlbFind (clusterTlb c) v va with
      | some e => rfl
      | none =>
        dsimp only
        rw [State.walkReads_putGroup]
        cases (s.walkAll v va).2 with
        | error e => rfl
        | ok t => dsimp only; rw [State.tlbFill_putGroup]

/-- What a fetch reads of its group. -/
def Group.sameFetch (a b : Group) : Prop := a.core = b.core ∧ a.priv = b.priv ∧ a.blk = b.blk ∧ a.ilines = b.ilines

theorem Group.sameFetch.vf {a b : Group} (h : a.sameFetch b) (s : State) (g : Nat) (x : Group) : (s.putGroup g x).vfOf a = s.vfOf b := by
  obtain ⟨-, h2, h3, -⟩ := h
  simp only [State.vfOf, h2, h3]; rfl

theorem Group.sameFetch.home {a b : Group} (h : a.sameFetch b) (s : State) (g : Nat) (x : Group) (t : Tr) :
    (s.putGroup g x).lineAtHome a t = s.lineAtHome b t := by
  have hv := h.vf s g x
  obtain ⟨-, h2, h3, -⟩ := h
  have hs : (s.putGroup g x).sliceOf a = s.sliceOf b := by simp only [State.sliceOf, h2, h3]; rfl
  unfold State.lineAtHome State.jobVf
  rw [hv, hs]; rfl

theorem Group.sameFetch.code {a b : Group} (h : a.sameFetch b) (s : State) (g : Nat) (x : Group) (la : W64) :
    (s.putGroup g x).codeLine a la = s.codeLine b la := by
  obtain ⟨h1, h2, -, -⟩ := h
  simp only [State.codeLine, h1, h2]; rfl

theorem State.rawLine_putGroup (s : State) (g : Nat) (x a b : Group) (h : a.sameFetch b) (pc : W64) :
    (s.putGroup g x).rawLine a pc = (((s.rawLine b pc).1).putGroup g x, (s.rawLine b pc).2) := by
  have hv := h.vf s g x
  have hh := fun (u : State) t => h.home u g x t
  have hc := h.code s g x (pc &&& ~~~63)
  obtain ⟨h1, -, -, h4⟩ := h
  unfold State.rawLine
  simp only [h1, h4, hc, hv, State.translate_putGroup, hh]
  cases (b.ilines.find? (fun l => l.addr == pc &&& ~~~63)).map ILine.data |>.orElse (fun _ => s.codeLine b (pc &&& ~~~63)) with
  | some l => rfl
  | none =>
    dsimp only
    cases (s.translate b.core (s.vfOf b) (pc &&& ~~~63)).2 with
    | error e => rfl
    | ok t => dsimp only; split <;> rfl

/-- The checks of a target read nothing else of the state. -/
theorem State.enter_putGroup (s : State) (g : Nat) (x a b : Group) (h : a.sameFetch b) (t : W64) (rte : Bool) :
    (s.putGroup g x).enter a t rte = (((s.enter b t rte).1).putGroup g x, (s.enter b t rte).2) := by
  unfold State.enter
  simp only [State.rawLine_putGroup s g x a b h]
  cases (s.rawLine b t).2 with
  | bad c e i => rfl
  | ask fa => rfl
  | line d => dsimp only; split <;> (try rfl); split <;> (try rfl); split <;> rfl

/-- Groups that fetch alike enter alike. -/
theorem State.enter_congr (s : State) (a b : Group) (h : a.sameFetch b) (t : W64) (rte : Bool) : s.enter a t rte = s.enter b t rte := by
  obtain ⟨h1, h2, h3, h4⟩ := h
  have hv : s.vfOf a = s.vfOf b := by simp only [State.vfOf, h2, h3]
  have hh : ∀ (u : State) t, u.lineAtHome a t = u.lineAtHome b t := by
    intro u t; simp only [State.lineAtHome, State.jobVf, State.sliceOf, State.vfOf, h2, h3]
  have hc : ∀ la, s.codeLine a la = s.codeLine b la := by intro la; simp only [State.codeLine, h1, h2]
  simp only [State.enter, State.rawLine, h1, h4, hv, hh, hc]

theorem State.reaches_congr {s : State} {a b : Group} {t : W64} {d : BitVec 512} (h : a.sameFetch b) (hr : s.reaches b t d) :
    s.reaches a t d := by
  unfold State.reaches at hr ⊢; rw [State.enter_congr s a b h, hr]

/-- Holding a line puts it first. -/
theorem Group.hold_find (gr : Group) (t : W64) (d : BitVec 512) :
    (gr.hold t d).ilines.find? (fun l => l.addr == t &&& ~~~63) = some { addr := t &&& ~~~63, data := d } := by
  simp [Group.hold]

/-- A target whose checks passed passes them again while its line is held. -/
theorem State.reaches_hold {s : State} {gr x : Group} {t : W64} {d : BitVec 512} (h : s.reaches gr t d)
    (hx : x.ilines = (gr.hold t d).ilines) : s.reaches x t d := by
  have h2 := congrArg Prod.snd h
  have hr : s.rawLine x t = (s, .line d) → s.enter x t false = (s, (s.enter x t false).2) := by
    intro hr
    unfold State.enter
    simp only [hr]
    split <;> (try rfl)
    split <;> (try rfl)
    split <;> rfl
  have hl : ∀ e, s.rawLine x t = (s, .line e) ↔ e = d := by
    intro e
    unfold State.rawLine
    simp only [hx, Group.hold_find, Option.map_some, Option.orElse_some]
    constructor
    · intro hh; injection hh with _ hh; injection hh with hh; exact hh.symm
    · rintro rfl; rfl
  have hx' := (hl d).mpr rfl
  unfold State.reaches
  rw [hr hx']
  congr 1
  unfold State.enter at h2 ⊢
  simp only [hx']
  cases hq : (s.rawLine gr t).2 with
  | bad c e i => simp [hq] at h2
  | ask fa => simp [hq] at h2
  | line d' =>
    simp only [hq] at h2
    by_cases h3 : lineConsistent d' <;> by_cases h4 : targetOk d' t false <;> by_cases h5 : lineParity d' <;>
      simp [h3, h4, h5] at h2
    subst h2
    simp [h3, h4, h5]

/-- An action in each thread that changes the group alone, and keeps what it needs of it. -/
theorem State.eachLane_putGroup {s : State} {g : Nat} {I : Group → Prop} {F : Nat → State → State} {G : Nat → Group → Group}
    (h : ∀ i gr, I gr → F i (s.putGroup g gr) = s.putGroup g (G i gr) ∧ I (G i gr)) (ps : List Nat) (gr : Group) (hi : I gr) :
    (s.putGroup g gr).eachLane ps F = s.putGroup g (ps.foldl (fun x i => G i x) gr) ∧ I (ps.foldl (fun x i => G i x) gr) := by
  induction ps generalizing gr with
  | nil => exact ⟨rfl, hi⟩
  | cons p ps ih =>
    simp only [State.eachLane, List.foldl_cons] at ih ⊢
    rw [(h p gr hi).1]
    exact ih _ (h p gr hi).2

/-- Threads changed one by one. -/
theorem Group.foldl_lane {G : Nat → Group → Group} {f : Nat → Lane → Lane}
    (hG : ∀ i (gr : Group) l, (G i gr).lane l = if l = i ∧ l < gr.lanes.length then f i (gr.lane i) else gr.lane l)
    (hn : ∀ i gr, (G i gr).lanes.length = gr.lanes.length) (ps : List Nat) (hd : ps.Nodup) (gr : Group) (l : Nat) :
    (ps.foldl (fun x i => G i x) gr).lane l = if l ∈ ps ∧ l < gr.lanes.length then f l (gr.lane l) else gr.lane l := by
  induction ps generalizing gr with
  | nil => simp
  | cons p ps ih =>
    obtain ⟨hp, hd⟩ := List.nodup_cons.mp hd
    rw [List.foldl_cons, ih hd, hG, hn]
    by_cases h1 : l = p
    · subst h1; simp [hp]
    · simp [h1]

theorem Group.foldl_body {G : Nat → Group → Group} (hG : ∀ i gr, (G i gr).body = gr.body) (ps : List Nat) (gr : Group) :
    (ps.foldl (fun x i => G i x) gr).body = gr.body := by
  induction ps generalizing gr with
  | nil => rfl
  | cons p ps ih => rw [List.foldl_cons, ih, hG]

theorem path_nodup (iss : Issue) (gr : Group) : (iss.path gr).Nodup := List.Nodup.filter _ List.nodup_range

/-- The passing threads are distinct. -/
theorem issuing_nodup {i : Instr} {once : Bool} {s : State} {iss : Issue} {gr : Group} {ps : List Nat}
    (h : issuing i once s = some (iss, gr, ps)) : ps.Nodup := by
  obtain ⟨-, -, hp, -⟩ := issuing_spec h
  subst hp
  refine Group.takers_nodup ?_
  unfold Group.passing
  cases once with
  | true =>
    simp only [if_true]
    split
    · exact List.nodup_nil
    · split
      · have := path_nodup iss gr; simp_all
      · exact List.nodup_nil
  | false => simpa using List.Nodup.filter _ (path_nodup iss gr)

/-- The threads that do not pass go on (R183). -/
def Group.passedBy (gr : Group) (iss : Issue) (path ps : List Nat) : Group := gr.advance iss (path.filter (fun i => !ps.contains i))

theorem State.skip_putGroup (s : State) (iss : Issue) (gr : Group) (path ps : List Nat) :
    (s.putGroup iss.g gr).skip iss path ps = s.putGroup iss.g (gr.passedBy iss path ps) := by
  simp [State.skip, State.updGroup_putGroup, Group.passedBy]

@[simp] theorem Group.popQueues_lanes (gr : Group) (ks : List Nat) : (gr.popQueues ks).lanes = gr.lanes := rfl
theorem Group.popQueues_lane (gr : Group) (ks : List Nat) (l : Nat) : (gr.popQueues ks).lane l = gr.lane l := rfl
theorem Group.upd_body (gr : Group) (ps : List Nat) (f : Nat → Lane → Lane) : (gr.upd ps f).body = gr.body := rfl
theorem Group.hold_body (gr : Group) (t : W64) (d : BitVec 512) : (gr.hold t d).body = gr.body := rfl
theorem Group.hold_lane (gr : Group) (t : W64) (d : BitVec 512) (l : Nat) : (gr.hold t d).lane l = gr.lane l := rfl
theorem Group.passedBy_body (gr : Group) (iss : Issue) (path ps : List Nat) : (gr.passedBy iss path ps).body = gr.body := rfl

theorem Group.passedBy_lane {iss : Issue} {gr : Group} {ks : List Nat} {ps : List Nat} (l : Nat) :
    ((gr.popQueues ks).passedBy iss (iss.path gr) ps).lane l =
      if l ∈ iss.path gr ∧ l ∉ ps then (gr.lane l).goTo (nextPc iss.pc) else gr.lane l := by
  unfold Group.passedBy Group.advance
  rw [Group.lane_upd, Group.popQueues_lane]
  by_cases h1 : l ∈ iss.path gr
  · have hr := path_run h1
    have hl := path_lt h1
    by_cases h2 : l ∈ ps <;> simp [h1, h2, hr, hl]
  · simp [h1]

/-- A control-flow instruction whose action in a thread is an action `G` on the group with thread result `f` . -/
theorem control_inGroup {i : Instr} {s : State} {iss : Issue} {gr : Group} {ps : List Nat} {I : Group → Prop}
    {F : Nat → State → State} {G : Nat → Group → Group} {f : Nat → Lane → Lane}
    (h : issuing i false s = some (iss, gr, ps))
    (hi : I ((gr.popQueues (queuesOf i)).passedBy iss (iss.path gr) ps))
    (hF : ∀ k g, I g → F k (s.putGroup iss.g g) = s.putGroup iss.g (G k g) ∧ I (G k g))
    (hG : ∀ k (g : Group) l, (G k g).lane l = if l = k ∧ l < g.lanes.length then f k (g.lane k) else g.lane l)
    (hn : ∀ k g, (G k g).lanes.length = g.lanes.length) (hb : ∀ k g, (G k g).body = g.body) :
    ∃ g', ((s.putGroup iss.g (gr.popQueues (queuesOf i))).skip iss (iss.path gr) ps).eachLane ps F = s.putGroup iss.g g' ∧
      gr.threads g' iss ps f ∧ g'.body = (gr.popQueues (queuesOf i)).body := by
  refine ⟨ps.foldl (fun x k => G k x) ((gr.popQueues (queuesOf i)).passedBy iss (iss.path gr) ps), ?_, ?_, ?_⟩
  · rw [State.skip_putGroup]; exact (State.eachLane_putGroup hF ps _ hi).1
  · intro l
    rw [Group.foldl_lane hG hn ps (issuing_nodup h), Group.passedBy_lane]
    by_cases h1 : l ∈ ps
    · have hp := issuing_path h l h1
      have hl : l < gr.lanes.length := path_lt hp
      have : ((gr.popQueues (queuesOf i)).passedBy iss (iss.path gr) ps).lanes.length = gr.lanes.length := by
        simp [Group.passedBy, Group.advance]
      simp [h1, hl, this]
    · simp only [h1, false_and, if_false]; by_cases h2 : l ∈ iss.path gr <;> simp [h2]
  · rw [Group.foldl_body hb, Group.passedBy_body]

/-- A transfer of one thread whose target is entered. -/
theorem State.transfer_putGroup {s : State} {g i : Nat} {pc t : W64} {f : Lane → Lane} {gr0 x : Group} {d : BitVec 512}
    (hr : s.reaches gr0 t d) (hs : x.sameFetch gr0) :
    (s.putGroup g x).transfer g i pc t f = s.putGroup g ((x.hold t d).upd [i] (fun _ l => (f l).goTo t)) := by
  unfold State.transfer
  rw [State.group_putGroup]
  have : s.enter gr0 t false = (s, .ok d) := hr
  simp only [State.enter_putGroup s g x x gr0 hs t false, this, State.putGroup_putGroup]

end Sys2Proof.Machine
end

