-- ==== Sys2Proof/Laws/Encode.lean ====
section
/-! SUPPORT. Laws of the encoding: the fields of a word laid out from an opcode and a format are that opcode and that format. -/

namespace Sys2Proof

/-- A bit of two bit strings side by side. -/
theorem bit_append {n m : Nat} (x : BitVec n) (y : BitVec m) (i : Nat) :
    (x ++ y).getLsbD i = if i < m then y.getLsbD i else x.getLsbD (i - m) := by
  by_cases h : i < m <;> simp [BitVec.getLsbD_append, h]

/-- A bit of a word laid out from an opcode and a body. -/
theorem bit_word (op : BitVec 10) (body : BitVec 86) (i : Nat) :
    BitVec.getLsbD (w := 96) (op ++ body) i = if i < 86 then body.getLsbD i else op.getLsbD (i - 86) := bit_append op body i

/-- Bits 95:86 of a word are its opcode. -/
theorem fld_opcode (op : BitVec 10) (body : BitVec 86) : fld 10 86 (op ++ body) = op := by
  apply BitVec.eq_of_getLsbD_eq
  intro i hi
  rw [fld, BitVec.getLsbD_extractLsb', bit_word, if_neg (by omega)]
  simp [hi]

/-- A field of the 86 bits below the opcode. -/
theorem fld_body (op : BitVec 10) (body : BitVec 86) (n lo : Nat) (h : lo + n ≤ 86) : fld n lo (op ++ body) = body.extractLsb' lo n := by
  apply BitVec.eq_of_getLsbD_eq
  intro i hi
  rw [fld, BitVec.getLsbD_extractLsb', BitVec.getLsbD_extractLsb', bit_word, if_pos (by omega)]

/-- The bits of the header fields. -/
theorem bodyH_bit (h : Hdr) (i : Nat) :
    (bodyH h).getLsbD i = if i < 10 then h.dst.getLsbD i else if i - 10 < 1 then h.gneg.getLsbD (i - 10)
      else if i - 11 < 5 then h.gbit.getLsbD (i - 11) else if i - 16 < 9 then h.greg.getLsbD (i - 16) else h.wbs.getLsbD (i - 25) := by
  show BitVec.getLsbD (w := 1 + 9 + 5 + 1 + 10) (h.wbs ++ h.greg ++ h.gbit ++ h.gneg ++ h.dst) i = _
  simp only [bit_append, Nat.sub_sub]

/-- A field read from the bits of a body. -/
theorem field_eq {n m : Nat} (body : BitVec m) (x : BitVec n) (lo : Nat) (h : ∀ i, i < n → body.getLsbD (lo + i) = x.getLsbD i) :
    body.extractLsb' lo n = x := by
  apply BitVec.eq_of_getLsbD_eq
  intro i hi
  rw [BitVec.getLsbD_extractLsb', h i hi]
  simp [hi]

theorem bodyG_bit (f : FmtG) (i : Nat) : (bodyG f).getLsbD i =
      if i < 30 then f.md.getLsbD i
      else if i - 30 < 10 then f.c.getLsbD (i - 30)
      else if i - 40 < 10 then f.b.getLsbD (i - 40)
      else if i - 50 < 10 then f.a.getLsbD (i - 50)
      else (bodyH f.h).getLsbD (i - 60) := by
  show BitVec.getLsbD (w := 26 + 10 + 10 + 10 + 30) (bodyH f.h ++ f.a ++ f.b ++ f.c ++ f.md) i = _
  simp only [bit_append, Nat.sub_sub]

theorem fieldsG_word (op : BitVec 10) (f : FmtG) : fieldsG (op ++ bodyG f) = f := by
  have h_wbs : fld 1 85 (op ++ bodyG f) = f.h.wbs := by
    rw [fld_body _ _ _ _ (by decide)]
    refine field_eq _ _ _ (fun i hi => ?_)
    simp only [bodyG_bit, bodyH_bit]
    repeat (first | rw [if_neg (by omega)] | rw [if_pos (by omega)])
    exact congrArg _ (by omega)
  have h_greg : fld 9 76 (op ++ bodyG f) = f.h.greg := by
    rw [fld_body _ _ _ _ (by decide)]
    refine field_eq _ _ _ (fun i hi => ?_)
    simp only [bodyG_bit, bodyH_bit]
    repeat (first | rw [if_neg (by omega)] | rw [if_pos (by omega)])
    exact congrArg _ (by omega)
  have h_gbit : fld 5 71 (op ++ bodyG f) = f.h.gbit := by
    rw [fld_body _ _ _ _ (by decide)]
    refine field_eq _ _ _ (fun i hi => ?_)
    simp only [bodyG_bit, bodyH_bit]
    repeat (first | rw [if_neg (by omega)] | rw [if_pos (by omega)])
    exact congrArg _ (by omega)
  have h_gneg : fld 1 70 (op ++ bodyG f) = f.h.gneg := by
    rw [fld_body _ _ _ _ (by decide)]
    refine field_eq _ _ _ (fun i hi => ?_)
    simp only [bodyG_bit, bodyH_bit]
    repeat (first | rw [if_neg (by omega)] | rw [if_pos (by omega)])
    exact congrArg _ (by omega)
  have h_dst : fld 10 60 (op ++ bodyG f) = f.h.dst := by
    rw [fld_body _ _ _ _ (by decide)]
    refine field_eq _ _ _ (fun i hi => ?_)
    simp only [bodyG_bit, bodyH_bit]
    repeat (first | rw [if_neg (by omega)] | rw [if_pos (by omega)])
    exact congrArg _ (by omega)
  have h_a : fld 10 50 (op ++ bodyG f) = f.a := by
    rw [fld_body _ _ _ _ (by decide)]
    refine field_eq _ _ _ (fun i hi => ?_)
    simp only [bodyG_bit]
    repeat (first | rw [if_neg (by omega)] | rw [if_pos (by omega)])
    exact congrArg _ (by omega)
  have h_b : fld 10 40 (op ++ bodyG f) = f.b := by
    rw [fld_body _ _ _ _ (by decide)]
    refine field_eq _ _ _ (fun i hi => ?_)
    simp only [bodyG_bit]
    repeat (first | rw [if_neg (by omega)] | rw [if_pos (by omega)])
    exact congrArg _ (by omega)
  have h_c : fld 10 30 (op ++ bodyG f) = f.c := by
    rw [fld_body _ _ _ _ (by decide)]
    refine field_eq _ _ _ (fun i hi => ?_)
    simp only [bodyG_bit]
    repeat (first | rw [if_neg (by omega)] | rw [if_pos (by omega)])
    exact congrArg _ (by omega)
  have h_md : fld 30 0 (op ++ bodyG f) = f.md := by
    rw [fld_body _ _ _ _ (by decide)]
    refine field_eq _ _ _ (fun i hi => ?_)
    simp only [bodyG_bit]
    repeat (first | rw [if_neg (by omega)] | rw [if_pos (by omega)])
    exact congrArg _ (by omega)
  simp only [fieldsG, fieldsH, h_wbs, h_greg, h_gbit, h_gneg, h_dst, h_a, h_b, h_c, h_md]

theorem bodyK_bit (f : FmtK) (i : Nat) : (bodyK f).getLsbD i =
      if i < 8 then f.md.getLsbD i
      else if i - 8 < 32 then f.imm.getLsbD (i - 8)
      else if i - 40 < 10 then f.b.getLsbD (i - 40)
      else if i - 50 < 10 then f.a.getLsbD (i - 50)
      else (bodyH f.h).getLsbD (i - 60) := by
  show BitVec.getLsbD (w := 26 + 10 + 10 + 32 + 8) (bodyH f.h ++ f.a ++ f.b ++ f.imm ++ f.md) i = _
  simp only [bit_append, Nat.sub_sub]

theorem fieldsK_word (op : BitVec 10) (f : FmtK) : fieldsK (op ++ bodyK f) = f := by
  have h_wbs : fld 1 85 (op ++ bodyK f) = f.h.wbs := by
    rw [fld_body _ _ _ _ (by decide)]
    refine field_eq _ _ _ (fun i hi => ?_)
    simp only [bodyK_bit, bodyH_bit]
    repeat (first | rw [if_neg (by omega)] | rw [if_pos (by omega)])
    exact congrArg _ (by omega)
  have h_greg : fld 9 76 (op ++ bodyK f) = f.h.greg := by
    rw [fld_body _ _ _ _ (by decide)]
    refine field_eq _ _ _ (fun i hi => ?_)
    simp only [bodyK_bit, bodyH_bit]
    repeat (first | rw [if_neg (by omega)] | rw [if_pos (by omega)])
    exact congrArg _ (by omega)
  have h_gbit : fld 5 71 (op ++ bodyK f) = f.h.gbit := by
    rw [fld_body _ _ _ _ (by decide)]
    refine field_eq _ _ _ (fun i hi => ?_)
    simp only [bodyK_bit, bodyH_bit]
    repeat (first | rw [if_neg (by omega)] | rw [if_pos (by omega)])
    exact congrArg _ (by omega)
  have h_gneg : fld 1 70 (op ++ bodyK f) = f.h.gneg := by
    rw [fld_body _ _ _ _ (by decide)]
    refine field_eq _ _ _ (fun i hi => ?_)
    simp only [bodyK_bit, bodyH_bit]
    repeat (first | rw [if_neg (by omega)] | rw [if_pos (by omega)])
    exact congrArg _ (by omega)
  have h_dst : fld 10 60 (op ++ bodyK f) = f.h.dst := by
    rw [fld_body _ _ _ _ (by decide)]
    refine field_eq _ _ _ (fun i hi => ?_)
    simp only [bodyK_bit, bodyH_bit]
    repeat (first | rw [if_neg (by omega)] | rw [if_pos (by omega)])
    exact congrArg _ (by omega)
  have h_a : fld 10 50 (op ++ bodyK f) = f.a := by
    rw [fld_body _ _ _ _ (by decide)]
    refine field_eq _ _ _ (fun i hi => ?_)
    simp only [bodyK_bit]
    repeat (first | rw [if_neg (by omega)] | rw [if_pos (by omega)])
    exact congrArg _ (by omega)
  have h_b : fld 10 40 (op ++ bodyK f) = f.b := by
    rw [fld_body _ _ _ _ (by decide)]
    refine field_eq _ _ _ (fun i hi => ?_)
    simp only [bodyK_bit]
    repeat (first | rw [if_neg (by omega)] | rw [if_pos (by omega)])
    exact congrArg _ (by omega)
  have h_imm : fld 32 8 (op ++ bodyK f) = f.imm := by
    rw [fld_body _ _ _ _ (by decide)]
    refine field_eq _ _ _ (fun i hi => ?_)
    simp only [bodyK_bit]
    repeat (first | rw [if_neg (by omega)] | rw [if_pos (by omega)])
    exact congrArg _ (by omega)
  have h_md : fld 8 0 (op ++ bodyK f) = f.md := by
    rw [fld_body _ _ _ _ (by decide)]
    refine field_eq _ _ _ (fun i hi => ?_)
    simp only [bodyK_bit]
    repeat (first | rw [if_neg (by omega)] | rw [if_pos (by omega)])
    exact congrArg _ (by omega)
  simp only [fieldsK, fieldsH, h_wbs, h_greg, h_gbit, h_gneg, h_dst, h_a, h_b, h_imm, h_md]

theorem bodyM_bit (f : FmtM) (i : Nat) : (bodyM f).getLsbD i =
      if i < 3 then f.scope.getLsbD i
      else if i - 3 < 3 then f.hint.getLsbD (i - 3)
      else if i - 6 < 4 then f.width.getLsbD (i - 6)
      else if i - 10 < 20 then f.off.getLsbD (i - 10)
      else if i - 30 < 10 then f.c.getLsbD (i - 30)
      else if i - 40 < 10 then f.b.getLsbD (i - 40)
      else if i - 50 < 10 then f.a.getLsbD (i - 50)
      else (bodyH f.h).getLsbD (i - 60) := by
  show BitVec.getLsbD (w := 26 + 10 + 10 + 10 + 20 + 4 + 3 + 3) (bodyH f.h ++ f.a ++ f.b ++ f.c ++ f.off ++ f.width ++ f.hint ++ f.scope) i = _
  simp only [bit_append, Nat.sub_sub]

theorem fieldsM_word (op : BitVec 10) (f : FmtM) : fieldsM (op ++ bodyM f) = f := by
  have h_wbs : fld 1 85 (op ++ bodyM f) = f.h.wbs := by
    rw [fld_body _ _ _ _ (by decide)]
    refine field_eq _ _ _ (fun i hi => ?_)
    simp only [bodyM_bit, bodyH_bit]
    repeat (first | rw [if_neg (by omega)] | rw [if_pos (by omega)])
    exact congrArg _ (by omega)
  have h_greg : fld 9 76 (op ++ bodyM f) = f.h.greg := by
    rw [fld_body _ _ _ _ (by decide)]
    refine field_eq _ _ _ (fun i hi => ?_)
    simp only [bodyM_bit, bodyH_bit]
    repeat (first | rw [if_neg (by omega)] | rw [if_pos (by omega)])
    exact congrArg _ (by omega)
  have h_gbit : fld 5 71 (op ++ bodyM f) = f.h.gbit := by
    rw [fld_body _ _ _ _ (by decide)]
    refine field_eq _ _ _ (fun i hi => ?_)
    simp only [bodyM_bit, bodyH_bit]
    repeat (first | rw [if_neg (by omega)] | rw [if_pos (by omega)])
    exact congrArg _ (by omega)
  have h_gneg : fld 1 70 (op ++ bodyM f) = f.h.gneg := by
    rw [fld_body _ _ _ _ (by decide)]
    refine field_eq _ _ _ (fun i hi => ?_)
    simp only [bodyM_bit, bodyH_bit]
    repeat (first | rw [if_neg (by omega)] | rw [if_pos (by omega)])
    exact congrArg _ (by omega)
  have h_dst : fld 10 60 (op ++ bodyM f) = f.h.dst := by
    rw [fld_body _ _ _ _ (by decide)]
    refine field_eq _ _ _ (fun i hi => ?_)
    simp only [bodyM_bit, bodyH_bit]
    repeat (first | rw [if_neg (by omega)] | rw [if_pos (by omega)])
    exact congrArg _ (by omega)
  have h_a : fld 10 50 (op ++ bodyM f) = f.a := by
    rw [fld_body _ _ _ _ (by decide)]
    refine field_eq _ _ _ (fun i hi => ?_)
    simp only [bodyM_bit]
    repeat (first | rw [if_neg (by omega)] | rw [if_pos (by omega)])
    exact congrArg _ (by omega)
  have h_b : fld 10 40 (op ++ bodyM f) = f.b := by
    rw [fld_body _ _ _ _ (by decide)]
    refine field_eq _ _ _ (fun i hi => ?_)
    simp only [bodyM_bit]
    repeat (first | rw [if_neg (by omega)] | rw [if_pos (by omega)])
    exact congrArg _ (by omega)
  have h_c : fld 10 30 (op ++ bodyM f) = f.c := by
    rw [fld_body _ _ _ _ (by decide)]
    refine field_eq _ _ _ (fun i hi => ?_)
    simp only [bodyM_bit]
    repeat (first | rw [if_neg (by omega)] | rw [if_pos (by omega)])
    exact congrArg _ (by omega)
  have h_off : fld 20 10 (op ++ bodyM f) = f.off := by
    rw [fld_body _ _ _ _ (by decide)]
    refine field_eq _ _ _ (fun i hi => ?_)
    simp only [bodyM_bit]
    repeat (first | rw [if_neg (by omega)] | rw [if_pos (by omega)])
    exact congrArg _ (by omega)
  have h_width : fld 4 6 (op ++ bodyM f) = f.width := by
    rw [fld_body _ _ _ _ (by decide)]
    refine field_eq _ _ _ (fun i hi => ?_)
    simp only [bodyM_bit]
    repeat (first | rw [if_neg (by omega)] | rw [if_pos (by omega)])
    exact congrArg _ (by omega)
  have h_hint : fld 3 3 (op ++ bodyM f) = f.hint := by
    rw [fld_body _ _ _ _ (by decide)]
    refine field_eq _ _ _ (fun i hi => ?_)
    simp only [bodyM_bit]
    repeat (first | rw [if_neg (by omega)] | rw [if_pos (by omega)])
    exact congrArg _ (by omega)
  have h_scope : fld 3 0 (op ++ bodyM f) = f.scope := by
    rw [fld_body _ _ _ _ (by decide)]
    refine field_eq _ _ _ (fun i hi => ?_)
    simp only [bodyM_bit]
    repeat (first | rw [if_neg (by omega)] | rw [if_pos (by omega)])
    exact congrArg _ (by omega)
  simp only [fieldsM, fieldsH, h_wbs, h_greg, h_gbit, h_gneg, h_dst, h_a, h_b, h_c, h_off, h_width, h_hint, h_scope]

theorem bodyJ_bit (f : FmtJ) (i : Nat) : (bodyJ f).getLsbD i =
      if i < 30 then f.md.getLsbD i
      else if i - 30 < 3 then f.tslot.getLsbD (i - 30)
      else if i - 33 < 27 then f.off.getLsbD (i - 33)
      else (bodyH f.h).getLsbD (i - 60) := by
  show BitVec.getLsbD (w := 26 + 27 + 3 + 30) (bodyH f.h ++ f.off ++ f.tslot ++ f.md) i = _
  simp only [bit_append, Nat.sub_sub]

theorem fieldsJ_word (op : BitVec 10) (f : FmtJ) : fieldsJ (op ++ bodyJ f) = f := by
  have h_wbs : fld 1 85 (op ++ bodyJ f) = f.h.wbs := by
    rw [fld_body _ _ _ _ (by decide)]
    refine field_eq _ _ _ (fun i hi => ?_)
    simp only [bodyJ_bit, bodyH_bit]
    repeat (first | rw [if_neg (by omega)] | rw [if_pos (by omega)])
    exact congrArg _ (by omega)
  have h_greg : fld 9 76 (op ++ bodyJ f) = f.h.greg := by
    rw [fld_body _ _ _ _ (by decide)]
    refine field_eq _ _ _ (fun i hi => ?_)
    simp only [bodyJ_bit, bodyH_bit]
    repeat (first | rw [if_neg (by omega)] | rw [if_pos (by omega)])
    exact congrArg _ (by omega)
  have h_gbit : fld 5 71 (op ++ bodyJ f) = f.h.gbit := by
    rw [fld_body _ _ _ _ (by decide)]
    refine field_eq _ _ _ (fun i hi => ?_)
    simp only [bodyJ_bit, bodyH_bit]
    repeat (first | rw [if_neg (by omega)] | rw [if_pos (by omega)])
    exact congrArg _ (by omega)
  have h_gneg : fld 1 70 (op ++ bodyJ f) = f.h.gneg := by
    rw [fld_body _ _ _ _ (by decide)]
    refine field_eq _ _ _ (fun i hi => ?_)
    simp only [bodyJ_bit, bodyH_bit]
    repeat (first | rw [if_neg (by omega)] | rw [if_pos (by omega)])
    exact congrArg _ (by omega)
  have h_dst : fld 10 60 (op ++ bodyJ f) = f.h.dst := by
    rw [fld_body _ _ _ _ (by decide)]
    refine field_eq _ _ _ (fun i hi => ?_)
    simp only [bodyJ_bit, bodyH_bit]
    repeat (first | rw [if_neg (by omega)] | rw [if_pos (by omega)])
    exact congrArg _ (by omega)
  have h_off : fld 27 33 (op ++ bodyJ f) = f.off := by
    rw [fld_body _ _ _ _ (by decide)]
    refine field_eq _ _ _ (fun i hi => ?_)
    simp only [bodyJ_bit]
    repeat (first | rw [if_neg (by omega)] | rw [if_pos (by omega)])
    exact congrArg _ (by omega)
  have h_tslot : fld 3 30 (op ++ bodyJ f) = f.tslot := by
    rw [fld_body _ _ _ _ (by decide)]
    refine field_eq _ _ _ (fun i hi => ?_)
    simp only [bodyJ_bit]
    repeat (first | rw [if_neg (by omega)] | rw [if_pos (by omega)])
    exact congrArg _ (by omega)
  have h_md : fld 30 0 (op ++ bodyJ f) = f.md := by
    rw [fld_body _ _ _ _ (by decide)]
    refine field_eq _ _ _ (fun i hi => ?_)
    simp only [bodyJ_bit]
    repeat (first | rw [if_neg (by omega)] | rw [if_pos (by omega)])
    exact congrArg _ (by omega)
  simp only [fieldsJ, fieldsH, h_wbs, h_greg, h_gbit, h_gneg, h_dst, h_off, h_tslot, h_md]

theorem bodyX_bit (f : FmtX) (i : Nat) : (bodyX f).getLsbD i =
      if i < 14 then f.xflg.getLsbD i
      else if i - 14 < 5 then f.outt.getLsbD (i - 14)
      else if i - 19 < 2 then f.ovf.getLsbD (i - 19)
      else if i - 21 < 2 then f.rnd.getLsbD (i - 21)
      else if i - 23 < 2 then f.gsz.getLsbD (i - 23)
      else if i - 25 < 5 then f.etype.getLsbD (i - 25)
      else if i - 30 < 10 then f.c.getLsbD (i - 30)
      else if i - 40 < 8 then f.acc.getLsbD (i - 40)
      else if i - 48 < 6 then f.slotb.getLsbD (i - 48)
      else if i - 54 < 6 then f.slota.getLsbD (i - 54)
      else (bodyH f.h).getLsbD (i - 60) := by
  show BitVec.getLsbD (w := 26 + 6 + 6 + 8 + 10 + 5 + 2 + 2 + 2 + 5 + 14) (bodyH f.h ++ f.slota ++ f.slotb ++ f.acc ++ f.c ++ f.etype ++ f.gsz ++ f.rnd ++ f.ovf ++ f.outt ++ f.xflg) i = _
  simp only [bit_append, Nat.sub_sub]

theorem fieldsX_word (op : BitVec 10) (f : FmtX) : fieldsX (op ++ bodyX f) = f := by
  have h_wbs : fld 1 85 (op ++ bodyX f) = f.h.wbs := by
    rw [fld_body _ _ _ _ (by decide)]
    refine field_eq _ _ _ (fun i hi => ?_)
    simp only [bodyX_bit, bodyH_bit]
    repeat (first | rw [if_neg (by omega)] | rw [if_pos (by omega)])
    exact congrArg _ (by omega)
  have h_greg : fld 9 76 (op ++ bodyX f) = f.h.greg := by
    rw [fld_body _ _ _ _ (by decide)]
    refine field_eq _ _ _ (fun i hi => ?_)
    simp only [bodyX_bit, bodyH_bit]
    repeat (first | rw [if_neg (by omega)] | rw [if_pos (by omega)])
    exact congrArg _ (by omega)
  have h_gbit : fld 5 71 (op ++ bodyX f) = f.h.gbit := by
    rw [fld_body _ _ _ _ (by decide)]
    refine field_eq _ _ _ (fun i hi => ?_)
    simp only [bodyX_bit, bodyH_bit]
    repeat (first | rw [if_neg (by omega)] | rw [if_pos (by omega)])
    exact congrArg _ (by omega)
  have h_gneg : fld 1 70 (op ++ bodyX f) = f.h.gneg := by
    rw [fld_body _ _ _ _ (by decide)]
    refine field_eq _ _ _ (fun i hi => ?_)
    simp only [bodyX_bit, bodyH_bit]
    repeat (first | rw [if_neg (by omega)] | rw [if_pos (by omega)])
    exact congrArg _ (by omega)
  have h_dst : fld 10 60 (op ++ bodyX f) = f.h.dst := by
    rw [fld_body _ _ _ _ (by decide)]
    refine field_eq _ _ _ (fun i hi => ?_)
    simp only [bodyX_bit, bodyH_bit]
    repeat (first | rw [if_neg (by omega)] | rw [if_pos (by omega)])
    exact congrArg _ (by omega)
  have h_slota : fld 6 54 (op ++ bodyX f) = f.slota := by
    rw [fld_body _ _ _ _ (by decide)]
    refine field_eq _ _ _ (fun i hi => ?_)
    simp only [bodyX_bit]
    repeat (first | rw [if_neg (by omega)] | rw [if_pos (by omega)])
    exact congrArg _ (by omega)
  have h_slotb : fld 6 48 (op ++ bodyX f) = f.slotb := by
    rw [fld_body _ _ _ _ (by decide)]
    refine field_eq _ _ _ (fun i hi => ?_)
    simp only [bodyX_bit]
    repeat (first | rw [if_neg (by omega)] | rw [if_pos (by omega)])
    exact congrArg _ (by omega)
  have h_acc : fld 8 40 (op ++ bodyX f) = f.acc := by
    rw [fld_body _ _ _ _ (by decide)]
    refine field_eq _ _ _ (fun i hi => ?_)
    simp only [bodyX_bit]
    repeat (first | rw [if_neg (by omega)] | rw [if_pos (by omega)])
    exact congrArg _ (by omega)
  have h_c : fld 10 30 (op ++ bodyX f) = f.c := by
    rw [fld_body _ _ _ _ (by decide)]
    refine field_eq _ _ _ (fun i hi => ?_)
    simp only [bodyX_bit]
    repeat (first | rw [if_neg (by omega)] | rw [if_pos (by omega)])
    exact congrArg _ (by omega)
  have h_etype : fld 5 25 (op ++ bodyX f) = f.etype := by
    rw [fld_body _ _ _ _ (by decide)]
    refine field_eq _ _ _ (fun i hi => ?_)
    simp only [bodyX_bit]
    repeat (first | rw [if_neg (by omega)] | rw [if_pos (by omega)])
    exact congrArg _ (by omega)
  have h_gsz : fld 2 23 (op ++ bodyX f) = f.gsz := by
    rw [fld_body _ _ _ _ (by decide)]
    refine field_eq _ _ _ (fun i hi => ?_)
    simp only [bodyX_bit]
    repeat (first | rw [if_neg (by omega)] | rw [if_pos (by omega)])
    exact congrArg _ (by omega)
  have h_rnd : fld 2 21 (op ++ bodyX f) = f.rnd := by
    rw [fld_body _ _ _ _ (by decide)]
    refine field_eq _ _ _ (fun i hi => ?_)
    simp only [bodyX_bit]
    repeat (first | rw [if_neg (by omega)] | rw [if_pos (by omega)])
    exact congrArg _ (by omega)
  have h_ovf : fld 2 19 (op ++ bodyX f) = f.ovf := by
    rw [fld_body _ _ _ _ (by decide)]
    refine field_eq _ _ _ (fun i hi => ?_)
    simp only [bodyX_bit]
    repeat (first | rw [if_neg (by omega)] | rw [if_pos (by omega)])
    exact congrArg _ (by omega)
  have h_outt : fld 5 14 (op ++ bodyX f) = f.outt := by
    rw [fld_body _ _ _ _ (by decide)]
    refine field_eq _ _ _ (fun i hi => ?_)
    simp only [bodyX_bit]
    repeat (first | rw [if_neg (by omega)] | rw [if_pos (by omega)])
    exact congrArg _ (by omega)
  have h_xflg : fld 14 0 (op ++ bodyX f) = f.xflg := by
    rw [fld_body _ _ _ _ (by decide)]
    refine field_eq _ _ _ (fun i hi => ?_)
    simp only [bodyX_bit]
    repeat (first | rw [if_neg (by omega)] | rw [if_pos (by omega)])
    exact congrArg _ (by omega)
  simp only [fieldsX, fieldsH, h_wbs, h_greg, h_gbit, h_gneg, h_dst, h_slota, h_slotb, h_acc, h_c, h_etype, h_gsz, h_rnd, h_ovf, h_outt, h_xflg]

theorem bodyE_bit (f : FmtE) (i : Nat) : (bodyE f).getLsbD i =
      if i < 4 then f.eflg.getLsbD i
      else if i - 4 < 1 then f.bt.getLsbD (i - 4)
      else if i - 5 < 3 then f.dims.getLsbD (i - 5)
      else if i - 8 < 4 then f.width.getLsbD (i - 8)
      else if i - 12 < 18 then f.soff.getLsbD (i - 12)
      else if i - 30 < 10 then f.c.getLsbD (i - 30)
      else if i - 40 < 10 then f.b.getLsbD (i - 40)
      else if i - 50 < 10 then f.a.getLsbD (i - 50)
      else (bodyH f.h).getLsbD (i - 60) := by
  show BitVec.getLsbD (w := 26 + 10 + 10 + 10 + 18 + 4 + 3 + 1 + 4) (bodyH f.h ++ f.a ++ f.b ++ f.c ++ f.soff ++ f.width ++ f.dims ++ f.bt ++ f.eflg) i = _
  simp only [bit_append, Nat.sub_sub]

theorem fieldsE_word (op : BitVec 10) (f : FmtE) : fieldsE (op ++ bodyE f) = f := by
  have h_wbs : fld 1 85 (op ++ bodyE f) = f.h.wbs := by
    rw [fld_body _ _ _ _ (by decide)]
    refine field_eq _ _ _ (fun i hi => ?_)
    simp only [bodyE_bit, bodyH_bit]
    repeat (first | rw [if_neg (by omega)] | rw [if_pos (by omega)])
    exact congrArg _ (by omega)
  have h_greg : fld 9 76 (op ++ bodyE f) = f.h.greg := by
    rw [fld_body _ _ _ _ (by decide)]
    refine field_eq _ _ _ (fun i hi => ?_)
    simp only [bodyE_bit, bodyH_bit]
    repeat (first | rw [if_neg (by omega)] | rw [if_pos (by omega)])
    exact congrArg _ (by omega)
  have h_gbit : fld 5 71 (op ++ bodyE f) = f.h.gbit := by
    rw [fld_body _ _ _ _ (by decide)]
    refine field_eq _ _ _ (fun i hi => ?_)
    simp only [bodyE_bit, bodyH_bit]
    repeat (first | rw [if_neg (by omega)] | rw [if_pos (by omega)])
    exact congrArg _ (by omega)
  have h_gneg : fld 1 70 (op ++ bodyE f) = f.h.gneg := by
    rw [fld_body _ _ _ _ (by decide)]
    refine field_eq _ _ _ (fun i hi => ?_)
    simp only [bodyE_bit, bodyH_bit]
    repeat (first | rw [if_neg (by omega)] | rw [if_pos (by omega)])
    exact congrArg _ (by omega)
  have h_dst : fld 10 60 (op ++ bodyE f) = f.h.dst := by
    rw [fld_body _ _ _ _ (by decide)]
    refine field_eq _ _ _ (fun i hi => ?_)
    simp only [bodyE_bit, bodyH_bit]
    repeat (first | rw [if_neg (by omega)] | rw [if_pos (by omega)])
    exact congrArg _ (by omega)
  have h_a : fld 10 50 (op ++ bodyE f) = f.a := by
    rw [fld_body _ _ _ _ (by decide)]
    refine field_eq _ _ _ (fun i hi => ?_)
    simp only [bodyE_bit]
    repeat (first | rw [if_neg (by omega)] | rw [if_pos (by omega)])
    exact congrArg _ (by omega)
  have h_b : fld 10 40 (op ++ bodyE f) = f.b := by
    rw [fld_body _ _ _ _ (by decide)]
    refine field_eq _ _ _ (fun i hi => ?_)
    simp only [bodyE_bit]
    repeat (first | rw [if_neg (by omega)] | rw [if_pos (by omega)])
    exact congrArg _ (by omega)
  have h_c : fld 10 30 (op ++ bodyE f) = f.c := by
    rw [fld_body _ _ _ _ (by decide)]
    refine field_eq _ _ _ (fun i hi => ?_)
    simp only [bodyE_bit]
    repeat (first | rw [if_neg (by omega)] | rw [if_pos (by omega)])
    exact congrArg _ (by omega)
  have h_soff : fld 18 12 (op ++ bodyE f) = f.soff := by
    rw [fld_body _ _ _ _ (by decide)]
    refine field_eq _ _ _ (fun i hi => ?_)
    simp only [bodyE_bit]
    repeat (first | rw [if_neg (by omega)] | rw [if_pos (by omega)])
    exact congrArg _ (by omega)
  have h_width : fld 4 8 (op ++ bodyE f) = f.width := by
    rw [fld_body _ _ _ _ (by decide)]
    refine field_eq _ _ _ (fun i hi => ?_)
    simp only [bodyE_bit]
    repeat (first | rw [if_neg (by omega)] | rw [if_pos (by omega)])
    exact congrArg _ (by omega)
  have h_dims : fld 3 5 (op ++ bodyE f) = f.dims := by
    rw [fld_body _ _ _ _ (by decide)]
    refine field_eq _ _ _ (fun i hi => ?_)
    simp only [bodyE_bit]
    repeat (first | rw [if_neg (by omega)] | rw [if_pos (by omega)])
    exact congrArg _ (by omega)
  have h_bt : fld 1 4 (op ++ bodyE f) = f.bt := by
    rw [fld_body _ _ _ _ (by decide)]
    refine field_eq _ _ _ (fun i hi => ?_)
    simp only [bodyE_bit]
    repeat (first | rw [if_neg (by omega)] | rw [if_pos (by omega)])
    exact congrArg _ (by omega)
  have h_eflg : fld 4 0 (op ++ bodyE f) = f.eflg := by
    rw [fld_body _ _ _ _ (by decide)]
    refine field_eq _ _ _ (fun i hi => ?_)
    simp only [bodyE_bit]
    repeat (first | rw [if_neg (by omega)] | rw [if_pos (by omega)])
    exact congrArg _ (by omega)
  simp only [fieldsE, fieldsH, h_wbs, h_greg, h_gbit, h_gneg, h_dst, h_a, h_b, h_c, h_soff, h_width, h_dims, h_bt, h_eflg]

theorem bodyS_bit (f : FmtS) (i : Nat) : (bodyS f).getLsbD i =
      if i < 20 then f.pad.getLsbD i
      else if i - 20 < 4 then f.sub.getLsbD (i - 20)
      else if i - 24 < 16 then f.imm.getLsbD (i - 24)
      else if i - 40 < 10 then f.b.getLsbD (i - 40)
      else if i - 50 < 10 then f.a.getLsbD (i - 50)
      else (bodyH f.h).getLsbD (i - 60) := by
  show BitVec.getLsbD (w := 26 + 10 + 10 + 16 + 4 + 20) (bodyH f.h ++ f.a ++ f.b ++ f.imm ++ f.sub ++ f.pad) i = _
  simp only [bit_append, Nat.sub_sub]

theorem fieldsS_word (op : BitVec 10) (f : FmtS) : fieldsS (op ++ bodyS f) = f := by
  have h_wbs : fld 1 85 (op ++ bodyS f) = f.h.wbs := by
    rw [fld_body _ _ _ _ (by decide)]
    refine field_eq _ _ _ (fun i hi => ?_)
    simp only [bodyS_bit, bodyH_bit]
    repeat (first | rw [if_neg (by omega)] | rw [if_pos (by omega)])
    exact congrArg _ (by omega)
  have h_greg : fld 9 76 (op ++ bodyS f) = f.h.greg := by
    rw [fld_body _ _ _ _ (by decide)]
    refine field_eq _ _ _ (fun i hi => ?_)
    simp only [bodyS_bit, bodyH_bit]
    repeat (first | rw [if_neg (by omega)] | rw [if_pos (by omega)])
    exact congrArg _ (by omega)
  have h_gbit : fld 5 71 (op ++ bodyS f) = f.h.gbit := by
    rw [fld_body _ _ _ _ (by decide)]
    refine field_eq _ _ _ (fun i hi => ?_)
    simp only [bodyS_bit, bodyH_bit]
    repeat (first | rw [if_neg (by omega)] | rw [if_pos (by omega)])
    exact congrArg _ (by omega)
  have h_gneg : fld 1 70 (op ++ bodyS f) = f.h.gneg := by
    rw [fld_body _ _ _ _ (by decide)]
    refine field_eq _ _ _ (fun i hi => ?_)
    simp only [bodyS_bit, bodyH_bit]
    repeat (first | rw [if_neg (by omega)] | rw [if_pos (by omega)])
    exact congrArg _ (by omega)
  have h_dst : fld 10 60 (op ++ bodyS f) = f.h.dst := by
    rw [fld_body _ _ _ _ (by decide)]
    refine field_eq _ _ _ (fun i hi => ?_)
    simp only [bodyS_bit, bodyH_bit]
    repeat (first | rw [if_neg (by omega)] | rw [if_pos (by omega)])
    exact congrArg _ (by omega)
  have h_a : fld 10 50 (op ++ bodyS f) = f.a := by
    rw [fld_body _ _ _ _ (by decide)]
    refine field_eq _ _ _ (fun i hi => ?_)
    simp only [bodyS_bit]
    repeat (first | rw [if_neg (by omega)] | rw [if_pos (by omega)])
    exact congrArg _ (by omega)
  have h_b : fld 10 40 (op ++ bodyS f) = f.b := by
    rw [fld_body _ _ _ _ (by decide)]
    refine field_eq _ _ _ (fun i hi => ?_)
    simp only [bodyS_bit]
    repeat (first | rw [if_neg (by omega)] | rw [if_pos (by omega)])
    exact congrArg _ (by omega)
  have h_imm : fld 16 24 (op ++ bodyS f) = f.imm := by
    rw [fld_body _ _ _ _ (by decide)]
    refine field_eq _ _ _ (fun i hi => ?_)
    simp only [bodyS_bit]
    repeat (first | rw [if_neg (by omega)] | rw [if_pos (by omega)])
    exact congrArg _ (by omega)
  have h_sub : fld 4 20 (op ++ bodyS f) = f.sub := by
    rw [fld_body _ _ _ _ (by decide)]
    refine field_eq _ _ _ (fun i hi => ?_)
    simp only [bodyS_bit]
    repeat (first | rw [if_neg (by omega)] | rw [if_pos (by omega)])
    exact congrArg _ (by omega)
  have h_pad : fld 20 0 (op ++ bodyS f) = f.pad := by
    rw [fld_body _ _ _ _ (by decide)]
    refine field_eq _ _ _ (fun i hi => ?_)
    simp only [bodyS_bit]
    repeat (first | rw [if_neg (by omega)] | rw [if_pos (by omega)])
    exact congrArg _ (by omega)
  simp only [fieldsS, fieldsH, h_wbs, h_greg, h_gbit, h_gneg, h_dst, h_a, h_b, h_imm, h_sub, h_pad]

end Sys2Proof
end

