-- ==== Sys2Proof/Laws/Fabric.lean ====
section
/-! SUPPORT. The fabric's messages and lines (R510, R512, R516): their lengths, and what a VF without a key leaves unchanged. -/

namespace Sys2Proof.Machine

@[simp] theorem fabHeader_length (m : FabMsg) : (fabHeader m).length = 32 := by simp [fabHeader, leBytes_length]

theorem fabTokens_eq (m : FabMsg) : fabTokens m = (32 + m.data.length + 31) / 32 := by simp [fabTokens]

theorem fabTokens_pos (m : FabMsg) : 0 < fabTokens m := by rw [fabTokens_eq]; omega

@[simp] theorem State.lineEnc_length (s : State) (vf fa : Nat) (d : List Byte) : (s.lineEnc vf fa d).length = 128 := by
  simp [State.lineEnc, leBytes_length]

@[simp] theorem State.lineDec_length (s : State) (vf fa : Nat) (d : List Byte) : (s.lineDec vf fa d).length = 128 := by
  simp [State.lineDec, leBytes_length]

@[simp] theorem State.plainRsp_status (s : State) (r : Req) (k : Nat) (m : FabMsg) : (s.plainRsp r k m).status = m.status := by
  unfold State.plainRsp; split <;> rfl

@[simp] theorem State.plainRsp_stamp (s : State) (r : Req) (k : Nat) (m : FabMsg) : (s.plainRsp r k m).stamp = m.stamp := by
  unfold State.plainRsp; split <;> rfl

@[simp] theorem State.plainRsp_write (s : State) (r : Req) (k : Nat) (m : FabMsg) (h : 2 < k) : s.plainRsp r k m = m := by
  simp [State.plainRsp, Nat.not_le.mpr h]

end Sys2Proof.Machine
end

