-- ==== Sys2Proof/Laws/Produce.lean ====
section
/-! SUPPORT. The law of register-result instructions (chapters 04 and 05): one that takes effect completes with the results its formula gives. -/

namespace Sys2Proof.Machine

theorem lowRegs_lowRegs (n : Nat) (x : W128) : lowRegs n (lowRegs n x) = lowRegs n x := by
  simp [lowRegs, BitVec.and_assoc]

/-- What the step of a path does to the lanes. -/
theorem Group.lane_advance (gr : Group) (iss : Issue) (ps : List Nat) (l : Nat) :
    (gr.advance iss ps).lane l =
      if l < gr.lanes.length ∧ l ∈ ps ∧ (gr.lane l).run = .running then (gr.lane l).goTo (nextPc iss.pc) else gr.lane l := by
  rw [Group.advance, Group.lane_upd]
  by_cases h1 : l < gr.lanes.length <;> by_cases h2 : l ∈ ps <;> by_cases h3 : (gr.lane l).run = .running <;> simp [h1, h2, h3]

@[simp] theorem Lane.rest_goTo (l : Lane) (pc : W64) : (l.goTo pc).rest = l.rest := rfl

@[simp] theorem Lane.rest_setRegs (l : Lane) (b n : Nat) (x : W128) : (l.setRegs b n x).rest = l.rest := by
  induction n generalizing l b x with
  | zero => rfl
  | succ n ih => rw [Lane.setRegs, ih]; rfl

@[simp] theorem Lane.pc_setRegs (l : Lane) (b n : Nat) (x : W128) : (l.setRegs b n x).pc = l.pc := (Lane.setRegs_frame l b n x).1
@[simp] theorem Lane.run_setRegs (l : Lane) (b n : Nat) (x : W128) : (l.setRegs b n x).run = l.run := (Lane.setRegs_frame l b n x).2.1

theorem Group.lanes_setRegs (gr : Group) (b n : Nat) (x : W128) : (gr.setRegs b n x).lanes = gr.lanes := by
  induction n generalizing gr b x with
  | zero => rfl
  | succ n ih => rw [Group.setRegs, ih]; rfl

/-- What a group is apart from its lanes, its scalar registers and FPSTAT. -/
def Group.core3 (gr : Group) : Group := { gr with lanes := [], s := [], spend := [], fpstat := 0 }

theorem Group.core3_setRegs (gr : Group) (b n : Nat) (x : W128) : (gr.setRegs b n x).core3 = gr.core3 := by
  induction n generalizing gr b x with
  | zero => rfl
  | succ n ih => rw [Group.setRegs, ih]; rfl

theorem Group.fpstat_setRegs (gr : Group) (b n : Nat) (x : W128) : (gr.setRegs b n x).fpstat = gr.fpstat := by
  induction n generalizing gr b x with
  | zero => rfl
  | succ n ih => rw [Group.setRegs, ih]; rfl

/-- Fields that writing a destination leaves. -/
theorem Group.writeDst_frame (gr : Group) (d : BitVec 10) (n : Nat) (ps : List Nat) (val : Nat → W128) :
    (gr.writeDst d n ps val).core3 = gr.core3 ∧ (gr.writeDst d n ps val).lanes.length = gr.lanes.length ∧
    (gr.writeDst d n ps val).fpstat = gr.fpstat := by
  unfold Group.writeDst
  split
  · exact ⟨rfl, Group.upd_length _ _ _, rfl⟩
  · split
    · exact ⟨rfl, rfl, rfl⟩
    · exact ⟨Group.core3_setRegs _ _ _ _, by rw [Group.lanes_setRegs], Group.fpstat_setRegs _ _ _ _⟩
  · exact ⟨rfl, rfl, rfl⟩

/-- The threads after a destination has been written: the rest of each is left. -/
theorem Group.lane_writeDst_rest (gr : Group) (d : BitVec 10) (n : Nat) (ps : List Nat) (val : Nat → W128) (l : Nat) :
    ((gr.writeDst d n ps val).lane l).rest = (gr.lane l).rest ∧ ((gr.writeDst d n ps val).lane l).pc = (gr.lane l).pc ∧
    ((gr.writeDst d n ps val).lane l).run = (gr.lane l).run := by
  unfold Group.writeDst
  split
  · rw [Group.lane_upd]; split
    · exact ⟨by simp, by simp, by simp⟩
    · exact ⟨rfl, rfl, rfl⟩
  · split
    · exact ⟨rfl, rfl, rfl⟩
    · simp [Group.lane, Group.lanes_setRegs]
  · exact ⟨rfl, rfl, rfl⟩

/-- The registers after a destination has been written. -/
theorem Group.wrote_writeDst (gr g2 : Group) (h : Hdr) (n : Nat) (ps : List Nat) (val : Nat → W128) (hw : h.wbs ≠ 1) (hne : ps ≠ [])
    (hlen : ∀ l ∈ ps, l < gr.lanes.length)
    (hv : ∀ l r, (g2.lane l).rd r = ((gr.writeDst h.dst n ps val).lane l).rd r) (hs : ∀ r, g2.rd r = (gr.writeDst h.dst n ps val).rd r) :
    gr.wrote g2 h n ps val := by
  unfold Group.wrote
  have hb : (h.wbs == 1) = false := by simpa using hw
  rw [hb]
  unfold Group.writeDst at hv hs
  split
  · rename_i b _ hd
    simp only [hd] at hv hs
    refine ⟨?_, ?_, ?_⟩
    · intro l hl k hk
      rw [hv, Group.lane_upd, if_pos ⟨hlen l hl, hl⟩, Lane.rd_setRegs _ _ _ _ _ hk]
    · intro l r hlr
      rw [hv, Group.lane_upd]
      split
      · rename_i hcond
        rcases hlr with hlr | hlr
        · exact absurd hcond.2 hlr
        · unfold inDst at hlr
          by_cases hr : r < b
          · exact Lane.rd_setRegs_below _ _ _ _ _ hr
          · exact Lane.rd_setRegs_above _ _ _ _ _ (by omega)
      · rfl
    · intro r; rw [hs]; rfl
  · rename_i b _ hd
    obtain ⟨p, rest, rfl⟩ := List.exists_cons_of_ne_nil hne
    simp only [hd] at hv hs
    refine ⟨?_, ?_, ?_⟩
    · intro k hk; rw [hs, Group.rd_setRegs _ _ _ _ _ hk]; rfl
    · intro r hr
      rw [hs]
      unfold inDst at hr
      by_cases hrb : r < b
      · exact Group.rd_setRegs_below _ _ _ _ _ hrb
      · exact Group.rd_setRegs_above _ _ _ _ _ (by omega)
    · intro l r; rw [hv]; simp only [Group.lane, Group.lanes_setRegs]
  · rename_i hd
    split at hv
    · rename_i hd2; exact absurd hd2 (by intro hh; simp_all)
    · rename_i hd2; exact absurd hd2 (by intro hh; simp_all)
    · rename_i h1 h2 
      refine ⟨hv, ?_⟩
      intro r
      rw [hs]
      split
      · rename_i x hx; exact absurd hx (h1 x)
      · rename_i x hx; exact absurd hx (h2 x)
      · rfl

/-- The threads after a result has entered the latches. -/
theorem Group.lane_pushLatch (gr : Group) (path ok : List Nat) (d : BitVec 10) (n : Nat) (w : Bool) (val : Nat → W128) (l : Nat) :
    ((gr.pushLatch path ok d n w val).lane l).rest = (gr.lane l).rest ∧ ((gr.pushLatch path ok d n w val).lane l).pc = (gr.lane l).pc ∧
    ((gr.pushLatch path ok d n w val).lane l).run = (gr.lane l).run ∧ (∀ r, ((gr.pushLatch path ok d n w val).lane l).rd r = (gr.lane l).rd r) := by
  unfold Group.pushLatch
  rw [Group.lane_upd]
  split
  · split <;> exact ⟨rfl, rfl, rfl, fun _ => rfl⟩
  · exact ⟨rfl, rfl, rfl, fun _ => rfl⟩

/-- A register-result instruction whose results are values, not faults: what the group becomes. -/
theorem Group.produce_vals {gr' gr : Group} {iss : Issue} {path ps : List Nat} {h : Hdr} {n : Nat} {f : Group → List Nat → Nat → Res}
    {v : Nat → W128} {fl : Nat → Flags}
    (hne : ps ≠ []) (hf : ∀ l ∈ ps, f gr ps (if isScalSpec h.dst then ps.headD 0 else l) = .val (v l) (fl l)) :
    gr'.produce gr iss path ps h n f =
      ((({ (if h.wbs == 1 then gr' else gr'.writeDst h.dst n ps v) with
            fpstat := ps.foldl (fun x l => x ||| fl l) gr'.fpstat } : Group).pushLatch path
          (if isScalSpec h.dst then List.range 32 else ps) h.dst n (h.wbs == 1)
          (fun i => (f gr ps (if isScalSpec h.dst then ps.headD 0 else i)).value)).advance iss path) := by
  have hr : ∀ l, (if isScalSpec h.dst then (fun _ => f gr ps (ps.headD 0)) else f gr ps) l = f gr ps (if isScalSpec h.dst then ps.headD 0 else l) := by
    intro l; split <;> rfl
  have hok : ps.filter (fun i => (((if isScalSpec h.dst then (fun _ => f gr ps (ps.headD 0)) else f gr ps) i).fault? iss.pc).isNone) = ps := by
    rw [List.filter_eq_self]; intro l hl; rw [hr, hf l hl]; rfl
  have hpark : gr'.parkEach ps (fun i => ((if isScalSpec h.dst then (fun _ => f gr ps (ps.headD 0)) else f gr ps) i).fault? iss.pc) = gr' := by
    rw [Group.parkEach, Group.upd_id]; intro l hl x; rw [hr, hf l hl]; rfl
  have hfl : ∀ (qs : List Nat), (∀ l ∈ qs, l ∈ ps) → ∀ x : Flags,
      qs.foldl (fun x i => x ||| ((if isScalSpec h.dst then (fun _ => f gr ps (ps.headD 0)) else f gr ps) i).flags) x = qs.foldl (fun x l => x ||| fl l) x := by
    intro qs
    induction qs with
    | nil => intro _ x; rfl
    | cons q qs ih =>
      intro hq x
      have e := hf q (hq q (by simp))
      simp only [List.foldl_cons]
      rw [ih (fun l hl => hq l (by simp [hl])), hr, e]; rfl
  have hwr : gr'.writeDst h.dst n ps (fun i => ((if isScalSpec h.dst then (fun _ => f gr ps (ps.headD 0)) else f gr ps) i).value) = gr'.writeDst h.dst n ps v := by
    unfold Group.writeDst
    split
    · rename_i b _
      unfold Group.upd
      have : ∀ (ls : List Lane) k, mapLanes (fun i l => if ps.contains i then l.setRegs b n ((if isScalSpec h.dst then (fun _ => f gr ps (ps.headD 0)) else f gr ps) i).value else l) k ls =
          mapLanes (fun i l => if ps.contains i then l.setRegs b n (v i) else l) k ls := by
        intro ls
        induction ls with
        | nil => intro k; rfl
        | cons x xs ih =>
          intro k
          simp only [mapLanes, ih]
          congr 1
          by_cases hk : k ∈ ps
          · rw [hr, hf k hk]; rfl
          · simp [hk]
      rw [this]
    · split
      · rfl
      · rename_i i rest
        have e := hf i (by simp)
        beta_reduce
        rw [hr, e]; rfl
    · rfl
  unfold Group.produce
  dsimp only
  rw [hok, if_neg hne, hpark, hwr]
  have hfp : (if h.wbs == 1 then gr' else gr'.writeDst h.dst n ps v).fpstat = gr'.fpstat := by
    split
    · rfl
    · exact (Group.writeDst_frame _ _ _ _ _).2.2
  rw [hfl ps (fun _ h => h), hfp]
  simp only [hr]

/-- The latch that a result enters. -/
theorem Group.latch_pushLatch (gr : Group) (path ok : List Nat) (d : BitVec 10) (n : Nat) (w : Bool) (val : Nat → W128) (l m : Nat)
    (hl : l < 32) (hok : l ∈ ok) : (gr.pushLatch path ok d n w val).latchVal l 0 m = lowRegs m (lowRegs n (val l)) := by
  simp [Group.pushLatch, Group.latchVal, Group.latchAt, Group.upd, hl, hok]

theorem popQueues_frame (gr : Group) (ks : List Nat) : (gr.popQueues ks).lanes = gr.lanes ∧ (gr.popQueues ks).s = gr.s ∧
    (gr.popQueues ks).fpstat = gr.fpstat ∧ (gr.popQueues ks).rest = gr.rest := ⟨rfl, rfl, rfl, rfl⟩

/-- A queue that is named is popped, another stays; either may go on with its walk when the ring has been drained (R310, R311). -/
theorem popQueues_oq (gr : Group) (ks : List Nat) (k : Nat) (hk : k < 4) :
    let q := if k ∈ ks then (gr.oq.getD k {}).pop else gr.oq.getD k {}
    (gr.popQueues ks).oq.getD k {} = q ∨ (gr.popQueues ks).oq.getD k {} = q.unpause := by
  unfold Group.popQueues drainRing
  dsimp only
  split
  · right; simp [hk]
  · left; simp [hk]

theorem Group.wrote_congr {gr g2 : Group} {h : Hdr} {n : Nat} {ps : List Nat} {v w : Nat → W128}
    (hv : ∀ b, Operand.ofSpec h.dst = .vreg b → ∀ l, v l = w l) (hs : ∀ b, Operand.ofSpec h.dst = .sreg b → v (ps.headD 0) = w (ps.headD 0))
    (hw : gr.wrote g2 h n ps v) : gr.wrote g2 h n ps w := by
  unfold Group.wrote at hw ⊢
  split at hw
  · rename_i b _ hd
    exact ⟨fun l hl k hk => by rw [hw.1 l hl k hk, hv b hd l], hw.2⟩
  · rename_i b _ hd
    exact ⟨fun k hk => by rw [hw.1 k hk, hs b hd], hw.2⟩
  · exact hw

/-- A register-result instruction that takes effect, with values and no fault in its threads, completes. -/
theorem produce_completes {i : Instr} {s : State} {iss : Issue} {gr : Group} {ps : List Nat} {n : Nat} {f : Group → List Nat → Nat → Res}
    {val : Nat → W128} {fl : Nat → Flags} (h : issuing i (isScalSpec (use i).h.dst) s = some (iss, gr, ps))
    (hx : exec i s = produce i n f s) (hf : ∀ l ∈ ps, f gr ps (leader i ps l) = .val (val (leader i ps l)) (fl (leader i ps l))) :
    completes i n s iss gr ps val fl := by
  obtain ⟨-, -, -, hne, -⟩ := issuing_spec h
  have hpath := issuing_path h
  obtain ⟨hl0, hs0, hf0, hr0⟩ := popQueues_frame gr (queuesOf i)
  have e := Group.produce_vals (gr' := gr.popQueues (queuesOf i)) (gr := gr) (iss := iss) (path := iss.path gr) (ps := ps) (h := (use i).h) (n := n)
    (f := f) (v := fun l => val (leader i ps l)) (fl := fun l => fl (leader i ps l)) hne hf
  refine ⟨_, by rw [hx, produce_issuing n f h, e], ?_⟩
  generalize hg2 : (if (use i).h.wbs == 1 then gr.popQueues (queuesOf i) else
    (gr.popQueues (queuesOf i)).writeDst (use i).h.dst n ps (fun l => val (leader i ps l))) = g2
  have hlen : g2.lanes.length = gr.lanes.length := by
    rw [← hg2]; split
    · rfl
    · rw [(Group.writeDst_frame _ _ _ _ _).2.1]; rfl
  have hlane : ∀ l, (g2.lane l).rest = (gr.lane l).rest ∧ (g2.lane l).pc = (gr.lane l).pc ∧ (g2.lane l).run = (gr.lane l).run := by
    intro l
    rw [← hg2]; split
    · exact ⟨rfl, rfl, rfl⟩
    · exact Group.lane_writeDst_rest _ _ _ _ _ _
  have hcore : g2.core3 = (gr.popQueues (queuesOf i)).core3 := by
    rw [← hg2]; split
    · rfl
    · exact (Group.writeDst_frame _ _ _ _ _).1
  generalize hg3 : ({ g2 with fpstat := ps.foldl (fun x l => x ||| fl (leader i ps l)) (gr.popQueues (queuesOf i)).fpstat } : Group) = g3
  have h3l : ∀ l, g3.lane l = g2.lane l := by rw [← hg3]; intro l; rfl
  have h3len : g3.lanes.length = gr.lanes.length := by rw [← hg3]; exact hlen
  generalize hok : (if isScalSpec (use i).h.dst then List.range 32 else ps) = ok
  generalize hvv : (fun j => (f gr ps (if isScalSpec (use i).h.dst then ps.headD 0 else j)).value) = vv
  have hL : ∀ l, ((((g3.pushLatch (iss.path gr) ok (use i).h.dst n ((use i).h.wbs == 1) vv).advance iss (iss.path gr)).lane l).rest = (gr.lane l).rest) ∧
      (((g3.pushLatch (iss.path gr) ok (use i).h.dst n ((use i).h.wbs == 1) vv).advance iss (iss.path gr)).lane l).pc =
        (if l ∈ iss.path gr then nextPc iss.pc else (gr.lane l).pc) ∧
      (∀ r, (((g3.pushLatch (iss.path gr) ok (use i).h.dst n ((use i).h.wbs == 1) vv).advance iss (iss.path gr)).lane l).rd r = (g2.lane l).rd r) := by
    intro l
    obtain ⟨p1, p2, p3, p4⟩ := Group.lane_pushLatch g3 (iss.path gr) ok (use i).h.dst n ((use i).h.wbs == 1) vv l
    have hlen4 : (g3.pushLatch (iss.path gr) ok (use i).h.dst n ((use i).h.wbs == 1) vv).lanes.length = gr.lanes.length := by
      rw [Group.pushLatch, Group.upd_length]; exact h3len
    obtain ⟨q1, q2, q3⟩ := hlane l
    rw [Group.lane_advance, hlen4, p3, h3l, q3]
    by_cases hp : l ∈ iss.path gr
    · rw [if_pos ⟨path_lt hp, hp, path_run hp⟩, if_pos hp]
      refine ⟨?_, rfl, ?_⟩
      · rw [Lane.rest_goTo, p1, h3l, q1]
      · intro r; exact (p4 r).trans (by rw [h3l])
    · rw [if_neg (fun hh => hp hh.2.1), if_neg hp]
      refine ⟨?_, ?_, ?_⟩
      · rw [p1, h3l, q1]
      · rw [p2, h3l, q2]
      · intro r; rw [p4, h3l]
  have hS : ∀ r, ((g3.pushLatch (iss.path gr) ok (use i).h.dst n ((use i).h.wbs == 1) vv).advance iss (iss.path gr)).rd r = g2.rd r := by
    rw [← hg3]; intro r; rfl
  refine ⟨?_, fun l => (hL l).2.1, ?_, ?_, ?_, fun l => (hL l).1, ?_⟩
  · by_cases hw : (use i).h.wbs = 1
    · have hb : ((use i).h.wbs == 1) = true := by simpa using hw
      rw [if_pos hb] at hg2
      unfold Group.wrote
      have e1 : ∀ l r, (g2.lane l).rd r = (gr.lane l).rd r := by rw [← hg2]; intro l r; rfl
      have e2 : ∀ r, g2.rd r = gr.rd r := by rw [← hg2]; intro r; rfl
      split
      · rename_i heq _; rw [hb] at heq; cases heq
      · rename_i heq _; rw [hb] at heq; cases heq
      · exact ⟨fun l r => ((hL l).2.2 r).trans (e1 l r), fun r => (hS r).trans (e2 r)⟩
    · have hb : ¬ ((use i).h.wbs == 1) = true := by simpa using hw
      rw [if_neg hb] at hg2
      have hwr := Group.wrote_writeDst (gr.popQueues (queuesOf i)) ((g3.pushLatch (iss.path gr) ok (use i).h.dst n ((use i).h.wbs == 1) vv).advance iss (iss.path gr))
        (use i).h n ps (fun l => val (leader i ps l)) hw hne (fun l hl => path_lt (hpath l hl))
        (fun l r => by rw [(hL l).2.2 r, ← hg2]) (fun r => by rw [hS r, ← hg2])
      refine Group.wrote_congr (v := fun l => val (leader i ps l)) ?_ ?_ hwr
      · intro b hd l
        have : isScalSpec (use i).h.dst = false := by simp [isScalSpec, hd]
        simp [leader, this]
      · intro b hd
        have : isScalSpec (use i).h.dst = true := by simp [isScalSpec, hd]
        simp [leader, this]
  · rw [← hg3]; rfl
  · intro l hl
    have h32 : l < 32 := by
      have := (List.mem_filter.mp (hpath l hl)).1
      exact List.mem_range.mp this
    have hmem : l ∈ ok := by
      rw [← hok]; split
      · exact List.mem_range.mpr h32
      · exact hl
    have hadv : ∀ g : Group, (g.advance iss (iss.path gr)).latch = g.latch := fun _ => rfl
    have := Group.latch_pushLatch g3 (iss.path gr) ok (use i).h.dst n ((use i).h.wbs == 1) vv l n h32 hmem
    have e5 : ((g3.pushLatch (iss.path gr) ok (use i).h.dst n ((use i).h.wbs == 1) vv).advance iss (iss.path gr)).latchVal l 0 n =
        (g3.pushLatch (iss.path gr) ok (use i).h.dst n ((use i).h.wbs == 1) vv).latchVal l 0 n := by
      unfold Group.latchVal Group.latchAt
      rw [hadv]
      simp [Group.pushLatch, Group.upd]
    rw [e5, this, lowRegs_lowRegs, ← hvv]
    have e6 := hf l hl
    unfold leader at e6
    simp only []
    rw [e6]; rfl
  · have : ((g3.pushLatch (iss.path gr) ok (use i).h.dst n ((use i).h.wbs == 1) vv).advance iss (iss.path gr)).oq = (gr.popQueues (queuesOf i)).oq := by
      have h1 : g3.oq = g2.oq := by rw [← hg3]
      have h2 : g2.core3.oq = (gr.popQueues (queuesOf i)).core3.oq := by rw [hcore]
      exact h1.trans h2
    exact this
  · have h1 : ((g3.pushLatch (iss.path gr) ok (use i).h.dst n ((use i).h.wbs == 1) vv).advance iss (iss.path gr)).rest = g2.rest := by
      rw [← hg3]; rfl
    have h2 : g2.rest = (gr.popQueues (queuesOf i)).rest := by
      have h4 : g2.core3.rest = (gr.popQueues (queuesOf i)).core3.rest := by rw [hcore]
      exact h4
    rw [h1, h2]; exact hr0

end Sys2Proof.Machine
end

