-- ==== Sys2Proof/Laws/State.lean ====
section
/-! SUPPORT. Each update of one part of the state leaves every other part as it was: one lemma per update and field. -/

namespace Sys2Proof.Machine

variable (s : State)

@[simp] theorem State.putGroup_powered (g : Nat) (x : Group) : (s.putGroup g x).powered = s.powered := rfl
@[simp] theorem State.putGroup_time (g : Nat) (x : Group) : (s.putGroup g x).time = s.time := rfl
@[simp] theorem State.putGroup_cores (g : Nat) (x : Group) : (s.putGroup g x).cores = s.cores := rfl
@[simp] theorem State.putGroup_blocks (g : Nat) (x : Group) : (s.putGroup g x).blocks = s.blocks := rfl
@[simp] theorem State.putGroup_launches (g : Nat) (x : Group) : (s.putGroup g x).launches = s.launches := rfl
@[simp] theorem State.putGroup_reqs (g : Nat) (x : Group) : (s.putGroup g x).reqs = s.reqs := rfl
@[simp] theorem State.putGroup_nextSeq (g : Nat) (x : Group) : (s.putGroup g x).nextSeq = s.nextSeq := rfl
@[simp] theorem State.putGroup_mem (g : Nat) (x : Group) : (s.putGroup g x).mem = s.mem := rfl
@[simp] theorem State.putGroup_poison (g : Nat) (x : Group) : (s.putGroup g x).poison = s.poison := rfl
@[simp] theorem State.putGroup_l1 (g : Nat) (x : Group) : (s.putGroup g x).l1 = s.l1 := rfl
@[simp] theorem State.putGroup_l2 (g : Nat) (x : Group) : (s.putGroup g x).l2 = s.l2 := rfl
@[simp] theorem State.putGroup_tlb (g : Nat) (x : Group) : (s.putGroup g x).tlb = s.tlb := rfl
@[simp] theorem State.putGroup_ctr (g : Nat) (x : Group) : (s.putGroup g x).ctr = s.ctr := rfl
@[simp] theorem State.putGroup_pub (g : Nat) (x : Group) : (s.putGroup g x).pub = s.pub := rfl
@[simp] theorem State.putGroup_heard (g : Nat) (x : Group) : (s.putGroup g x).heard = s.heard := rfl
@[simp] theorem State.putGroup_ring (g : Nat) (x : Group) : (s.putGroup g x).ring = s.ring := rfl
@[simp] theorem State.putGroup_genHeard (g : Nat) (x : Group) : (s.putGroup g x).genHeard = s.genHeard := rfl
@[simp] theorem State.putGroup_pkgGen (g : Nat) (x : Group) : (s.putGroup g x).pkgGen = s.pkgGen := rfl
@[simp] theorem State.putGroup_pkgRenewing (g : Nat) (x : Group) : (s.putGroup g x).pkgRenewing = s.pkgRenewing := rfl
@[simp] theorem State.putGroup_pkgDrained (g : Nat) (x : Group) : (s.putGroup g x).pkgDrained = s.pkgDrained := rfl
@[simp] theorem State.putGroup_slots (g : Nat) (x : Group) : (s.putGroup g x).slots = s.slots := rfl
@[simp] theorem State.putGroup_jobs (g : Nat) (x : Group) : (s.putGroup g x).jobs = s.jobs := rfl
@[simp] theorem State.putGroup_nextJob (g : Nat) (x : Group) : (s.putGroup g x).nextJob = s.nextJob := rfl
@[simp] theorem State.putGroup_engCredit (g : Nat) (x : Group) : (s.putGroup g x).engCredit = s.engCredit := rfl
@[simp] theorem State.putGroup_tiles (g : Nat) (x : Group) : (s.putGroup g x).tiles = s.tiles := rfl
@[simp] theorem State.putGroup_bars (g : Nat) (x : Group) : (s.putGroup g x).bars = s.bars := rfl
@[simp] theorem State.putGroup_gangs (g : Nat) (x : Group) : (s.putGroup g x).gangs = s.gangs := rfl
@[simp] theorem State.putGroup_chans (g : Nat) (x : Group) : (s.putGroup g x).chans = s.chans := rfl
@[simp] theorem State.putGroup_dies (g : Nat) (x : Group) : (s.putGroup g x).dies = s.dies := rfl
@[simp] theorem State.putGroup_cps (g : Nat) (x : Group) : (s.putGroup g x).cps = s.cps := rfl
@[simp] theorem State.putGroup_slices (g : Nat) (x : Group) : (s.putGroup g x).slices = s.slices := rfl
@[simp] theorem State.putGroup_vfs (g : Nat) (x : Group) : (s.putGroup g x).vfs = s.vfs := rfl
@[simp] theorem State.putGroup_sltbase (g : Nat) (x : Group) : (s.putGroup g x).sltbase = s.sltbase := rfl
@[simp] theorem State.putGroup_regions (g : Nat) (x : Group) : (s.putGroup g x).regions = s.regions := rfl
@[simp] theorem State.putGroup_lineCtr (g : Nat) (x : Group) : (s.putGroup g x).lineCtr = s.lineCtr := rfl
@[simp] theorem State.putGroup_nodeCtr (g : Nat) (x : Group) : (s.putGroup g x).nodeCtr = s.nodeCtr := rfl
@[simp] theorem State.putGroup_macs (g : Nat) (x : Group) : (s.putGroup g x).macs = s.macs := rfl
@[simp] theorem State.putGroup_cmd (g : Nat) (x : Group) : (s.putGroup g x).cmd = s.cmd := rfl
@[simp] theorem State.putGroup_badNodes (g : Nat) (x : Group) : (s.putGroup g x).badNodes = s.badNodes := rfl
@[simp] theorem State.putGroup_recalls (g : Nat) (x : Group) : (s.putGroup g x).recalls = s.recalls := rfl
@[simp] theorem State.putGroup_exports (g : Nat) (x : Group) : (s.putGroup g x).exports = s.exports := rfl
@[simp] theorem State.putGroup_fab (g : Nat) (x : Group) : (s.putGroup g x).fab = s.fab := rfl
@[simp] theorem State.putGroup_sec (g : Nat) (x : Group) : (s.putGroup g x).sec = s.sec := rfl
@[simp] theorem State.putGroup_capped (g : Nat) (x : Group) : (s.putGroup g x).capped = s.capped := rfl
@[simp] theorem State.putGroup_arrivals (g : Nat) (x : Group) : (s.putGroup g x).arrivals = s.arrivals := rfl
@[simp] theorem State.putGroup_cur (g : Nat) (x : Group) : (s.putGroup g x).cur = s.cur := rfl
@[simp] theorem State.putGroup_issueQ (g : Nat) (x : Group) : (s.putGroup g x).issueQ = s.issueQ := rfl
@[simp] theorem State.putGroup_inbox (g : Nat) (x : Group) : (s.putGroup g x).inbox = s.inbox := rfl
@[simp] theorem State.putGroup_nextId (g : Nat) (x : Group) : (s.putGroup g x).nextId = s.nextId := rfl
@[simp] theorem State.putGroup_free (g : Nat) (x : Group) : (s.putGroup g x).free = s.free := rfl

@[simp] theorem State.updGroup_powered (g : Nat) (f : Group → Group) : (s.updGroup g f).powered = s.powered := rfl
@[simp] theorem State.updGroup_time (g : Nat) (f : Group → Group) : (s.updGroup g f).time = s.time := rfl
@[simp] theorem State.updGroup_cores (g : Nat) (f : Group → Group) : (s.updGroup g f).cores = s.cores := rfl
@[simp] theorem State.updGroup_blocks (g : Nat) (f : Group → Group) : (s.updGroup g f).blocks = s.blocks := rfl
@[simp] theorem State.updGroup_launches (g : Nat) (f : Group → Group) : (s.updGroup g f).launches = s.launches := rfl
@[simp] theorem State.updGroup_reqs (g : Nat) (f : Group → Group) : (s.updGroup g f).reqs = s.reqs := rfl
@[simp] theorem State.updGroup_nextSeq (g : Nat) (f : Group → Group) : (s.updGroup g f).nextSeq = s.nextSeq := rfl
@[simp] theorem State.updGroup_mem (g : Nat) (f : Group → Group) : (s.updGroup g f).mem = s.mem := rfl
@[simp] theorem State.updGroup_poison (g : Nat) (f : Group → Group) : (s.updGroup g f).poison = s.poison := rfl
@[simp] theorem State.updGroup_l1 (g : Nat) (f : Group → Group) : (s.updGroup g f).l1 = s.l1 := rfl
@[simp] theorem State.updGroup_l2 (g : Nat) (f : Group → Group) : (s.updGroup g f).l2 = s.l2 := rfl
@[simp] theorem State.updGroup_tlb (g : Nat) (f : Group → Group) : (s.updGroup g f).tlb = s.tlb := rfl
@[simp] theorem State.updGroup_ctr (g : Nat) (f : Group → Group) : (s.updGroup g f).ctr = s.ctr := rfl
@[simp] theorem State.updGroup_pub (g : Nat) (f : Group → Group) : (s.updGroup g f).pub = s.pub := rfl
@[simp] theorem State.updGroup_heard (g : Nat) (f : Group → Group) : (s.updGroup g f).heard = s.heard := rfl
@[simp] theorem State.updGroup_ring (g : Nat) (f : Group → Group) : (s.updGroup g f).ring = s.ring := rfl
@[simp] theorem State.updGroup_genHeard (g : Nat) (f : Group → Group) : (s.updGroup g f).genHeard = s.genHeard := rfl
@[simp] theorem State.updGroup_pkgGen (g : Nat) (f : Group → Group) : (s.updGroup g f).pkgGen = s.pkgGen := rfl
@[simp] theorem State.updGroup_pkgRenewing (g : Nat) (f : Group → Group) : (s.updGroup g f).pkgRenewing = s.pkgRenewing := rfl
@[simp] theorem State.updGroup_pkgDrained (g : Nat) (f : Group → Group) : (s.updGroup g f).pkgDrained = s.pkgDrained := rfl
@[simp] theorem State.updGroup_slots (g : Nat) (f : Group → Group) : (s.updGroup g f).slots = s.slots := rfl
@[simp] theorem State.updGroup_jobs (g : Nat) (f : Group → Group) : (s.updGroup g f).jobs = s.jobs := rfl
@[simp] theorem State.updGroup_nextJob (g : Nat) (f : Group → Group) : (s.updGroup g f).nextJob = s.nextJob := rfl
@[simp] theorem State.updGroup_engCredit (g : Nat) (f : Group → Group) : (s.updGroup g f).engCredit = s.engCredit := rfl
@[simp] theorem State.updGroup_tiles (g : Nat) (f : Group → Group) : (s.updGroup g f).tiles = s.tiles := rfl
@[simp] theorem State.updGroup_bars (g : Nat) (f : Group → Group) : (s.updGroup g f).bars = s.bars := rfl
@[simp] theorem State.updGroup_gangs (g : Nat) (f : Group → Group) : (s.updGroup g f).gangs = s.gangs := rfl
@[simp] theorem State.updGroup_chans (g : Nat) (f : Group → Group) : (s.updGroup g f).chans = s.chans := rfl
@[simp] theorem State.updGroup_dies (g : Nat) (f : Group → Group) : (s.updGroup g f).dies = s.dies := rfl
@[simp] theorem State.updGroup_cps (g : Nat) (f : Group → Group) : (s.updGroup g f).cps = s.cps := rfl
@[simp] theorem State.updGroup_slices (g : Nat) (f : Group → Group) : (s.updGroup g f).slices = s.slices := rfl
@[simp] theorem State.updGroup_vfs (g : Nat) (f : Group → Group) : (s.updGroup g f).vfs = s.vfs := rfl
@[simp] theorem State.updGroup_sltbase (g : Nat) (f : Group → Group) : (s.updGroup g f).sltbase = s.sltbase := rfl
@[simp] theorem State.updGroup_regions (g : Nat) (f : Group → Group) : (s.updGroup g f).regions = s.regions := rfl
@[simp] theorem State.updGroup_lineCtr (g : Nat) (f : Group → Group) : (s.updGroup g f).lineCtr = s.lineCtr := rfl
@[simp] theorem State.updGroup_nodeCtr (g : Nat) (f : Group → Group) : (s.updGroup g f).nodeCtr = s.nodeCtr := rfl
@[simp] theorem State.updGroup_macs (g : Nat) (f : Group → Group) : (s.updGroup g f).macs = s.macs := rfl
@[simp] theorem State.updGroup_cmd (g : Nat) (f : Group → Group) : (s.updGroup g f).cmd = s.cmd := rfl
@[simp] theorem State.updGroup_badNodes (g : Nat) (f : Group → Group) : (s.updGroup g f).badNodes = s.badNodes := rfl
@[simp] theorem State.updGroup_recalls (g : Nat) (f : Group → Group) : (s.updGroup g f).recalls = s.recalls := rfl
@[simp] theorem State.updGroup_exports (g : Nat) (f : Group → Group) : (s.updGroup g f).exports = s.exports := rfl
@[simp] theorem State.updGroup_fab (g : Nat) (f : Group → Group) : (s.updGroup g f).fab = s.fab := rfl
@[simp] theorem State.updGroup_sec (g : Nat) (f : Group → Group) : (s.updGroup g f).sec = s.sec := rfl
@[simp] theorem State.updGroup_capped (g : Nat) (f : Group → Group) : (s.updGroup g f).capped = s.capped := rfl
@[simp] theorem State.updGroup_arrivals (g : Nat) (f : Group → Group) : (s.updGroup g f).arrivals = s.arrivals := rfl
@[simp] theorem State.updGroup_cur (g : Nat) (f : Group → Group) : (s.updGroup g f).cur = s.cur := rfl
@[simp] theorem State.updGroup_issueQ (g : Nat) (f : Group → Group) : (s.updGroup g f).issueQ = s.issueQ := rfl
@[simp] theorem State.updGroup_inbox (g : Nat) (f : Group → Group) : (s.updGroup g f).inbox = s.inbox := rfl
@[simp] theorem State.updGroup_nextId (g : Nat) (f : Group → Group) : (s.updGroup g f).nextId = s.nextId := rfl
@[simp] theorem State.updGroup_free (g : Nat) (f : Group → Group) : (s.updGroup g f).free = s.free := rfl

@[simp] theorem State.updCore_powered (c : Nat) (f : Core → Core) : (s.updCore c f).powered = s.powered := rfl
@[simp] theorem State.updCore_time (c : Nat) (f : Core → Core) : (s.updCore c f).time = s.time := rfl
@[simp] theorem State.updCore_groups (c : Nat) (f : Core → Core) : (s.updCore c f).groups = s.groups := rfl
@[simp] theorem State.updCore_blocks (c : Nat) (f : Core → Core) : (s.updCore c f).blocks = s.blocks := rfl
@[simp] theorem State.updCore_launches (c : Nat) (f : Core → Core) : (s.updCore c f).launches = s.launches := rfl
@[simp] theorem State.updCore_reqs (c : Nat) (f : Core → Core) : (s.updCore c f).reqs = s.reqs := rfl
@[simp] theorem State.updCore_nextSeq (c : Nat) (f : Core → Core) : (s.updCore c f).nextSeq = s.nextSeq := rfl
@[simp] theorem State.updCore_mem (c : Nat) (f : Core → Core) : (s.updCore c f).mem = s.mem := rfl
@[simp] theorem State.updCore_poison (c : Nat) (f : Core → Core) : (s.updCore c f).poison = s.poison := rfl
@[simp] theorem State.updCore_l1 (c : Nat) (f : Core → Core) : (s.updCore c f).l1 = s.l1 := rfl
@[simp] theorem State.updCore_l2 (c : Nat) (f : Core → Core) : (s.updCore c f).l2 = s.l2 := rfl
@[simp] theorem State.updCore_tlb (c : Nat) (f : Core → Core) : (s.updCore c f).tlb = s.tlb := rfl
@[simp] theorem State.updCore_ctr (c : Nat) (f : Core → Core) : (s.updCore c f).ctr = s.ctr := rfl
@[simp] theorem State.updCore_pub (c : Nat) (f : Core → Core) : (s.updCore c f).pub = s.pub := rfl
@[simp] theorem State.updCore_heard (c : Nat) (f : Core → Core) : (s.updCore c f).heard = s.heard := rfl
@[simp] theorem State.updCore_ring (c : Nat) (f : Core → Core) : (s.updCore c f).ring = s.ring := rfl
@[simp] theorem State.updCore_genHeard (c : Nat) (f : Core → Core) : (s.updCore c f).genHeard = s.genHeard := rfl
@[simp] theorem State.updCore_pkgGen (c : Nat) (f : Core → Core) : (s.updCore c f).pkgGen = s.pkgGen := rfl
@[simp] theorem State.updCore_pkgRenewing (c : Nat) (f : Core → Core) : (s.updCore c f).pkgRenewing = s.pkgRenewing := rfl
@[simp] theorem State.updCore_pkgDrained (c : Nat) (f : Core → Core) : (s.updCore c f).pkgDrained = s.pkgDrained := rfl
@[simp] theorem State.updCore_slots (c : Nat) (f : Core → Core) : (s.updCore c f).slots = s.slots := rfl
@[simp] theorem State.updCore_jobs (c : Nat) (f : Core → Core) : (s.updCore c f).jobs = s.jobs := rfl
@[simp] theorem State.updCore_nextJob (c : Nat) (f : Core → Core) : (s.updCore c f).nextJob = s.nextJob := rfl
@[simp] theorem State.updCore_engCredit (c : Nat) (f : Core → Core) : (s.updCore c f).engCredit = s.engCredit := rfl
@[simp] theorem State.updCore_tiles (c : Nat) (f : Core → Core) : (s.updCore c f).tiles = s.tiles := rfl
@[simp] theorem State.updCore_bars (c : Nat) (f : Core → Core) : (s.updCore c f).bars = s.bars := rfl
@[simp] theorem State.updCore_gangs (c : Nat) (f : Core → Core) : (s.updCore c f).gangs = s.gangs := rfl
@[simp] theorem State.updCore_chans (c : Nat) (f : Core → Core) : (s.updCore c f).chans = s.chans := rfl
@[simp] theorem State.updCore_dies (c : Nat) (f : Core → Core) : (s.updCore c f).dies = s.dies := rfl
@[simp] theorem State.updCore_cps (c : Nat) (f : Core → Core) : (s.updCore c f).cps = s.cps := rfl
@[simp] theorem State.updCore_slices (c : Nat) (f : Core → Core) : (s.updCore c f).slices = s.slices := rfl
@[simp] theorem State.updCore_vfs (c : Nat) (f : Core → Core) : (s.updCore c f).vfs = s.vfs := rfl
@[simp] theorem State.updCore_sltbase (c : Nat) (f : Core → Core) : (s.updCore c f).sltbase = s.sltbase := rfl
@[simp] theorem State.updCore_regions (c : Nat) (f : Core → Core) : (s.updCore c f).regions = s.regions := rfl
@[simp] theorem State.updCore_lineCtr (c : Nat) (f : Core → Core) : (s.updCore c f).lineCtr = s.lineCtr := rfl
@[simp] theorem State.updCore_nodeCtr (c : Nat) (f : Core → Core) : (s.updCore c f).nodeCtr = s.nodeCtr := rfl
@[simp] theorem State.updCore_macs (c : Nat) (f : Core → Core) : (s.updCore c f).macs = s.macs := rfl
@[simp] theorem State.updCore_cmd (c : Nat) (f : Core → Core) : (s.updCore c f).cmd = s.cmd := rfl
@[simp] theorem State.updCore_badNodes (c : Nat) (f : Core → Core) : (s.updCore c f).badNodes = s.badNodes := rfl
@[simp] theorem State.updCore_recalls (c : Nat) (f : Core → Core) : (s.updCore c f).recalls = s.recalls := rfl
@[simp] theorem State.updCore_exports (c : Nat) (f : Core → Core) : (s.updCore c f).exports = s.exports := rfl
@[simp] theorem State.updCore_fab (c : Nat) (f : Core → Core) : (s.updCore c f).fab = s.fab := rfl
@[simp] theorem State.updCore_sec (c : Nat) (f : Core → Core) : (s.updCore c f).sec = s.sec := rfl
@[simp] theorem State.updCore_capped (c : Nat) (f : Core → Core) : (s.updCore c f).capped = s.capped := rfl
@[simp] theorem State.updCore_arrivals (c : Nat) (f : Core → Core) : (s.updCore c f).arrivals = s.arrivals := rfl
@[simp] theorem State.updCore_cur (c : Nat) (f : Core → Core) : (s.updCore c f).cur = s.cur := rfl
@[simp] theorem State.updCore_issueQ (c : Nat) (f : Core → Core) : (s.updCore c f).issueQ = s.issueQ := rfl
@[simp] theorem State.updCore_inbox (c : Nat) (f : Core → Core) : (s.updCore c f).inbox = s.inbox := rfl
@[simp] theorem State.updCore_nextId (c : Nat) (f : Core → Core) : (s.updCore c f).nextId = s.nextId := rfl
@[simp] theorem State.updCore_free (c : Nat) (f : Core → Core) : (s.updCore c f).free = s.free := rfl

@[simp] theorem State.updBlock_powered (b : Nat) (f : Block → Block) : (s.updBlock b f).powered = s.powered := rfl
@[simp] theorem State.updBlock_time (b : Nat) (f : Block → Block) : (s.updBlock b f).time = s.time := rfl
@[simp] theorem State.updBlock_cores (b : Nat) (f : Block → Block) : (s.updBlock b f).cores = s.cores := rfl
@[simp] theorem State.updBlock_groups (b : Nat) (f : Block → Block) : (s.updBlock b f).groups = s.groups := rfl
@[simp] theorem State.updBlock_launches (b : Nat) (f : Block → Block) : (s.updBlock b f).launches = s.launches := rfl
@[simp] theorem State.updBlock_reqs (b : Nat) (f : Block → Block) : (s.updBlock b f).reqs = s.reqs := rfl
@[simp] theorem State.updBlock_nextSeq (b : Nat) (f : Block → Block) : (s.updBlock b f).nextSeq = s.nextSeq := rfl
@[simp] theorem State.updBlock_mem (b : Nat) (f : Block → Block) : (s.updBlock b f).mem = s.mem := rfl
@[simp] theorem State.updBlock_poison (b : Nat) (f : Block → Block) : (s.updBlock b f).poison = s.poison := rfl
@[simp] theorem State.updBlock_l1 (b : Nat) (f : Block → Block) : (s.updBlock b f).l1 = s.l1 := rfl
@[simp] theorem State.updBlock_l2 (b : Nat) (f : Block → Block) : (s.updBlock b f).l2 = s.l2 := rfl
@[simp] theorem State.updBlock_tlb (b : Nat) (f : Block → Block) : (s.updBlock b f).tlb = s.tlb := rfl
@[simp] theorem State.updBlock_ctr (b : Nat) (f : Block → Block) : (s.updBlock b f).ctr = s.ctr := rfl
@[simp] theorem State.updBlock_pub (b : Nat) (f : Block → Block) : (s.updBlock b f).pub = s.pub := rfl
@[simp] theorem State.updBlock_heard (b : Nat) (f : Block → Block) : (s.updBlock b f).heard = s.heard := rfl
@[simp] theorem State.updBlock_ring (b : Nat) (f : Block → Block) : (s.updBlock b f).ring = s.ring := rfl
@[simp] theorem State.updBlock_genHeard (b : Nat) (f : Block → Block) : (s.updBlock b f).genHeard = s.genHeard := rfl
@[simp] theorem State.updBlock_pkgGen (b : Nat) (f : Block → Block) : (s.updBlock b f).pkgGen = s.pkgGen := rfl
@[simp] theorem State.updBlock_pkgRenewing (b : Nat) (f : Block → Block) : (s.updBlock b f).pkgRenewing = s.pkgRenewing := rfl
@[simp] theorem State.updBlock_pkgDrained (b : Nat) (f : Block → Block) : (s.updBlock b f).pkgDrained = s.pkgDrained := rfl
@[simp] theorem State.updBlock_slots (b : Nat) (f : Block → Block) : (s.updBlock b f).slots = s.slots := rfl
@[simp] theorem State.updBlock_jobs (b : Nat) (f : Block → Block) : (s.updBlock b f).jobs = s.jobs := rfl
@[simp] theorem State.updBlock_nextJob (b : Nat) (f : Block → Block) : (s.updBlock b f).nextJob = s.nextJob := rfl
@[simp] theorem State.updBlock_engCredit (b : Nat) (f : Block → Block) : (s.updBlock b f).engCredit = s.engCredit := rfl
@[simp] theorem State.updBlock_tiles (b : Nat) (f : Block → Block) : (s.updBlock b f).tiles = s.tiles := rfl
@[simp] theorem State.updBlock_bars (b : Nat) (f : Block → Block) : (s.updBlock b f).bars = s.bars := rfl
@[simp] theorem State.updBlock_gangs (b : Nat) (f : Block → Block) : (s.updBlock b f).gangs = s.gangs := rfl
@[simp] theorem State.updBlock_chans (b : Nat) (f : Block → Block) : (s.updBlock b f).chans = s.chans := rfl
@[simp] theorem State.updBlock_dies (b : Nat) (f : Block → Block) : (s.updBlock b f).dies = s.dies := rfl
@[simp] theorem State.updBlock_cps (b : Nat) (f : Block → Block) : (s.updBlock b f).cps = s.cps := rfl
@[simp] theorem State.updBlock_slices (b : Nat) (f : Block → Block) : (s.updBlock b f).slices = s.slices := rfl
@[simp] theorem State.updBlock_vfs (b : Nat) (f : Block → Block) : (s.updBlock b f).vfs = s.vfs := rfl
@[simp] theorem State.updBlock_sltbase (b : Nat) (f : Block → Block) : (s.updBlock b f).sltbase = s.sltbase := rfl
@[simp] theorem State.updBlock_regions (b : Nat) (f : Block → Block) : (s.updBlock b f).regions = s.regions := rfl
@[simp] theorem State.updBlock_lineCtr (b : Nat) (f : Block → Block) : (s.updBlock b f).lineCtr = s.lineCtr := rfl
@[simp] theorem State.updBlock_nodeCtr (b : Nat) (f : Block → Block) : (s.updBlock b f).nodeCtr = s.nodeCtr := rfl
@[simp] theorem State.updBlock_macs (b : Nat) (f : Block → Block) : (s.updBlock b f).macs = s.macs := rfl
@[simp] theorem State.updBlock_cmd (b : Nat) (f : Block → Block) : (s.updBlock b f).cmd = s.cmd := rfl
@[simp] theorem State.updBlock_badNodes (b : Nat) (f : Block → Block) : (s.updBlock b f).badNodes = s.badNodes := rfl
@[simp] theorem State.updBlock_recalls (b : Nat) (f : Block → Block) : (s.updBlock b f).recalls = s.recalls := rfl
@[simp] theorem State.updBlock_exports (b : Nat) (f : Block → Block) : (s.updBlock b f).exports = s.exports := rfl
@[simp] theorem State.updBlock_fab (b : Nat) (f : Block → Block) : (s.updBlock b f).fab = s.fab := rfl
@[simp] theorem State.updBlock_sec (b : Nat) (f : Block → Block) : (s.updBlock b f).sec = s.sec := rfl
@[simp] theorem State.updBlock_capped (b : Nat) (f : Block → Block) : (s.updBlock b f).capped = s.capped := rfl
@[simp] theorem State.updBlock_arrivals (b : Nat) (f : Block → Block) : (s.updBlock b f).arrivals = s.arrivals := rfl
@[simp] theorem State.updBlock_cur (b : Nat) (f : Block → Block) : (s.updBlock b f).cur = s.cur := rfl
@[simp] theorem State.updBlock_issueQ (b : Nat) (f : Block → Block) : (s.updBlock b f).issueQ = s.issueQ := rfl
@[simp] theorem State.updBlock_inbox (b : Nat) (f : Block → Block) : (s.updBlock b f).inbox = s.inbox := rfl
@[simp] theorem State.updBlock_nextId (b : Nat) (f : Block → Block) : (s.updBlock b f).nextId = s.nextId := rfl
@[simp] theorem State.updBlock_free (b : Nat) (f : Block → Block) : (s.updBlock b f).free = s.free := rfl

@[simp] theorem State.updLaunch_powered (l : Nat) (f : Launch → Launch) : (s.updLaunch l f).powered = s.powered := rfl
@[simp] theorem State.updLaunch_time (l : Nat) (f : Launch → Launch) : (s.updLaunch l f).time = s.time := rfl
@[simp] theorem State.updLaunch_cores (l : Nat) (f : Launch → Launch) : (s.updLaunch l f).cores = s.cores := rfl
@[simp] theorem State.updLaunch_groups (l : Nat) (f : Launch → Launch) : (s.updLaunch l f).groups = s.groups := rfl
@[simp] theorem State.updLaunch_blocks (l : Nat) (f : Launch → Launch) : (s.updLaunch l f).blocks = s.blocks := rfl
@[simp] theorem State.updLaunch_reqs (l : Nat) (f : Launch → Launch) : (s.updLaunch l f).reqs = s.reqs := rfl
@[simp] theorem State.updLaunch_nextSeq (l : Nat) (f : Launch → Launch) : (s.updLaunch l f).nextSeq = s.nextSeq := rfl
@[simp] theorem State.updLaunch_mem (l : Nat) (f : Launch → Launch) : (s.updLaunch l f).mem = s.mem := rfl
@[simp] theorem State.updLaunch_poison (l : Nat) (f : Launch → Launch) : (s.updLaunch l f).poison = s.poison := rfl
@[simp] theorem State.updLaunch_l1 (l : Nat) (f : Launch → Launch) : (s.updLaunch l f).l1 = s.l1 := rfl
@[simp] theorem State.updLaunch_l2 (l : Nat) (f : Launch → Launch) : (s.updLaunch l f).l2 = s.l2 := rfl
@[simp] theorem State.updLaunch_tlb (l : Nat) (f : Launch → Launch) : (s.updLaunch l f).tlb = s.tlb := rfl
@[simp] theorem State.updLaunch_ctr (l : Nat) (f : Launch → Launch) : (s.updLaunch l f).ctr = s.ctr := rfl
@[simp] theorem State.updLaunch_pub (l : Nat) (f : Launch → Launch) : (s.updLaunch l f).pub = s.pub := rfl
@[simp] theorem State.updLaunch_heard (l : Nat) (f : Launch → Launch) : (s.updLaunch l f).heard = s.heard := rfl
@[simp] theorem State.updLaunch_ring (l : Nat) (f : Launch → Launch) : (s.updLaunch l f).ring = s.ring := rfl
@[simp] theorem State.updLaunch_genHeard (l : Nat) (f : Launch → Launch) : (s.updLaunch l f).genHeard = s.genHeard := rfl
@[simp] theorem State.updLaunch_pkgGen (l : Nat) (f : Launch → Launch) : (s.updLaunch l f).pkgGen = s.pkgGen := rfl
@[simp] theorem State.updLaunch_pkgRenewing (l : Nat) (f : Launch → Launch) : (s.updLaunch l f).pkgRenewing = s.pkgRenewing := rfl
@[simp] theorem State.updLaunch_pkgDrained (l : Nat) (f : Launch → Launch) : (s.updLaunch l f).pkgDrained = s.pkgDrained := rfl
@[simp] theorem State.updLaunch_slots (l : Nat) (f : Launch → Launch) : (s.updLaunch l f).slots = s.slots := rfl
@[simp] theorem State.updLaunch_jobs (l : Nat) (f : Launch → Launch) : (s.updLaunch l f).jobs = s.jobs := rfl
@[simp] theorem State.updLaunch_nextJob (l : Nat) (f : Launch → Launch) : (s.updLaunch l f).nextJob = s.nextJob := rfl
@[simp] theorem State.updLaunch_engCredit (l : Nat) (f : Launch → Launch) : (s.updLaunch l f).engCredit = s.engCredit := rfl
@[simp] theorem State.updLaunch_tiles (l : Nat) (f : Launch → Launch) : (s.updLaunch l f).tiles = s.tiles := rfl
@[simp] theorem State.updLaunch_bars (l : Nat) (f : Launch → Launch) : (s.updLaunch l f).bars = s.bars := rfl
@[simp] theorem State.updLaunch_gangs (l : Nat) (f : Launch → Launch) : (s.updLaunch l f).gangs = s.gangs := rfl
@[simp] theorem State.updLaunch_chans (l : Nat) (f : Launch → Launch) : (s.updLaunch l f).chans = s.chans := rfl
@[simp] theorem State.updLaunch_dies (l : Nat) (f : Launch → Launch) : (s.updLaunch l f).dies = s.dies := rfl
@[simp] theorem State.updLaunch_cps (l : Nat) (f : Launch → Launch) : (s.updLaunch l f).cps = s.cps := rfl
@[simp] theorem State.updLaunch_slices (l : Nat) (f : Launch → Launch) : (s.updLaunch l f).slices = s.slices := rfl
@[simp] theorem State.updLaunch_vfs (l : Nat) (f : Launch → Launch) : (s.updLaunch l f).vfs = s.vfs := rfl
@[simp] theorem State.updLaunch_sltbase (l : Nat) (f : Launch → Launch) : (s.updLaunch l f).sltbase = s.sltbase := rfl
@[simp] theorem State.updLaunch_regions (l : Nat) (f : Launch → Launch) : (s.updLaunch l f).regions = s.regions := rfl
@[simp] theorem State.updLaunch_lineCtr (l : Nat) (f : Launch → Launch) : (s.updLaunch l f).lineCtr = s.lineCtr := rfl
@[simp] theorem State.updLaunch_nodeCtr (l : Nat) (f : Launch → Launch) : (s.updLaunch l f).nodeCtr = s.nodeCtr := rfl
@[simp] theorem State.updLaunch_macs (l : Nat) (f : Launch → Launch) : (s.updLaunch l f).macs = s.macs := rfl
@[simp] theorem State.updLaunch_cmd (l : Nat) (f : Launch → Launch) : (s.updLaunch l f).cmd = s.cmd := rfl
@[simp] theorem State.updLaunch_badNodes (l : Nat) (f : Launch → Launch) : (s.updLaunch l f).badNodes = s.badNodes := rfl
@[simp] theorem State.updLaunch_recalls (l : Nat) (f : Launch → Launch) : (s.updLaunch l f).recalls = s.recalls := rfl
@[simp] theorem State.updLaunch_exports (l : Nat) (f : Launch → Launch) : (s.updLaunch l f).exports = s.exports := rfl
@[simp] theorem State.updLaunch_fab (l : Nat) (f : Launch → Launch) : (s.updLaunch l f).fab = s.fab := rfl
@[simp] theorem State.updLaunch_sec (l : Nat) (f : Launch → Launch) : (s.updLaunch l f).sec = s.sec := rfl
@[simp] theorem State.updLaunch_capped (l : Nat) (f : Launch → Launch) : (s.updLaunch l f).capped = s.capped := rfl
@[simp] theorem State.updLaunch_arrivals (l : Nat) (f : Launch → Launch) : (s.updLaunch l f).arrivals = s.arrivals := rfl
@[simp] theorem State.updLaunch_cur (l : Nat) (f : Launch → Launch) : (s.updLaunch l f).cur = s.cur := rfl
@[simp] theorem State.updLaunch_issueQ (l : Nat) (f : Launch → Launch) : (s.updLaunch l f).issueQ = s.issueQ := rfl
@[simp] theorem State.updLaunch_inbox (l : Nat) (f : Launch → Launch) : (s.updLaunch l f).inbox = s.inbox := rfl
@[simp] theorem State.updLaunch_nextId (l : Nat) (f : Launch → Launch) : (s.updLaunch l f).nextId = s.nextId := rfl
@[simp] theorem State.updLaunch_free (l : Nat) (f : Launch → Launch) : (s.updLaunch l f).free = s.free := rfl

@[simp] theorem State.updJob_powered (j : Nat) (f : Job → Job) : (s.updJob j f).powered = s.powered := rfl
@[simp] theorem State.updJob_time (j : Nat) (f : Job → Job) : (s.updJob j f).time = s.time := rfl
@[simp] theorem State.updJob_cores (j : Nat) (f : Job → Job) : (s.updJob j f).cores = s.cores := rfl
@[simp] theorem State.updJob_groups (j : Nat) (f : Job → Job) : (s.updJob j f).groups = s.groups := rfl
@[simp] theorem State.updJob_blocks (j : Nat) (f : Job → Job) : (s.updJob j f).blocks = s.blocks := rfl
@[simp] theorem State.updJob_launches (j : Nat) (f : Job → Job) : (s.updJob j f).launches = s.launches := rfl
@[simp] theorem State.updJob_reqs (j : Nat) (f : Job → Job) : (s.updJob j f).reqs = s.reqs := rfl
@[simp] theorem State.updJob_nextSeq (j : Nat) (f : Job → Job) : (s.updJob j f).nextSeq = s.nextSeq := rfl
@[simp] theorem State.updJob_mem (j : Nat) (f : Job → Job) : (s.updJob j f).mem = s.mem := rfl
@[simp] theorem State.updJob_poison (j : Nat) (f : Job → Job) : (s.updJob j f).poison = s.poison := rfl
@[simp] theorem State.updJob_l1 (j : Nat) (f : Job → Job) : (s.updJob j f).l1 = s.l1 := rfl
@[simp] theorem State.updJob_l2 (j : Nat) (f : Job → Job) : (s.updJob j f).l2 = s.l2 := rfl
@[simp] theorem State.updJob_tlb (j : Nat) (f : Job → Job) : (s.updJob j f).tlb = s.tlb := rfl
@[simp] theorem State.updJob_ctr (j : Nat) (f : Job → Job) : (s.updJob j f).ctr = s.ctr := rfl
@[simp] theorem State.updJob_pub (j : Nat) (f : Job → Job) : (s.updJob j f).pub = s.pub := rfl
@[simp] theorem State.updJob_heard (j : Nat) (f : Job → Job) : (s.updJob j f).heard = s.heard := rfl
@[simp] theorem State.updJob_ring (j : Nat) (f : Job → Job) : (s.updJob j f).ring = s.ring := rfl
@[simp] theorem State.updJob_genHeard (j : Nat) (f : Job → Job) : (s.updJob j f).genHeard = s.genHeard := rfl
@[simp] theorem State.updJob_pkgGen (j : Nat) (f : Job → Job) : (s.updJob j f).pkgGen = s.pkgGen := rfl
@[simp] theorem State.updJob_pkgRenewing (j : Nat) (f : Job → Job) : (s.updJob j f).pkgRenewing = s.pkgRenewing := rfl
@[simp] theorem State.updJob_pkgDrained (j : Nat) (f : Job → Job) : (s.updJob j f).pkgDrained = s.pkgDrained := rfl
@[simp] theorem State.updJob_slots (j : Nat) (f : Job → Job) : (s.updJob j f).slots = s.slots := rfl
@[simp] theorem State.updJob_nextJob (j : Nat) (f : Job → Job) : (s.updJob j f).nextJob = s.nextJob := rfl
@[simp] theorem State.updJob_engCredit (j : Nat) (f : Job → Job) : (s.updJob j f).engCredit = s.engCredit := rfl
@[simp] theorem State.updJob_tiles (j : Nat) (f : Job → Job) : (s.updJob j f).tiles = s.tiles := rfl
@[simp] theorem State.updJob_bars (j : Nat) (f : Job → Job) : (s.updJob j f).bars = s.bars := rfl
@[simp] theorem State.updJob_gangs (j : Nat) (f : Job → Job) : (s.updJob j f).gangs = s.gangs := rfl
@[simp] theorem State.updJob_chans (j : Nat) (f : Job → Job) : (s.updJob j f).chans = s.chans := rfl
@[simp] theorem State.updJob_dies (j : Nat) (f : Job → Job) : (s.updJob j f).dies = s.dies := rfl
@[simp] theorem State.updJob_cps (j : Nat) (f : Job → Job) : (s.updJob j f).cps = s.cps := rfl
@[simp] theorem State.updJob_slices (j : Nat) (f : Job → Job) : (s.updJob j f).slices = s.slices := rfl
@[simp] theorem State.updJob_vfs (j : Nat) (f : Job → Job) : (s.updJob j f).vfs = s.vfs := rfl
@[simp] theorem State.updJob_sltbase (j : Nat) (f : Job → Job) : (s.updJob j f).sltbase = s.sltbase := rfl
@[simp] theorem State.updJob_regions (j : Nat) (f : Job → Job) : (s.updJob j f).regions = s.regions := rfl
@[simp] theorem State.updJob_lineCtr (j : Nat) (f : Job → Job) : (s.updJob j f).lineCtr = s.lineCtr := rfl
@[simp] theorem State.updJob_nodeCtr (j : Nat) (f : Job → Job) : (s.updJob j f).nodeCtr = s.nodeCtr := rfl
@[simp] theorem State.updJob_macs (j : Nat) (f : Job → Job) : (s.updJob j f).macs = s.macs := rfl
@[simp] theorem State.updJob_cmd (j : Nat) (f : Job → Job) : (s.updJob j f).cmd = s.cmd := rfl
@[simp] theorem State.updJob_badNodes (j : Nat) (f : Job → Job) : (s.updJob j f).badNodes = s.badNodes := rfl
@[simp] theorem State.updJob_recalls (j : Nat) (f : Job → Job) : (s.updJob j f).recalls = s.recalls := rfl
@[simp] theorem State.updJob_exports (j : Nat) (f : Job → Job) : (s.updJob j f).exports = s.exports := rfl
@[simp] theorem State.updJob_fab (j : Nat) (f : Job → Job) : (s.updJob j f).fab = s.fab := rfl
@[simp] theorem State.updJob_sec (j : Nat) (f : Job → Job) : (s.updJob j f).sec = s.sec := rfl
@[simp] theorem State.updJob_capped (j : Nat) (f : Job → Job) : (s.updJob j f).capped = s.capped := rfl
@[simp] theorem State.updJob_arrivals (j : Nat) (f : Job → Job) : (s.updJob j f).arrivals = s.arrivals := rfl
@[simp] theorem State.updJob_cur (j : Nat) (f : Job → Job) : (s.updJob j f).cur = s.cur := rfl
@[simp] theorem State.updJob_issueQ (j : Nat) (f : Job → Job) : (s.updJob j f).issueQ = s.issueQ := rfl
@[simp] theorem State.updJob_inbox (j : Nat) (f : Job → Job) : (s.updJob j f).inbox = s.inbox := rfl
@[simp] theorem State.updJob_nextId (j : Nat) (f : Job → Job) : (s.updJob j f).nextId = s.nextId := rfl
@[simp] theorem State.updJob_free (j : Nat) (f : Job → Job) : (s.updJob j f).free = s.free := rfl

@[simp] theorem State.updChan_powered (c : Nat) (f : Channel → Channel) : (s.updChan c f).powered = s.powered := rfl
@[simp] theorem State.updChan_time (c : Nat) (f : Channel → Channel) : (s.updChan c f).time = s.time := rfl
@[simp] theorem State.updChan_cores (c : Nat) (f : Channel → Channel) : (s.updChan c f).cores = s.cores := rfl
@[simp] theorem State.updChan_groups (c : Nat) (f : Channel → Channel) : (s.updChan c f).groups = s.groups := rfl
@[simp] theorem State.updChan_blocks (c : Nat) (f : Channel → Channel) : (s.updChan c f).blocks = s.blocks := rfl
@[simp] theorem State.updChan_launches (c : Nat) (f : Channel → Channel) : (s.updChan c f).launches = s.launches := rfl
@[simp] theorem State.updChan_reqs (c : Nat) (f : Channel → Channel) : (s.updChan c f).reqs = s.reqs := rfl
@[simp] theorem State.updChan_nextSeq (c : Nat) (f : Channel → Channel) : (s.updChan c f).nextSeq = s.nextSeq := rfl
@[simp] theorem State.updChan_mem (c : Nat) (f : Channel → Channel) : (s.updChan c f).mem = s.mem := rfl
@[simp] theorem State.updChan_poison (c : Nat) (f : Channel → Channel) : (s.updChan c f).poison = s.poison := rfl
@[simp] theorem State.updChan_l1 (c : Nat) (f : Channel → Channel) : (s.updChan c f).l1 = s.l1 := rfl
@[simp] theorem State.updChan_l2 (c : Nat) (f : Channel → Channel) : (s.updChan c f).l2 = s.l2 := rfl
@[simp] theorem State.updChan_tlb (c : Nat) (f : Channel → Channel) : (s.updChan c f).tlb = s.tlb := rfl
@[simp] theorem State.updChan_ctr (c : Nat) (f : Channel → Channel) : (s.updChan c f).ctr = s.ctr := rfl
@[simp] theorem State.updChan_pub (c : Nat) (f : Channel → Channel) : (s.updChan c f).pub = s.pub := rfl
@[simp] theorem State.updChan_heard (c : Nat) (f : Channel → Channel) : (s.updChan c f).heard = s.heard := rfl
@[simp] theorem State.updChan_ring (c : Nat) (f : Channel → Channel) : (s.updChan c f).ring = s.ring := rfl
@[simp] theorem State.updChan_genHeard (c : Nat) (f : Channel → Channel) : (s.updChan c f).genHeard = s.genHeard := rfl
@[simp] theorem State.updChan_pkgGen (c : Nat) (f : Channel → Channel) : (s.updChan c f).pkgGen = s.pkgGen := rfl
@[simp] theorem State.updChan_pkgRenewing (c : Nat) (f : Channel → Channel) : (s.updChan c f).pkgRenewing = s.pkgRenewing := rfl
@[simp] theorem State.updChan_pkgDrained (c : Nat) (f : Channel → Channel) : (s.updChan c f).pkgDrained = s.pkgDrained := rfl
@[simp] theorem State.updChan_slots (c : Nat) (f : Channel → Channel) : (s.updChan c f).slots = s.slots := rfl
@[simp] theorem State.updChan_jobs (c : Nat) (f : Channel → Channel) : (s.updChan c f).jobs = s.jobs := rfl
@[simp] theorem State.updChan_nextJob (c : Nat) (f : Channel → Channel) : (s.updChan c f).nextJob = s.nextJob := rfl
@[simp] theorem State.updChan_engCredit (c : Nat) (f : Channel → Channel) : (s.updChan c f).engCredit = s.engCredit := rfl
@[simp] theorem State.updChan_tiles (c : Nat) (f : Channel → Channel) : (s.updChan c f).tiles = s.tiles := rfl
@[simp] theorem State.updChan_bars (c : Nat) (f : Channel → Channel) : (s.updChan c f).bars = s.bars := rfl
@[simp] theorem State.updChan_gangs (c : Nat) (f : Channel → Channel) : (s.updChan c f).gangs = s.gangs := rfl
@[simp] theorem State.updChan_dies (c : Nat) (f : Channel → Channel) : (s.updChan c f).dies = s.dies := rfl
@[simp] theorem State.updChan_cps (c : Nat) (f : Channel → Channel) : (s.updChan c f).cps = s.cps := rfl
@[simp] theorem State.updChan_slices (c : Nat) (f : Channel → Channel) : (s.updChan c f).slices = s.slices := rfl
@[simp] theorem State.updChan_vfs (c : Nat) (f : Channel → Channel) : (s.updChan c f).vfs = s.vfs := rfl
@[simp] theorem State.updChan_sltbase (c : Nat) (f : Channel → Channel) : (s.updChan c f).sltbase = s.sltbase := rfl
@[simp] theorem State.updChan_regions (c : Nat) (f : Channel → Channel) : (s.updChan c f).regions = s.regions := rfl
@[simp] theorem State.updChan_lineCtr (c : Nat) (f : Channel → Channel) : (s.updChan c f).lineCtr = s.lineCtr := rfl
@[simp] theorem State.updChan_nodeCtr (c : Nat) (f : Channel → Channel) : (s.updChan c f).nodeCtr = s.nodeCtr := rfl
@[simp] theorem State.updChan_macs (c : Nat) (f : Channel → Channel) : (s.updChan c f).macs = s.macs := rfl
@[simp] theorem State.updChan_cmd (c : Nat) (f : Channel → Channel) : (s.updChan c f).cmd = s.cmd := rfl
@[simp] theorem State.updChan_badNodes (c : Nat) (f : Channel → Channel) : (s.updChan c f).badNodes = s.badNodes := rfl
@[simp] theorem State.updChan_recalls (c : Nat) (f : Channel → Channel) : (s.updChan c f).recalls = s.recalls := rfl
@[simp] theorem State.updChan_exports (c : Nat) (f : Channel → Channel) : (s.updChan c f).exports = s.exports := rfl
@[simp] theorem State.updChan_fab (c : Nat) (f : Channel → Channel) : (s.updChan c f).fab = s.fab := rfl
@[simp] theorem State.updChan_sec (c : Nat) (f : Channel → Channel) : (s.updChan c f).sec = s.sec := rfl
@[simp] theorem State.updChan_capped (c : Nat) (f : Channel → Channel) : (s.updChan c f).capped = s.capped := rfl
@[simp] theorem State.updChan_arrivals (c : Nat) (f : Channel → Channel) : (s.updChan c f).arrivals = s.arrivals := rfl
@[simp] theorem State.updChan_cur (c : Nat) (f : Channel → Channel) : (s.updChan c f).cur = s.cur := rfl
@[simp] theorem State.updChan_issueQ (c : Nat) (f : Channel → Channel) : (s.updChan c f).issueQ = s.issueQ := rfl
@[simp] theorem State.updChan_inbox (c : Nat) (f : Channel → Channel) : (s.updChan c f).inbox = s.inbox := rfl
@[simp] theorem State.updChan_nextId (c : Nat) (f : Channel → Channel) : (s.updChan c f).nextId = s.nextId := rfl
@[simp] theorem State.updChan_free (c : Nat) (f : Channel → Channel) : (s.updChan c f).free = s.free := rfl

@[simp] theorem State.updDie_powered (d : Nat) (f : Die → Die) : (s.updDie d f).powered = s.powered := rfl
@[simp] theorem State.updDie_time (d : Nat) (f : Die → Die) : (s.updDie d f).time = s.time := rfl
@[simp] theorem State.updDie_cores (d : Nat) (f : Die → Die) : (s.updDie d f).cores = s.cores := rfl
@[simp] theorem State.updDie_groups (d : Nat) (f : Die → Die) : (s.updDie d f).groups = s.groups := rfl
@[simp] theorem State.updDie_blocks (d : Nat) (f : Die → Die) : (s.updDie d f).blocks = s.blocks := rfl
@[simp] theorem State.updDie_launches (d : Nat) (f : Die → Die) : (s.updDie d f).launches = s.launches := rfl
@[simp] theorem State.updDie_reqs (d : Nat) (f : Die → Die) : (s.updDie d f).reqs = s.reqs := rfl
@[simp] theorem State.updDie_nextSeq (d : Nat) (f : Die → Die) : (s.updDie d f).nextSeq = s.nextSeq := rfl
@[simp] theorem State.updDie_mem (d : Nat) (f : Die → Die) : (s.updDie d f).mem = s.mem := rfl
@[simp] theorem State.updDie_poison (d : Nat) (f : Die → Die) : (s.updDie d f).poison = s.poison := rfl
@[simp] theorem State.updDie_l1 (d : Nat) (f : Die → Die) : (s.updDie d f).l1 = s.l1 := rfl
@[simp] theorem State.updDie_l2 (d : Nat) (f : Die → Die) : (s.updDie d f).l2 = s.l2 := rfl
@[simp] theorem State.updDie_tlb (d : Nat) (f : Die → Die) : (s.updDie d f).tlb = s.tlb := rfl
@[simp] theorem State.updDie_ctr (d : Nat) (f : Die → Die) : (s.updDie d f).ctr = s.ctr := rfl
@[simp] theorem State.updDie_pub (d : Nat) (f : Die → Die) : (s.updDie d f).pub = s.pub := rfl
@[simp] theorem State.updDie_heard (d : Nat) (f : Die → Die) : (s.updDie d f).heard = s.heard := rfl
@[simp] theorem State.updDie_ring (d : Nat) (f : Die → Die) : (s.updDie d f).ring = s.ring := rfl
@[simp] theorem State.updDie_genHeard (d : Nat) (f : Die → Die) : (s.updDie d f).genHeard = s.genHeard := rfl
@[simp] theorem State.updDie_pkgGen (d : Nat) (f : Die → Die) : (s.updDie d f).pkgGen = s.pkgGen := rfl
@[simp] theorem State.updDie_pkgRenewing (d : Nat) (f : Die → Die) : (s.updDie d f).pkgRenewing = s.pkgRenewing := rfl
@[simp] theorem State.updDie_pkgDrained (d : Nat) (f : Die → Die) : (s.updDie d f).pkgDrained = s.pkgDrained := rfl
@[simp] theorem State.updDie_slots (d : Nat) (f : Die → Die) : (s.updDie d f).slots = s.slots := rfl
@[simp] theorem State.updDie_jobs (d : Nat) (f : Die → Die) : (s.updDie d f).jobs = s.jobs := rfl
@[simp] theorem State.updDie_nextJob (d : Nat) (f : Die → Die) : (s.updDie d f).nextJob = s.nextJob := rfl
@[simp] theorem State.updDie_engCredit (d : Nat) (f : Die → Die) : (s.updDie d f).engCredit = s.engCredit := rfl
@[simp] theorem State.updDie_tiles (d : Nat) (f : Die → Die) : (s.updDie d f).tiles = s.tiles := rfl
@[simp] theorem State.updDie_bars (d : Nat) (f : Die → Die) : (s.updDie d f).bars = s.bars := rfl
@[simp] theorem State.updDie_gangs (d : Nat) (f : Die → Die) : (s.updDie d f).gangs = s.gangs := rfl
@[simp] theorem State.updDie_chans (d : Nat) (f : Die → Die) : (s.updDie d f).chans = s.chans := rfl
@[simp] theorem State.updDie_cps (d : Nat) (f : Die → Die) : (s.updDie d f).cps = s.cps := rfl
@[simp] theorem State.updDie_slices (d : Nat) (f : Die → Die) : (s.updDie d f).slices = s.slices := rfl
@[simp] theorem State.updDie_vfs (d : Nat) (f : Die → Die) : (s.updDie d f).vfs = s.vfs := rfl
@[simp] theorem State.updDie_sltbase (d : Nat) (f : Die → Die) : (s.updDie d f).sltbase = s.sltbase := rfl
@[simp] theorem State.updDie_regions (d : Nat) (f : Die → Die) : (s.updDie d f).regions = s.regions := rfl
@[simp] theorem State.updDie_lineCtr (d : Nat) (f : Die → Die) : (s.updDie d f).lineCtr = s.lineCtr := rfl
@[simp] theorem State.updDie_nodeCtr (d : Nat) (f : Die → Die) : (s.updDie d f).nodeCtr = s.nodeCtr := rfl
@[simp] theorem State.updDie_macs (d : Nat) (f : Die → Die) : (s.updDie d f).macs = s.macs := rfl
@[simp] theorem State.updDie_cmd (d : Nat) (f : Die → Die) : (s.updDie d f).cmd = s.cmd := rfl
@[simp] theorem State.updDie_badNodes (d : Nat) (f : Die → Die) : (s.updDie d f).badNodes = s.badNodes := rfl
@[simp] theorem State.updDie_recalls (d : Nat) (f : Die → Die) : (s.updDie d f).recalls = s.recalls := rfl
@[simp] theorem State.updDie_exports (d : Nat) (f : Die → Die) : (s.updDie d f).exports = s.exports := rfl
@[simp] theorem State.updDie_fab (d : Nat) (f : Die → Die) : (s.updDie d f).fab = s.fab := rfl
@[simp] theorem State.updDie_sec (d : Nat) (f : Die → Die) : (s.updDie d f).sec = s.sec := rfl
@[simp] theorem State.updDie_capped (d : Nat) (f : Die → Die) : (s.updDie d f).capped = s.capped := rfl
@[simp] theorem State.updDie_arrivals (d : Nat) (f : Die → Die) : (s.updDie d f).arrivals = s.arrivals := rfl
@[simp] theorem State.updDie_cur (d : Nat) (f : Die → Die) : (s.updDie d f).cur = s.cur := rfl
@[simp] theorem State.updDie_issueQ (d : Nat) (f : Die → Die) : (s.updDie d f).issueQ = s.issueQ := rfl
@[simp] theorem State.updDie_inbox (d : Nat) (f : Die → Die) : (s.updDie d f).inbox = s.inbox := rfl
@[simp] theorem State.updDie_nextId (d : Nat) (f : Die → Die) : (s.updDie d f).nextId = s.nextId := rfl
@[simp] theorem State.updDie_free (d : Nat) (f : Die → Die) : (s.updDie d f).free = s.free := rfl

@[simp] theorem State.updCp_powered (c : Nat) (f : Cp → Cp) : (s.updCp c f).powered = s.powered := rfl
@[simp] theorem State.updCp_time (c : Nat) (f : Cp → Cp) : (s.updCp c f).time = s.time := rfl
@[simp] theorem State.updCp_cores (c : Nat) (f : Cp → Cp) : (s.updCp c f).cores = s.cores := rfl
@[simp] theorem State.updCp_groups (c : Nat) (f : Cp → Cp) : (s.updCp c f).groups = s.groups := rfl
@[simp] theorem State.updCp_blocks (c : Nat) (f : Cp → Cp) : (s.updCp c f).blocks = s.blocks := rfl
@[simp] theorem State.updCp_launches (c : Nat) (f : Cp → Cp) : (s.updCp c f).launches = s.launches := rfl
@[simp] theorem State.updCp_reqs (c : Nat) (f : Cp → Cp) : (s.updCp c f).reqs = s.reqs := rfl
@[simp] theorem State.updCp_nextSeq (c : Nat) (f : Cp → Cp) : (s.updCp c f).nextSeq = s.nextSeq := rfl
@[simp] theorem State.updCp_mem (c : Nat) (f : Cp → Cp) : (s.updCp c f).mem = s.mem := rfl
@[simp] theorem State.updCp_poison (c : Nat) (f : Cp → Cp) : (s.updCp c f).poison = s.poison := rfl
@[simp] theorem State.updCp_l1 (c : Nat) (f : Cp → Cp) : (s.updCp c f).l1 = s.l1 := rfl
@[simp] theorem State.updCp_l2 (c : Nat) (f : Cp → Cp) : (s.updCp c f).l2 = s.l2 := rfl
@[simp] theorem State.updCp_tlb (c : Nat) (f : Cp → Cp) : (s.updCp c f).tlb = s.tlb := rfl
@[simp] theorem State.updCp_ctr (c : Nat) (f : Cp → Cp) : (s.updCp c f).ctr = s.ctr := rfl
@[simp] theorem State.updCp_pub (c : Nat) (f : Cp → Cp) : (s.updCp c f).pub = s.pub := rfl
@[simp] theorem State.updCp_heard (c : Nat) (f : Cp → Cp) : (s.updCp c f).heard = s.heard := rfl
@[simp] theorem State.updCp_ring (c : Nat) (f : Cp → Cp) : (s.updCp c f).ring = s.ring := rfl
@[simp] theorem State.updCp_genHeard (c : Nat) (f : Cp → Cp) : (s.updCp c f).genHeard = s.genHeard := rfl
@[simp] theorem State.updCp_pkgGen (c : Nat) (f : Cp → Cp) : (s.updCp c f).pkgGen = s.pkgGen := rfl
@[simp] theorem State.updCp_pkgRenewing (c : Nat) (f : Cp → Cp) : (s.updCp c f).pkgRenewing = s.pkgRenewing := rfl
@[simp] theorem State.updCp_pkgDrained (c : Nat) (f : Cp → Cp) : (s.updCp c f).pkgDrained = s.pkgDrained := rfl
@[simp] theorem State.updCp_slots (c : Nat) (f : Cp → Cp) : (s.updCp c f).slots = s.slots := rfl
@[simp] theorem State.updCp_jobs (c : Nat) (f : Cp → Cp) : (s.updCp c f).jobs = s.jobs := rfl
@[simp] theorem State.updCp_nextJob (c : Nat) (f : Cp → Cp) : (s.updCp c f).nextJob = s.nextJob := rfl
@[simp] theorem State.updCp_engCredit (c : Nat) (f : Cp → Cp) : (s.updCp c f).engCredit = s.engCredit := rfl
@[simp] theorem State.updCp_tiles (c : Nat) (f : Cp → Cp) : (s.updCp c f).tiles = s.tiles := rfl
@[simp] theorem State.updCp_bars (c : Nat) (f : Cp → Cp) : (s.updCp c f).bars = s.bars := rfl
@[simp] theorem State.updCp_gangs (c : Nat) (f : Cp → Cp) : (s.updCp c f).gangs = s.gangs := rfl
@[simp] theorem State.updCp_chans (c : Nat) (f : Cp → Cp) : (s.updCp c f).chans = s.chans := rfl
@[simp] theorem State.updCp_dies (c : Nat) (f : Cp → Cp) : (s.updCp c f).dies = s.dies := rfl
@[simp] theorem State.updCp_slices (c : Nat) (f : Cp → Cp) : (s.updCp c f).slices = s.slices := rfl
@[simp] theorem State.updCp_vfs (c : Nat) (f : Cp → Cp) : (s.updCp c f).vfs = s.vfs := rfl
@[simp] theorem State.updCp_sltbase (c : Nat) (f : Cp → Cp) : (s.updCp c f).sltbase = s.sltbase := rfl
@[simp] theorem State.updCp_regions (c : Nat) (f : Cp → Cp) : (s.updCp c f).regions = s.regions := rfl
@[simp] theorem State.updCp_lineCtr (c : Nat) (f : Cp → Cp) : (s.updCp c f).lineCtr = s.lineCtr := rfl
@[simp] theorem State.updCp_nodeCtr (c : Nat) (f : Cp → Cp) : (s.updCp c f).nodeCtr = s.nodeCtr := rfl
@[simp] theorem State.updCp_macs (c : Nat) (f : Cp → Cp) : (s.updCp c f).macs = s.macs := rfl
@[simp] theorem State.updCp_cmd (c : Nat) (f : Cp → Cp) : (s.updCp c f).cmd = s.cmd := rfl
@[simp] theorem State.updCp_badNodes (c : Nat) (f : Cp → Cp) : (s.updCp c f).badNodes = s.badNodes := rfl
@[simp] theorem State.updCp_recalls (c : Nat) (f : Cp → Cp) : (s.updCp c f).recalls = s.recalls := rfl
@[simp] theorem State.updCp_exports (c : Nat) (f : Cp → Cp) : (s.updCp c f).exports = s.exports := rfl
@[simp] theorem State.updCp_fab (c : Nat) (f : Cp → Cp) : (s.updCp c f).fab = s.fab := rfl
@[simp] theorem State.updCp_sec (c : Nat) (f : Cp → Cp) : (s.updCp c f).sec = s.sec := rfl
@[simp] theorem State.updCp_capped (c : Nat) (f : Cp → Cp) : (s.updCp c f).capped = s.capped := rfl
@[simp] theorem State.updCp_arrivals (c : Nat) (f : Cp → Cp) : (s.updCp c f).arrivals = s.arrivals := rfl
@[simp] theorem State.updCp_cur (c : Nat) (f : Cp → Cp) : (s.updCp c f).cur = s.cur := rfl
@[simp] theorem State.updCp_issueQ (c : Nat) (f : Cp → Cp) : (s.updCp c f).issueQ = s.issueQ := rfl
@[simp] theorem State.updCp_inbox (c : Nat) (f : Cp → Cp) : (s.updCp c f).inbox = s.inbox := rfl
@[simp] theorem State.updCp_nextId (c : Nat) (f : Cp → Cp) : (s.updCp c f).nextId = s.nextId := rfl
@[simp] theorem State.updCp_free (c : Nat) (f : Cp → Cp) : (s.updCp c f).free = s.free := rfl

@[simp] theorem State.updSlice_powered (i : Nat) (f : Slice → Slice) : (s.updSlice i f).powered = s.powered := rfl
@[simp] theorem State.updSlice_time (i : Nat) (f : Slice → Slice) : (s.updSlice i f).time = s.time := rfl
@[simp] theorem State.updSlice_cores (i : Nat) (f : Slice → Slice) : (s.updSlice i f).cores = s.cores := rfl
@[simp] theorem State.updSlice_groups (i : Nat) (f : Slice → Slice) : (s.updSlice i f).groups = s.groups := rfl
@[simp] theorem State.updSlice_blocks (i : Nat) (f : Slice → Slice) : (s.updSlice i f).blocks = s.blocks := rfl
@[simp] theorem State.updSlice_launches (i : Nat) (f : Slice → Slice) : (s.updSlice i f).launches = s.launches := rfl
@[simp] theorem State.updSlice_reqs (i : Nat) (f : Slice → Slice) : (s.updSlice i f).reqs = s.reqs := rfl
@[simp] theorem State.updSlice_nextSeq (i : Nat) (f : Slice → Slice) : (s.updSlice i f).nextSeq = s.nextSeq := rfl
@[simp] theorem State.updSlice_mem (i : Nat) (f : Slice → Slice) : (s.updSlice i f).mem = s.mem := rfl
@[simp] theorem State.updSlice_poison (i : Nat) (f : Slice → Slice) : (s.updSlice i f).poison = s.poison := rfl
@[simp] theorem State.updSlice_l1 (i : Nat) (f : Slice → Slice) : (s.updSlice i f).l1 = s.l1 := rfl
@[simp] theorem State.updSlice_l2 (i : Nat) (f : Slice → Slice) : (s.updSlice i f).l2 = s.l2 := rfl
@[simp] theorem State.updSlice_tlb (i : Nat) (f : Slice → Slice) : (s.updSlice i f).tlb = s.tlb := rfl
@[simp] theorem State.updSlice_ctr (i : Nat) (f : Slice → Slice) : (s.updSlice i f).ctr = s.ctr := rfl
@[simp] theorem State.updSlice_pub (i : Nat) (f : Slice → Slice) : (s.updSlice i f).pub = s.pub := rfl
@[simp] theorem State.updSlice_heard (i : Nat) (f : Slice → Slice) : (s.updSlice i f).heard = s.heard := rfl
@[simp] theorem State.updSlice_ring (i : Nat) (f : Slice → Slice) : (s.updSlice i f).ring = s.ring := rfl
@[simp] theorem State.updSlice_genHeard (i : Nat) (f : Slice → Slice) : (s.updSlice i f).genHeard = s.genHeard := rfl
@[simp] theorem State.updSlice_pkgGen (i : Nat) (f : Slice → Slice) : (s.updSlice i f).pkgGen = s.pkgGen := rfl
@[simp] theorem State.updSlice_pkgRenewing (i : Nat) (f : Slice → Slice) : (s.updSlice i f).pkgRenewing = s.pkgRenewing := rfl
@[simp] theorem State.updSlice_pkgDrained (i : Nat) (f : Slice → Slice) : (s.updSlice i f).pkgDrained = s.pkgDrained := rfl
@[simp] theorem State.updSlice_slots (i : Nat) (f : Slice → Slice) : (s.updSlice i f).slots = s.slots := rfl
@[simp] theorem State.updSlice_jobs (i : Nat) (f : Slice → Slice) : (s.updSlice i f).jobs = s.jobs := rfl
@[simp] theorem State.updSlice_nextJob (i : Nat) (f : Slice → Slice) : (s.updSlice i f).nextJob = s.nextJob := rfl
@[simp] theorem State.updSlice_engCredit (i : Nat) (f : Slice → Slice) : (s.updSlice i f).engCredit = s.engCredit := rfl
@[simp] theorem State.updSlice_tiles (i : Nat) (f : Slice → Slice) : (s.updSlice i f).tiles = s.tiles := rfl
@[simp] theorem State.updSlice_bars (i : Nat) (f : Slice → Slice) : (s.updSlice i f).bars = s.bars := rfl
@[simp] theorem State.updSlice_gangs (i : Nat) (f : Slice → Slice) : (s.updSlice i f).gangs = s.gangs := rfl
@[simp] theorem State.updSlice_chans (i : Nat) (f : Slice → Slice) : (s.updSlice i f).chans = s.chans := rfl
@[simp] theorem State.updSlice_dies (i : Nat) (f : Slice → Slice) : (s.updSlice i f).dies = s.dies := rfl
@[simp] theorem State.updSlice_cps (i : Nat) (f : Slice → Slice) : (s.updSlice i f).cps = s.cps := rfl
@[simp] theorem State.updSlice_vfs (i : Nat) (f : Slice → Slice) : (s.updSlice i f).vfs = s.vfs := rfl
@[simp] theorem State.updSlice_sltbase (i : Nat) (f : Slice → Slice) : (s.updSlice i f).sltbase = s.sltbase := rfl
@[simp] theorem State.updSlice_regions (i : Nat) (f : Slice → Slice) : (s.updSlice i f).regions = s.regions := rfl
@[simp] theorem State.updSlice_lineCtr (i : Nat) (f : Slice → Slice) : (s.updSlice i f).lineCtr = s.lineCtr := rfl
@[simp] theorem State.updSlice_nodeCtr (i : Nat) (f : Slice → Slice) : (s.updSlice i f).nodeCtr = s.nodeCtr := rfl
@[simp] theorem State.updSlice_macs (i : Nat) (f : Slice → Slice) : (s.updSlice i f).macs = s.macs := rfl
@[simp] theorem State.updSlice_cmd (i : Nat) (f : Slice → Slice) : (s.updSlice i f).cmd = s.cmd := rfl
@[simp] theorem State.updSlice_badNodes (i : Nat) (f : Slice → Slice) : (s.updSlice i f).badNodes = s.badNodes := rfl
@[simp] theorem State.updSlice_recalls (i : Nat) (f : Slice → Slice) : (s.updSlice i f).recalls = s.recalls := rfl
@[simp] theorem State.updSlice_exports (i : Nat) (f : Slice → Slice) : (s.updSlice i f).exports = s.exports := rfl
@[simp] theorem State.updSlice_fab (i : Nat) (f : Slice → Slice) : (s.updSlice i f).fab = s.fab := rfl
@[simp] theorem State.updSlice_sec (i : Nat) (f : Slice → Slice) : (s.updSlice i f).sec = s.sec := rfl
@[simp] theorem State.updSlice_capped (i : Nat) (f : Slice → Slice) : (s.updSlice i f).capped = s.capped := rfl
@[simp] theorem State.updSlice_arrivals (i : Nat) (f : Slice → Slice) : (s.updSlice i f).arrivals = s.arrivals := rfl
@[simp] theorem State.updSlice_cur (i : Nat) (f : Slice → Slice) : (s.updSlice i f).cur = s.cur := rfl
@[simp] theorem State.updSlice_issueQ (i : Nat) (f : Slice → Slice) : (s.updSlice i f).issueQ = s.issueQ := rfl
@[simp] theorem State.updSlice_inbox (i : Nat) (f : Slice → Slice) : (s.updSlice i f).inbox = s.inbox := rfl
@[simp] theorem State.updSlice_nextId (i : Nat) (f : Slice → Slice) : (s.updSlice i f).nextId = s.nextId := rfl
@[simp] theorem State.updSlice_free (i : Nat) (f : Slice → Slice) : (s.updSlice i f).free = s.free := rfl

@[simp] theorem State.updVf_powered (i : Nat) (f : Vf → Vf) : (s.updVf i f).powered = s.powered := rfl
@[simp] theorem State.updVf_time (i : Nat) (f : Vf → Vf) : (s.updVf i f).time = s.time := rfl
@[simp] theorem State.updVf_cores (i : Nat) (f : Vf → Vf) : (s.updVf i f).cores = s.cores := rfl
@[simp] theorem State.updVf_groups (i : Nat) (f : Vf → Vf) : (s.updVf i f).groups = s.groups := rfl
@[simp] theorem State.updVf_blocks (i : Nat) (f : Vf → Vf) : (s.updVf i f).blocks = s.blocks := rfl
@[simp] theorem State.updVf_launches (i : Nat) (f : Vf → Vf) : (s.updVf i f).launches = s.launches := rfl
@[simp] theorem State.updVf_reqs (i : Nat) (f : Vf → Vf) : (s.updVf i f).reqs = s.reqs := rfl
@[simp] theorem State.updVf_nextSeq (i : Nat) (f : Vf → Vf) : (s.updVf i f).nextSeq = s.nextSeq := rfl
@[simp] theorem State.updVf_mem (i : Nat) (f : Vf → Vf) : (s.updVf i f).mem = s.mem := rfl
@[simp] theorem State.updVf_poison (i : Nat) (f : Vf → Vf) : (s.updVf i f).poison = s.poison := rfl
@[simp] theorem State.updVf_l1 (i : Nat) (f : Vf → Vf) : (s.updVf i f).l1 = s.l1 := rfl
@[simp] theorem State.updVf_l2 (i : Nat) (f : Vf → Vf) : (s.updVf i f).l2 = s.l2 := rfl
@[simp] theorem State.updVf_tlb (i : Nat) (f : Vf → Vf) : (s.updVf i f).tlb = s.tlb := rfl
@[simp] theorem State.updVf_ctr (i : Nat) (f : Vf → Vf) : (s.updVf i f).ctr = s.ctr := rfl
@[simp] theorem State.updVf_pub (i : Nat) (f : Vf → Vf) : (s.updVf i f).pub = s.pub := rfl
@[simp] theorem State.updVf_heard (i : Nat) (f : Vf → Vf) : (s.updVf i f).heard = s.heard := rfl
@[simp] theorem State.updVf_ring (i : Nat) (f : Vf → Vf) : (s.updVf i f).ring = s.ring := rfl
@[simp] theorem State.updVf_genHeard (i : Nat) (f : Vf → Vf) : (s.updVf i f).genHeard = s.genHeard := rfl
@[simp] theorem State.updVf_pkgGen (i : Nat) (f : Vf → Vf) : (s.updVf i f).pkgGen = s.pkgGen := rfl
@[simp] theorem State.updVf_pkgRenewing (i : Nat) (f : Vf → Vf) : (s.updVf i f).pkgRenewing = s.pkgRenewing := rfl
@[simp] theorem State.updVf_pkgDrained (i : Nat) (f : Vf → Vf) : (s.updVf i f).pkgDrained = s.pkgDrained := rfl
@[simp] theorem State.updVf_slots (i : Nat) (f : Vf → Vf) : (s.updVf i f).slots = s.slots := rfl
@[simp] theorem State.updVf_jobs (i : Nat) (f : Vf → Vf) : (s.updVf i f).jobs = s.jobs := rfl
@[simp] theorem State.updVf_nextJob (i : Nat) (f : Vf → Vf) : (s.updVf i f).nextJob = s.nextJob := rfl
@[simp] theorem State.updVf_engCredit (i : Nat) (f : Vf → Vf) : (s.updVf i f).engCredit = s.engCredit := rfl
@[simp] theorem State.updVf_tiles (i : Nat) (f : Vf → Vf) : (s.updVf i f).tiles = s.tiles := rfl
@[simp] theorem State.updVf_bars (i : Nat) (f : Vf → Vf) : (s.updVf i f).bars = s.bars := rfl
@[simp] theorem State.updVf_gangs (i : Nat) (f : Vf → Vf) : (s.updVf i f).gangs = s.gangs := rfl
@[simp] theorem State.updVf_chans (i : Nat) (f : Vf → Vf) : (s.updVf i f).chans = s.chans := rfl
@[simp] theorem State.updVf_dies (i : Nat) (f : Vf → Vf) : (s.updVf i f).dies = s.dies := rfl
@[simp] theorem State.updVf_cps (i : Nat) (f : Vf → Vf) : (s.updVf i f).cps = s.cps := rfl
@[simp] theorem State.updVf_slices (i : Nat) (f : Vf → Vf) : (s.updVf i f).slices = s.slices := rfl
@[simp] theorem State.updVf_sltbase (i : Nat) (f : Vf → Vf) : (s.updVf i f).sltbase = s.sltbase := rfl
@[simp] theorem State.updVf_regions (i : Nat) (f : Vf → Vf) : (s.updVf i f).regions = s.regions := rfl
@[simp] theorem State.updVf_lineCtr (i : Nat) (f : Vf → Vf) : (s.updVf i f).lineCtr = s.lineCtr := rfl
@[simp] theorem State.updVf_nodeCtr (i : Nat) (f : Vf → Vf) : (s.updVf i f).nodeCtr = s.nodeCtr := rfl
@[simp] theorem State.updVf_macs (i : Nat) (f : Vf → Vf) : (s.updVf i f).macs = s.macs := rfl
@[simp] theorem State.updVf_cmd (i : Nat) (f : Vf → Vf) : (s.updVf i f).cmd = s.cmd := rfl
@[simp] theorem State.updVf_badNodes (i : Nat) (f : Vf → Vf) : (s.updVf i f).badNodes = s.badNodes := rfl
@[simp] theorem State.updVf_recalls (i : Nat) (f : Vf → Vf) : (s.updVf i f).recalls = s.recalls := rfl
@[simp] theorem State.updVf_exports (i : Nat) (f : Vf → Vf) : (s.updVf i f).exports = s.exports := rfl
@[simp] theorem State.updVf_fab (i : Nat) (f : Vf → Vf) : (s.updVf i f).fab = s.fab := rfl
@[simp] theorem State.updVf_sec (i : Nat) (f : Vf → Vf) : (s.updVf i f).sec = s.sec := rfl
@[simp] theorem State.updVf_capped (i : Nat) (f : Vf → Vf) : (s.updVf i f).capped = s.capped := rfl
@[simp] theorem State.updVf_arrivals (i : Nat) (f : Vf → Vf) : (s.updVf i f).arrivals = s.arrivals := rfl
@[simp] theorem State.updVf_cur (i : Nat) (f : Vf → Vf) : (s.updVf i f).cur = s.cur := rfl
@[simp] theorem State.updVf_issueQ (i : Nat) (f : Vf → Vf) : (s.updVf i f).issueQ = s.issueQ := rfl
@[simp] theorem State.updVf_inbox (i : Nat) (f : Vf → Vf) : (s.updVf i f).inbox = s.inbox := rfl
@[simp] theorem State.updVf_nextId (i : Nat) (f : Vf → Vf) : (s.updVf i f).nextId = s.nextId := rfl
@[simp] theorem State.updVf_free (i : Nat) (f : Vf → Vf) : (s.updVf i f).free = s.free := rfl

@[simp] theorem State.writeBytes_powered (a : Nat) (bs : List Byte) : (s.writeBytes a bs).powered = s.powered := rfl
@[simp] theorem State.writeBytes_time (a : Nat) (bs : List Byte) : (s.writeBytes a bs).time = s.time := rfl
@[simp] theorem State.writeBytes_cores (a : Nat) (bs : List Byte) : (s.writeBytes a bs).cores = s.cores := rfl
@[simp] theorem State.writeBytes_groups (a : Nat) (bs : List Byte) : (s.writeBytes a bs).groups = s.groups := rfl
@[simp] theorem State.writeBytes_blocks (a : Nat) (bs : List Byte) : (s.writeBytes a bs).blocks = s.blocks := rfl
@[simp] theorem State.writeBytes_launches (a : Nat) (bs : List Byte) : (s.writeBytes a bs).launches = s.launches := rfl
@[simp] theorem State.writeBytes_reqs (a : Nat) (bs : List Byte) : (s.writeBytes a bs).reqs = s.reqs := rfl
@[simp] theorem State.writeBytes_nextSeq (a : Nat) (bs : List Byte) : (s.writeBytes a bs).nextSeq = s.nextSeq := rfl
@[simp] theorem State.writeBytes_l1 (a : Nat) (bs : List Byte) : (s.writeBytes a bs).l1 = s.l1 := rfl
@[simp] theorem State.writeBytes_l2 (a : Nat) (bs : List Byte) : (s.writeBytes a bs).l2 = s.l2 := rfl
@[simp] theorem State.writeBytes_tlb (a : Nat) (bs : List Byte) : (s.writeBytes a bs).tlb = s.tlb := rfl
@[simp] theorem State.writeBytes_ctr (a : Nat) (bs : List Byte) : (s.writeBytes a bs).ctr = s.ctr := rfl
@[simp] theorem State.writeBytes_pub (a : Nat) (bs : List Byte) : (s.writeBytes a bs).pub = s.pub := rfl
@[simp] theorem State.writeBytes_heard (a : Nat) (bs : List Byte) : (s.writeBytes a bs).heard = s.heard := rfl
@[simp] theorem State.writeBytes_ring (a : Nat) (bs : List Byte) : (s.writeBytes a bs).ring = s.ring := rfl
@[simp] theorem State.writeBytes_genHeard (a : Nat) (bs : List Byte) : (s.writeBytes a bs).genHeard = s.genHeard := rfl
@[simp] theorem State.writeBytes_pkgGen (a : Nat) (bs : List Byte) : (s.writeBytes a bs).pkgGen = s.pkgGen := rfl
@[simp] theorem State.writeBytes_pkgRenewing (a : Nat) (bs : List Byte) : (s.writeBytes a bs).pkgRenewing = s.pkgRenewing := rfl
@[simp] theorem State.writeBytes_pkgDrained (a : Nat) (bs : List Byte) : (s.writeBytes a bs).pkgDrained = s.pkgDrained := rfl
@[simp] theorem State.writeBytes_slots (a : Nat) (bs : List Byte) : (s.writeBytes a bs).slots = s.slots := rfl
@[simp] theorem State.writeBytes_jobs (a : Nat) (bs : List Byte) : (s.writeBytes a bs).jobs = s.jobs := rfl
@[simp] theorem State.writeBytes_nextJob (a : Nat) (bs : List Byte) : (s.writeBytes a bs).nextJob = s.nextJob := rfl
@[simp] theorem State.writeBytes_engCredit (a : Nat) (bs : List Byte) : (s.writeBytes a bs).engCredit = s.engCredit := rfl
@[simp] theorem State.writeBytes_tiles (a : Nat) (bs : List Byte) : (s.writeBytes a bs).tiles = s.tiles := rfl
@[simp] theorem State.writeBytes_bars (a : Nat) (bs : List Byte) : (s.writeBytes a bs).bars = s.bars := rfl
@[simp] theorem State.writeBytes_gangs (a : Nat) (bs : List Byte) : (s.writeBytes a bs).gangs = s.gangs := rfl
@[simp] theorem State.writeBytes_chans (a : Nat) (bs : List Byte) : (s.writeBytes a bs).chans = s.chans := rfl
@[simp] theorem State.writeBytes_dies (a : Nat) (bs : List Byte) : (s.writeBytes a bs).dies = s.dies := rfl
@[simp] theorem State.writeBytes_cps (a : Nat) (bs : List Byte) : (s.writeBytes a bs).cps = s.cps := rfl
@[simp] theorem State.writeBytes_slices (a : Nat) (bs : List Byte) : (s.writeBytes a bs).slices = s.slices := rfl
@[simp] theorem State.writeBytes_vfs (a : Nat) (bs : List Byte) : (s.writeBytes a bs).vfs = s.vfs := rfl
@[simp] theorem State.writeBytes_sltbase (a : Nat) (bs : List Byte) : (s.writeBytes a bs).sltbase = s.sltbase := rfl
@[simp] theorem State.writeBytes_regions (a : Nat) (bs : List Byte) : (s.writeBytes a bs).regions = s.regions := rfl
@[simp] theorem State.writeBytes_lineCtr (a : Nat) (bs : List Byte) : (s.writeBytes a bs).lineCtr = s.lineCtr := rfl
@[simp] theorem State.writeBytes_nodeCtr (a : Nat) (bs : List Byte) : (s.writeBytes a bs).nodeCtr = s.nodeCtr := rfl
@[simp] theorem State.writeBytes_macs (a : Nat) (bs : List Byte) : (s.writeBytes a bs).macs = s.macs := rfl
@[simp] theorem State.writeBytes_cmd (a : Nat) (bs : List Byte) : (s.writeBytes a bs).cmd = s.cmd := rfl
@[simp] theorem State.writeBytes_badNodes (a : Nat) (bs : List Byte) : (s.writeBytes a bs).badNodes = s.badNodes := rfl
@[simp] theorem State.writeBytes_recalls (a : Nat) (bs : List Byte) : (s.writeBytes a bs).recalls = s.recalls := rfl
@[simp] theorem State.writeBytes_exports (a : Nat) (bs : List Byte) : (s.writeBytes a bs).exports = s.exports := rfl
@[simp] theorem State.writeBytes_fab (a : Nat) (bs : List Byte) : (s.writeBytes a bs).fab = s.fab := rfl
@[simp] theorem State.writeBytes_sec (a : Nat) (bs : List Byte) : (s.writeBytes a bs).sec = s.sec := rfl
@[simp] theorem State.writeBytes_capped (a : Nat) (bs : List Byte) : (s.writeBytes a bs).capped = s.capped := rfl
@[simp] theorem State.writeBytes_arrivals (a : Nat) (bs : List Byte) : (s.writeBytes a bs).arrivals = s.arrivals := rfl
@[simp] theorem State.writeBytes_cur (a : Nat) (bs : List Byte) : (s.writeBytes a bs).cur = s.cur := rfl
@[simp] theorem State.writeBytes_issueQ (a : Nat) (bs : List Byte) : (s.writeBytes a bs).issueQ = s.issueQ := rfl
@[simp] theorem State.writeBytes_inbox (a : Nat) (bs : List Byte) : (s.writeBytes a bs).inbox = s.inbox := rfl
@[simp] theorem State.writeBytes_nextId (a : Nat) (bs : List Byte) : (s.writeBytes a bs).nextId = s.nextId := rfl
@[simp] theorem State.writeBytes_free (a : Nat) (bs : List Byte) : (s.writeBytes a bs).free = s.free := rfl

end Sys2Proof.Machine
end

