-- ==== Sys2Proof/WellFormed.lean ====
section
/-! DEFINITION. Well-formed instructions: those that pass every check of R73 the word alone decides (reasons 3, 4, 5, 7, 8).
The checks that depend on the group (PRIV, budgets, pairs) are made at issue. -/

namespace Sys2Proof

/-- The instruction passes reasons 3, 4, 5, 7 and 8 of R73 as far as its word decides them. -/
def wellFormed (i : Instr) : Bool := (Machine.staticReason i).isNone

end Sys2Proof
end

