-- ==== Sys2Proof/Tests/Slice0.lean ====
section
/-! SUPPORT. Tests: one ill-formed term per check, a word of every instruction, worked examples of the chapters, and states that meet the premises of
the statements. -/

namespace Sys2Proof.Tests

set_option Elab.async false

open Sys2Proof Sys2Proof.Machine

/-! ### Small states -/

/-- The issue of a path of 32 threads at the placed line, in group 0. -/
def tIss : Issue := { g := 0, lanes := 0xFFFFFFFF, pc := placedPc, first := false, second := false, other := 0x100 }

/-- A firmware group of 32 running threads. -/
def tGr : Group := { placedGroup with path := 0xFFFFFFFF }

/-- A state in which a group issues. -/
def tSt (gr : Group) : State := { State.reset.putGroup 0 gr with cur := some tIss }

/-- Does the instruction take effect there, in all 32 threads? -/
def ready (gr : Group) (i : Instr) : Bool :=
  match issuing i false (tSt gr) with
  | some (_, _, ps) => ps == List.range 32
  | none => false

/-- Lane `l` of group 0 after the instruction. -/
def after (gr : Group) (i : Instr) (l : Nat) : Option Lane :=
  match exec i (tSt gr) with
  | .next t => (t.group 0).map (fun g => g.lane l)
  | _ => none

/-- An unguarded instruction of format G with its fields, in the order of R53. -/
def tG (dst : BitVec 10) (a : BitVec 10) (b : BitVec 10) (c : BitVec 10) (md : BitVec 30) : FmtG :=
  { h := bareHdr dst, a := a, b := b, c := c, md := md }

/-- An unguarded instruction of format K with its fields, in the order of R53. -/
def tK (dst : BitVec 10) (a : BitVec 10) (b : BitVec 10) (imm : BitVec 32) (md : BitVec 8) : FmtK :=
  { h := bareHdr dst, a := a, b := b, imm := imm, md := md }

/-- An unguarded instruction of format M with its fields, in the order of R53. -/
def tM (dst : BitVec 10) (a : BitVec 10) (b : BitVec 10) (c : BitVec 10) (off : BitVec 20) (width : BitVec 4) (hint : BitVec 3) (scope : BitVec 3) : FmtM :=
  { h := bareHdr dst, a := a, b := b, c := c, off := off, width := width, hint := hint, scope := scope }

/-- An unguarded instruction of format J with its fields, in the order of R53. -/
def tJ (dst : BitVec 10) (off : BitVec 27) (tslot : BitVec 3) (md : BitVec 30) : FmtJ :=
  { h := bareHdr dst, off := off, tslot := tslot, md := md }

/-- An unguarded instruction of format X with its fields, in the order of R53. -/
def tX (dst : BitVec 10) (slota : BitVec 6) (slotb : BitVec 6) (acc : BitVec 8) (c : BitVec 10) (etype : BitVec 5) (gsz : BitVec 2)
    (rnd : BitVec 2) (ovf : BitVec 2) (outt : BitVec 5) (xflg : BitVec 14) : FmtX :=
  { h := bareHdr dst, slota := slota, slotb := slotb, acc := acc, c := c, etype := etype, gsz := gsz, rnd := rnd, ovf := ovf, outt := outt, xflg := xflg }

/-- An unguarded instruction of format E with its fields, in the order of R53. -/
def tE (dst : BitVec 10) (a : BitVec 10) (b : BitVec 10) (c : BitVec 10) (soff : BitVec 18)
    (width : BitVec 4) (dims : BitVec 3) (bt : BitVec 1) (eflg : BitVec 4) : FmtE :=
  { h := bareHdr dst, a := a, b := b, c := c, soff := soff, width := width, dims := dims, bt := bt, eflg := eflg }

/-- An unguarded instruction of format S with its fields, in the order of R53. -/
def tS (dst : BitVec 10) (a : BitVec 10) (b : BitVec 10) (imm : BitVec 16) (sub : BitVec 4) (pad : BitVec 20) : FmtS :=
  { h := bareHdr dst, a := a, b := b, imm := imm, sub := sub, pad := pad }

def tInstrsInteger : List Instr := [
  .add (tG 0x004 1 2 0x210 0x16000000),
  .addK (tK 0x104 0x210 0x210 1 0x58),
  .sub (tG 0x104 0x210 0x210 0x210 0x18000000),
  .addc (tG 0x104 0x108 0x210 0x210 0x18000000),
  .subb (tG 0x104 0x108 0x210 8 0x18000000),
  .mul (tG 0x004 0x300 8 0x210 0x14000000),
  .mulK (tK 0x104 0x108 0x210 1 0x38),
  .mulh (tG 0x004 0x210 0x110 0x210 0x1A000000),
  .mad (tG 0x104 0x210 0x210 0x301 0x12000000),
  .madh (tG 0x104 0x10 8 8 0x1A000000),
  .div (tG 0x004 0x210 0x301 0x210 0x16000000),
  .rem (tG 0x004 0x110 0x301 0x210 0x1A000000),
  .min (tG 0x104 0x108 8 0x210 0x1C000000),
  .max (tG 0x104 8 0x301 0x210 0x16000000),
  .abs (tG 0x104 0x300 0x210 0x210 0x12000000),
  .neg (tG 0x104 0x301 0x210 0x210 0x14000000),
  .clamp (tG 0x004 0x301 0x10 0x301 0x12000000),
  .and (tG 0x104 0x210 0x210 0x210 0x4000000),
  .andK (tK 0x104 8 0x210 0 0x10),
  .or (tG 0x004 0x10 0x10 0x210 0x6000000),
  .orK (tK 0x004 8 0x210 0 0x18),
  .xor (tG 0x004 0x301 0x301 0x210 0x4000000),
  .xorK (tK 0x104 8 0x210 1 0x18),
  .andn (tG 0x104 8 0x10 0x210 0x6000000),
  .shl (tG 0x004 0x210 0x108 0x210 0x6000000),
  .shr (tG 0x004 0x301 8 0x210 0x4000000),
  .sra (tG 0x104 0x210 0x10 0x210 0x4000000),
  .rot (tG 0x104 0x300 0x110 0x210 0x4000000),
  .bfe (tG 0x104 8 0x210 0x301 0x1C000000),
  .bfi (tG 0x104 0x210 0x300 0x10 0x6000000),
  .popc (tG 0x004 0x110 0x210 0x210 0x6000000),
  .clz (tG 0x104 0x108 0x210 0x210 0x4000000),
  .ctz (tG 0x104 8 0x210 0x210 0x4000000),
  .brev (tG 0x004 0x10 0x210 0x210 0x6000000),
  .cmp (tG 0x104 8 0x301 0x210 0xE000000)]

/-- The words of these instructions, laid out by R52, R53 and the opcodes of the chapter. -/
theorem test_decode_integer : [
  0x005FF0004004028416000000,
  0x009FF0104842100000000158,
  0x00DFF0104842108418000000,
  0x011FF0104422108418000000,
  0x015FF0104422100218000000,
  0x019FF0004C00088414000000,
  0x01DFF0104422100000000138,
  0x021FF000484110841A000000,
  0x025FF010484210C052000000,
  0x029FF010404008021A000000,
  0x02DFF0004843018416000000,
  0x031FF000444301841A000000,
  0x035FF010442008841C000000,
  0x039FF0104023018416000000,
  0x03DFF0104C02108412000000,
  0x041FF0104C06108414000000,
  0x045FF0004C0410C052000000,
  0x061FF0104842108404000000,
  0x065FF0104022100000000010,
  0x069FF0004040108406000000,
  0x06DFF0004022100000000018,
  0x071FF0004C07018404000000,
  0x075FF0104022100000000118,
  0x079FF0104020108406000000,
  0x081FF0004841088406000000,
  0x085FF0004C04088404000000,
  0x089FF0104840108404000000,
  0x08DFF0104C01108404000000,
  0x091FF010402210C05C000000,
  0x095FF0104843000406000000,
  0x099FF0004442108406000000,
  0x09DFF0104422108404000000,
  0x0A1FF0104022108404000000,
  0x0A5FF0004042108406000000,
  0x0B1FF010402301840E000000].map decode = tInstrsInteger.map .ok := by rfl

def tInstrsLane : List Instr := [
  .sel (tG 0x004 0x301 0x108 0x10 0x8000000),
  .mov (tG 0x104 8 0x210 0x210 0x6000000),
  .movk (tK 0x007 0x210 0x210 0x3F800000 0x10),
  .lea (tG 0x104 0x10 0x108 0x210 0x1C000000),
  .leaK (tK 0x104 0x108 0x210 0 0x58),
  .vbc (tG 0x004 0x210 0x108 0x210 0x4000000),
  .rdlane (tG 0x104 0x110 0x210 0x210 0x4000000),
  .wrlane (tG 0x004 0x300 0x210 0x210 0x4000000),
  .shfl (tG 0x104 0x210 0x210 0x210 0x4000002),
  .lsh (tG 0x004 8 0x110 0x301 0x4000000),
  .vote (tG 0x004 8 0x210 0x210 0x4000000),
  .lred (tG 0x104 0x210 0x210 0x210 0x16000000),
  .lscan (tG 0x004 0x10 0x210 0x210 0x16000000),
  .addmin (tG 0x104 0x108 0x301 0x210 0x18000001),
  .addmax (tG 0x004 8 0x108 0x110 0x12000000),
  .dp4 (tG 0x004 0x300 0x110 0x210 0xC000000)]

/-- The words of these instructions, laid out by R52, R53 and the opcodes of the chapter. -/
theorem test_decode_lane : [
  0x0C1FF0004C05080408000000,
  0x0C5FF0104022108406000000,
  0x0C9FF0007842103F80000010,
  0x0CDFF010404108841C000000,
  0x0D1FF0104422100000000058,
  0x101FF0004841088404000000,
  0x105FF0104442108404000000,
  0x109FF0004C02108404000000,
  0x10DFF0104842108404000002,
  0x111FF000402110C044000000,
  0x115FF0004022108404000000,
  0x119FF0104842108416000000,
  0x11DFF0004042108416000000,
  0x141FF0104423018418000001,
  0x145FF0004021084412000000,
  0x149FF0004C0110840C000000].map decode = tInstrsLane.map .ok := by rfl

def tInstrsFloat : List Instr := [
  .fadd (tG 0x104 8 0x10 0x210 0x28000000),
  .faddK (tK 0x104 0x301 0x210 0 0xA0),
  .fsub (tG 0x004 0x300 8 0x210 0x28000000),
  .fmul (tG 0x104 0x10 0x301 0x210 0x28000000),
  .fmulK (tK 0x004 0x210 0x210 0 0xA0),
  .ffma (tG 0x104 0x110 0x210 0x300 0x28000000),
  .fmin (tG 0x104 0x10 0x110 0x210 0x28000000),
  .fmax (tG 0x004 0x210 0x108 0x210 0x28000000),
  .fcmp (tG 0x004 0x108 0x300 0x210 0x28000038),
  .fclass (tG 0x004 0x300 0x210 0x210 0x22000000),
  .frnd (tG 0x104 0x210 0x210 0x210 0x28000000),
  .fscale (tG 0x104 0x10 8 0x210 0x28000000),
  .frcp (tG 0x004 0x210 0x210 0x210 0x28000000),
  .frsq (tG 0x104 8 0x210 0x210 0x28000000),
  .fsqrt (tG 0x004 8 0x210 0x210 0x28000000),
  .fex2 (tG 0x104 0x210 0x210 0x210 0x28000000),
  .flg2 (tG 0x004 8 0x210 0x210 0x28000000),
  .fsin (tG 0x004 8 0x210 0x210 0x28000000),
  .fcos (tG 0x104 0x301 0x210 0x210 0x28000000),
  .ftanh (tG 0x004 8 0x210 0x210 0x28000000),
  .fsigm (tG 0x004 0x300 0x210 0x210 0x28000000),
  .hadd2 (tG 0x004 0x110 0x210 0x210 0x2C000000),
  .hmul2 (tG 0x004 8 0x108 0x210 0x2A000000),
  .hfma2 (tG 0x004 0x210 0x210 0x110 0x2C000000),
  .hmax2 (tG 0x004 8 0x301 0x210 0x2C000000),
  .dp2 (tG 0x104 0x10 0x210 0x10 0x2C000000),
  .cvt (tG 0x004 0x300 0x210 0x210 0x14000010),
  .pack (tG 0x004 0x10 0x110 0x210 0x20000000),
  .unpack (tG 0x004 8 0x210 0x210 0x24000000)]

/-- The words of these instructions, laid out by R52, R53 and the opcodes of the chapter. -/
theorem test_decode_float : [
  0x201FF0104020108428000000,
  0x205FF0104C061000000000A0,
  0x209FF0004C00088428000000,
  0x20DFF0104043018428000000,
  0x211FF00048421000000000A0,
  0x215FF010444210C028000000,
  0x219FF0104041108428000000,
  0x21DFF0004841088428000000,
  0x221FF0004423008428000038,
  0x225FF0004C02108422000000,
  0x229FF0104842108428000000,
  0x22DFF0104040088428000000,
  0x241FF0004842108428000000,
  0x245FF0104022108428000000,
  0x249FF0004022108428000000,
  0x24DFF0104842108428000000,
  0x251FF0004022108428000000,
  0x255FF0004022108428000000,
  0x259FF0104C06108428000000,
  0x25DFF0004022108428000000,
  0x261FF0004C02108428000000,
  0x281FF000444210842C000000,
  0x285FF000402108842A000000,
  0x289FF000484210442C000000,
  0x28DFF000402301842C000000,
  0x291FF010404210042C000000,
  0x301FF0004C02108414000010,
  0x305FF0004041108420000000,
  0x309FF0004022108424000000].map decode = tInstrsFloat.map .ok := by rfl

def tInstrsControl : List Instr := [
  .nop (tG 0x210 0x210 0x210 0x210 0),
  .bra (tJ 0x210 0 0 0),
  .brx (tG 0x210 0x110 0x210 0x210 0),
  .dbra (tJ 0x104 0 0 0),
  .call (tJ 0x210 0 0 0),
  .callx (tG 0x210 0x108 0x210 0x210 0),
  .ret (tG 0x210 0x210 0x210 0x210 0),
  .rgn (tJ 0x210 0 0 0),
  .join (tG 0x210 0x210 0x210 0x210 0x20),
  .brk (tG 0x210 0x210 0x210 0x210 1),
  .exit (tG 0x210 0x210 0x210 0x210 0),
  .yield (tG 0x210 0x210 0x210 0x210 0),
  .trap (tG 0x210 0x210 0x210 0x210 0),
  .bkpt (tG 0x210 0x210 0x210 0x210 0)]

/-- The words of these instructions, laid out by R52, R53 and the opcodes of the chapter. -/
theorem test_decode_control : [
  0x401FF0210842108400000000,
  0x405FF0210000000000000000,
  0x409FF0210442108400000000,
  0x40DFF0104000000000000000,
  0x411FF0210000000000000000,
  0x415FF0210422108400000000,
  0x419FF0210842108400000000,
  0x41DFF0210000000000000000,
  0x421FF0210842108400000020,
  0x425FF0210842108400000001,
  0x429FF0210842108400000000,
  0x42DFF0210842108400000000,
  0x431FF0210842108400000000,
  0x435FF0210842108400000000].map decode = tInstrsControl.map .ok := by rfl

def tInstrsMemory : List Instr := [
  .ld (tM 0x004 8 0x210 8 0 2 0 0),
  .st (tM 0x004 8 0x108 0x210 0 1 0 0),
  .sld (tM 0x104 0x108 0x210 8 0 0 0 0),
  .sst (tM 0x104 0x110 0x210 0x110 0 1 0 0),
  .pref (tM 0x210 8 0x210 0x210 0 0 0 0),
  .atomAdd (tM 0x004 0x110 0x10 0x210 0 3 0 0),
  .atomMin (tM 0x004 0x110 0x210 0x108 0 3 0 0),
  .atomMax (tM 0x004 8 0x210 0x210 0 2 0 0),
  .atomAnd (tM 0x004 8 0x10 0x110 0 3 0 0),
  .atomOr (tM 0x004 0x108 0x300 8 0 2 0 0),
  .atomXor (tM 0x004 8 0x108 8 0 3 0 0),
  .atomExch (tM 0x004 8 0x10 8 0 2 0 0),
  .atomCas (tM 0x004 8 0x110 0x210 0 3 0 0),
  .redAdd (tM 0x004 8 0x301 0x210 0 3 0 0),
  .redMin (tM 0x004 0x110 0x108 0x108 0 2 0 0),
  .redMax (tM 0x004 0x108 0x300 0x10 0 3 0 0),
  .redAnd (tM 0x004 0x110 0x108 0x210 0 3 0 0),
  .redOr (tM 0x004 8 8 0x108 0 2 0 0),
  .redXor (tM 0x004 0x108 0x10 0x10 0 3 0 0),
  .wjoin (tM 0x104 0x108 8 0x210 0 0 0 0),
  .wjoinr (tM 0x104 0x10 0x210 0x210 0 0 0 0),
  .wtest (tM 0x004 0x110 0x210 0x210 0 0 0 0),
  .wwait (tM 0x004 8 0x210 0x210 0 0 0 0),
  .wcanc (tM 0x104 0x110 0x210 0x210 0 0 0 0),
  .wscop (tM 0x104 0x110 0x210 0x210 0 0 0 0)]

/-- The words of these instructions, laid out by R52, R53 and the opcodes of the chapter. -/
theorem test_decode_memory : [
  0x501FF0004022100200000080,
  0x505FF0004021088400000040,
  0x509FF0104422100200000000,
  0x50DFF0104442104400000040,
  0x511FF0210022108400000000,
  0x521FF00044401084000000C0,
  0x525FF00044421042000000C0,
  0x529FF0004022108400000080,
  0x52DFF00040201044000000C0,
  0x531FF0004423000200000080,
  0x535FF00040210802000000C0,
  0x539FF0004020100200000080,
  0x53DFF00040211084000000C0,
  0x561FF00040230184000000C0,
  0x565FF0004441084200000080,
  0x569FF00044230004000000C0,
  0x56DFF00044410884000000C0,
  0x571FF0004020084200000080,
  0x575FF00044201004000000C0,
  0x5C1FF0104420088400000000,
  0x5C5FF0104042108400000000,
  0x5C9FF0004442108400000000,
  0x5CDFF0004022108400000000,
  0x5D1FF0104442108400000000,
  0x5D5FF0104442108400000000].map decode = tInstrsMemory.map .ok := by rfl

def tInstrsSystem : List Instr := [
  .rdcr (tS 0x104 0x210 0x210 8 0 0),
  .wrcr (tS 0x210 8 0x210 1 0 0),
  .rdflt (tS 0x004 0x210 0x210 0 0 0),
  .rte (tS 0x210 0x10 0x210 0 0 0),
  .sys (tS 0x104 0x108 0x210 0 0 0)]

/-- The words of these instructions, laid out by R52, R53 and the opcodes of the chapter. -/
theorem test_decode_system : [
  0x701FF0104842100008000000,
  0x705FF0210022100001000000,
  0x709FF0004842100000000000,
  0x70DFF0210042100000000000,
  0x711FF0104422100000000000].map decode = tInstrsSystem.map .ok := by rfl

def tInstrsStream : List Instr := [
  .strm (tE 0x210 0x110 0x108 0x210 0 2 0 0 0),
  .strmx (tE 0x210 0x210 0x210 0x210 0 0 0 0 0),
  .oqst (tE 0x104 0x210 0x210 0x210 0 0 0 0 1)]

/-- The words of these instructions, laid out by R52, R53 and the opcodes of the chapter. -/
theorem test_decode_stream : [
  0x781FF0210441088400000200,
  0x785FF0210842108400000000,
  0x789FF0104842108400000001].map decode = tInstrsStream.map .ok := by rfl

def tInstrsScratch : List Instr := [
  .lds (tE 0x004 8 0x210 0x210 0 1 0 0 0),
  .sts (tE 0x004 8 8 8 0 3 0 0 0),
  .pres (tE 0x004 0x108 0x210 0x210 0 0 0 0 0),
  .fmask (tE 0x004 0x110 0x210 0x210 0 0 0 0 0),
  .atomsAdd (tE 0x004 8 8 0x10 0 3 0 0 1),
  .atomsMin (tE 0x004 0x108 0x210 0x108 0 3 0 0 0),
  .atomsMax (tE 0x004 8 0x301 0x10 0 2 0 0 1),
  .atomsAnd (tE 0x004 8 8 0x110 0 2 0 0 0),
  .atomsOr (tE 0x004 0x108 0x210 8 0 3 0 0 0),
  .atomsXor (tE 0x004 0x108 0x210 8 0 2 0 0 1),
  .atomsExch (tE 0x004 0x108 0x108 0x210 0 3 0 0 0),
  .atomsCas (tE 0x004 0x108 0x10 0x108 0 3 0 0 0),
  .cpy (tE 0x10A 0x104 0x106 0x210 0x100 2 1 0 0),
  .cpyo (tE 0x104 0x108 0x108 0x108 0 4 0 0 1),
  .cpyg (tE 0x104 0x110 0x108 0x210 0 0 0 0 1)]

/-- The words of these instructions, laid out by R52, R53 and the opcodes of the chapter. -/
theorem test_decode_scratch : [
  0x7C1FF0004022108400000100,
  0x7C5FF0004020080200000300,
  0x7C9FF0004422108400000000,
  0x7CDFF0004442108400000000,
  0x7E1FF0004020080400000301,
  0x7E5FF0004422104200000300,
  0x7E9FF0004023010400000201,
  0x7EDFF0004020084400000200,
  0x7F1FF0004422100200000300,
  0x7F5FF0004422100200000201,
  0x7F9FF0004421088400000300,
  0x7FDFF0004420104200000300,
  0x801FF010A411068400100220,
  0x805FF0104421084200000401,
  0x809FF0104441088400000001].map decode = tInstrsScratch.map .ok := by rfl

def tInstrsMatrix : List Instr := [
  .gang (tX 0x210 0 0 0 0x104 0 0 0 0 0 0),
  .oclm (tX 0x210 0 0 0 0x210 0 0 0 0 0 0),
  .orel (tX 0x210 2 0 0 0x210 0 0 0 0 0 0),
  .old (tX 0x210 0 0 0 0x110 0 0 0 0 0 1),
  .mma (tX 0x210 0 1 0 0x210 5 2 0 0 0 0x200),
  .mzero (tX 0x210 0 0 2 0x210 0 0 0 0 0 0),
  .scacc (tX 0x210 0 0 0 0x210 6 1 0 0 0 0),
  .mdrain (tX 0x104 0 0 0 0x210 0 0 0 0 0xB 0x40),
  .mrd (tX 0x004 0 0 1 0x210 0 0 0 0 0 5)]

/-- The words of these instructions, laid out by R52, R53 and the opcodes of the chapter. -/
theorem test_decode_matrix : [
  0x841FF0210000004100000000,
  0x845FF0210000008400000000,
  0x849FF0210080008400000000,
  0x84DFF0210000004400000001,
  0x861FF021000100840B000200,
  0x865FF0210000028400000000,
  0x869FF021000000840C800000,
  0x86DFF010400000840002C040,
  0x871FF0004000018400000005].map decode = tInstrsMatrix.map .ok := by rfl

def tInstrsBarrier : List Instr := [
  .bini (tS 0x210 0x104 0x210 3 0 0),
  .barr (tS 0x104 0x210 0x210 0 0 0),
  .bwait (tS 0x004 0x10 0x210 0 0 0),
  .barw (tS 0x210 0x108 0x210 0 0 0),
  .binv (tS 0x210 0x210 0x210 3 1 0),
  .bqry (tS 0x004 0x210 0x210 3 2 0)]

/-- The words of these instructions, laid out by R52, R53 and the opcodes of the chapter. -/
theorem test_decode_barrier : [
  0x901FF0210412100003000000,
  0x905FF0104842100000000000,
  0x909FF0004042100000000000,
  0x90DFF0210422100000000000,
  0x911FF0210842100003100000,
  0x915FF0004842100003200000].map decode = tInstrsBarrier.map .ok := by rfl

def tInstrsPrivileged : List Instr := [
  .halt (tS 0x104 0x210 0x210 0 0 0),
  .tlbi (tS 0x210 0x110 0x108 0 2 0),
  .ldio (tS 0x104 0x110 0x210 0 0 0),
  .stio (tS 0x210 0x108 0x110 0 0 0),
  .mbxw (tS 0x104 0x110 0x210 3 0 0),
  .engx (tS 0x104 0x108 0x210 0 0 0)]

/-- The words of these instructions, laid out by R52, R53 and the opcodes of the chapter. -/
theorem test_decode_privileged : [
  0x941FF0104842100000000000,
  0x945FF0210441080000200000,
  0x949FF0104442100000000000,
  0x94DFF0210421100000000000,
  0x951FF0104442100003000000,
  0x955FF0104422100000000000].map decode = tInstrsPrivileged.map .ok := by rfl

/-! ### The instructions take effect

The premise `issuing` that the statements about instructions share holds for every instruction of a program in one small state: this is the witness of
IntegerArithmetic, BitwiseOperations, CompareSelectMove, LaneInstructions, FloatOperations, FaultRecords and of every clause with no further premise. -/

/-- Every instruction of a list takes effect in the small state. -/
def allReady (is : List Instr) : Bool := is.all (fun i => wellFormed i && ready tGr i)

theorem test_ready_integer : allReady tInstrsInteger = true := by decide +kernel
theorem test_ready_lane : allReady tInstrsLane = true := by decide +kernel
theorem test_ready_float : allReady tInstrsFloat = true := by decide +kernel
theorem test_ready_control : allReady tInstrsControl = true := by decide +kernel
theorem test_ready_memory : allReady tInstrsMemory = true := by decide +kernel
theorem test_ready_system : allReady tInstrsSystem = true := by decide +kernel
theorem test_ready_stream : allReady tInstrsStream = true := by decide +kernel
theorem test_ready_scratch : allReady tInstrsScratch = true := by decide +kernel
theorem test_ready_matrix : allReady tInstrsMatrix = true := by decide +kernel
theorem test_ready_barrier : allReady tInstrsBarrier = true := by decide +kernel
theorem test_ready_privileged : allReady tInstrsPrivileged = true := by decide +kernel

/-! ### One ill-formed term per check of R73 -/

theorem test_wellFormed : wellFormed (.add (tG 4 1 2 0x210 0x16000000)) = true := by decide
theorem test_illFormed_guard :
    staticReason (.add { tG 4 1 2 0x210 0x16000000 with h := { bareHdr 4 with greg := 400 } }) = some 3 ∧
    wellFormed (.add { tG 4 1 2 0x210 0x16000000 with h := { bareHdr 4 with greg := 400 } }) = false := by decide
/-- Type code 0x0F is none of R60's. -/
theorem test_illFormed_field : staticReason (.add (tG 4 1 2 0x210 0x1E000000)) = some 4 ∧
    wellFormed (.add (tG 4 1 2 0x210 0x1E000000)) = false := by decide
/-- A destination of 0x210 where there is one (R65). -/
theorem test_illFormed_class : staticReason (.add (tG 0x210 1 2 0x210 0x16000000)) = some 5 ∧
    wellFormed (.add (tG 0x210 1 2 0x210 0x16000000)) = false := by decide
/-- An odd pair base (R23). -/
theorem test_illFormed_align : staticReason (.add (tG 5 2 4 0x210 0x1A000000)) = some 7 ∧
    wellFormed (.add (tG 5 2 4 0x210 0x1A000000)) = false := by decide
/-- 127 is no exact .e5m2 value (R64). -/
theorem test_illFormed_imm : staticReason (.cvt (tG 4 0x37F 0x210 0x210 0x28000011)) = some 8 ∧
    wellFormed (.cvt (tG 4 0x37F 0x210 0x210 0x28000011)) = false := by decide
/-- A register above the budget (R22), in a group of 8 vector registers. -/
theorem test_budget : failedCheck tIss { tGr with vgran := 1 } (.add (tG 8 1 2 0x210 0x16000000)) = some 6 := by decide
/-- WBS outside a pair (R67). -/
theorem test_wbs : failedCheck tIss tGr (.add { tG 8 1 2 0x210 0x16000000 with h := { bareHdr 8 with wbs := 1 } }) = some 9 := by decide
/-- A privileged instruction outside privileged mode (R73, R275). -/
theorem test_priv : failedCheck tIss { tGr with priv := false } (.halt (tS 4 0x210 0x210 0 0 0)) = some 2 := by decide

/-! ### Worked examples -/

/-- A group whose threads hold the listed vector registers. -/
def tV (rs : Store W32) : Group := { tGr with lanes := List.replicate 32 { run := .running, pc := placedPc, v := rs } }

/-- What lane 3 holds in register `r` afterwards. -/
def reg (gr : Group) (i : Instr) (r : Nat) : Option W32 := (after gr i 3).map (fun l => l.rd r)

/-- Chapter 04: add wraps. -/
theorem test_add : reg (tV [(1, 0xFFFFFFFF), (2, 3)]) (.add (tG 4 1 2 0x210 0x16000000)) 4 = some 2 := by decide +kernel
/-- Chapter 04, after R125. -/
theorem test_mulh : reg (tV [(1, 0xFFFFFFFF), (2, 0xFFFFFFFF)]) (.mulh (tG 4 1 2 0x210 0x18000000)) 4 = some 0xFFFFFFFE := by decide +kernel
theorem test_madh : reg (tV [(1, 0xFFFFFFFF), (2, 0xFFFFFFFF), (3, 0xFFFFFFFF)]) (.madh (tG 4 1 2 3 0x18000000)) 4 = some 0xFFFFFFFF := by
  decide +kernel
/-- Chapter 04, the 64-bit sum of the worked example: first and second step. -/
theorem test_addc_low : (reg (tV [(0, 1), (2, 0xFFFFFFFF)]) (.addc (tG 4 0 2 0x210 0x18000000)) 4,
    reg (tV [(0, 1), (2, 0xFFFFFFFF)]) (.addc (tG 4 0 2 0x210 0x18000000)) 5) = (some 0, some 1) := by decide +kernel
theorem test_addc_high : (reg (tV [(1, 0xFFFFFFFF), (3, 1), (5, 1)]) (.addc (tG 6 1 3 5 0x18000000)) 6,
    reg (tV [(1, 0xFFFFFFFF), (3, 1), (5, 1)]) (.addc (tG 6 1 3 5 0x18000000)) 7) = (some 1, some 1) := by decide +kernel
/-- Chapter 04, dp4.i8. -/
theorem test_dp4 : reg (tV [(1, 0x7F80FF01), (2, 0x7F800101), (3, 10)]) (.dp4 (tG 4 1 2 3 0x0E000000)) 4 = some 0x7F0B := by decide +kernel
/-- Chapter 04, movk of 1.0. -/
theorem test_movk : reg (tV []) (.movk (tK 7 0x210 0x210 0x3F800000 0x10)) 7 = some 0x3F800000 := by decide +kernel
/-- Chapter 09's program: a zero divisor parks with INTDIV at the div. -/
theorem test_div_zero : (after (tV [(1, 12)]) (.div (tG 4 1 2 0x210 0x16000000)) 5).map (fun l => (l.run, l.flt.code, l.flt.lane, l.flt.pc, l.flt.resume)) =
    some (.parked, 0x09, 5, placedPc, placedPc) := by decide +kernel
/-- Chapter 05, fmin and fmax of a number and a quiet NaN. -/
theorem test_fmin_nan : reg (tV [(1, 0x3F800000), (2, 0x7FC00001)]) (.fmin (tG 4 1 2 0x210 0x28000000)) 4 = some 0x3F800000 := by decide +kernel
theorem test_fmin_zero : reg (tV [(1, 0x80000000), (2, 0)]) (.fmin (tG 4 1 2 0x210 0x28000000)) 4 = some 0x80000000 := by decide +kernel
/-- 1 + 1 = 2. -/
theorem test_fadd : reg (tV [(1, 0x3F800000), (2, 0x3F800000)]) (.fadd (tG 4 1 2 0x210 0x28000000)) 4 = some 0x40000000 := by decide +kernel
/-- R198: trap parks with SYSCALL and its fault PC is Next(PC). -/
theorem test_trap : (after tGr (.trap (tG 0x210 0x210 0x210 0x210 0x41)) 0).map (fun l => (l.run, l.flt.code, l.flt.pc)) =
    some (.parked, 0x61, nextPc placedPc) := by decide +kernel
/-- R196. -/
theorem test_exit : (after tGr (.exit (tG 0x210 0x210 0x210 0x210 0)) 7).map (fun l => l.run) = some .exited := by decide +kernel
/-- Chapter 07: the witness of store A. -/
theorem test_witness : mkWit 1 5 3 0x037 0x12345 = 0x6986E00000012345 := by decide
/-- Chapter 10: STATUS of the launch with BPC 6 and LIMIT scratchpad. -/
theorem test_status : launchStatus 6 2 0 2 = 0x00062002 := by decide
/-- Chapter 02: the line of five nops. -/
theorem test_nops : asmLine (List.replicate 5 nopWord) [{ i := nopInstr 0, tgt := true }] = BitVec.ofNat 512 (0xD8080000 * 2 ^ 480 +
    ((List.range 5).map (fun k => 0x401FF0210842108400000000 * 2 ^ (96 * k))).sum) := by decide +kernel

/-- Chapter 02: the source of the kernel `scale2`. -/
def scale2 : List SrcItem := [.vregs 12, .sregs 8, .divdepth 2, .scratch 4096, .trapvec 1, .label 0,
  .instr (.ld (tM 0x004 0x100 0x210 0x210 0 2 0 0)) false none,
  .instr (.fmul { tG 5 4 0x302 0x210 0x28000000 with h := { bareHdr 5 with wbs := 1 } }) false none,
  .instr (.fadd (tG 6 0x200 0x301 0x210 0x28000000)) true none,
  .instr (.st (tM 0x008 0x100 0x006 0x210 4 2 0 0)) false none,
  .instr (.exit (tG 0x210 0x210 0x210 0x210 0)) false none,
  .label 1, .instr (.exit (tG 0x210 0x210 0x210 0x210 0)) false none]

/-- `n` bytes of the image of `scale2` from an offset, as a number. -/
def scale2At (a n : Nat) : Option Nat :=
  match assemble scale2 with
  | .ok bs => some (leNat ((bs.drop a).take n))
  | .error _ => none

theorem test_scale2_header : [scale2At 0 4, scale2At 8 1, scale2At 9 1, scale2At 10 1, scale2At 11 1, scale2At 0x10 4, scale2At 0x14 2, scale2At 0x16 2,
    scale2At 0x20 8, scale2At 0x28 8] = [some 0x4F4C4B31, some 2, some 1, some 2, some 3, some 0x1000, some 0xFFFF, some 0, some 0x140, some 0x100] := by
  decide +kernel
/-- Its line words: TGT 0b00001 and PAIR 0b0010, then TGT 0b00001. -/
theorem test_scale2_lines : ((scale2At 0x13C 4).map (· % 2 ^ 24), (scale2At 0x17C 4).map (· % 2 ^ 24), scale2At 0x17C 5 == scale2At 0x17C 4) =
    (some (0x080000 + 0x010000), some 0x080000, true) := by decide +kernel

/-! ### States that meet the premises of the statements -/

/-- In the state the instruction takes effect, and `p` holds. -/
def meets (i : Instr) (once : Bool) (s : State) (p : State → Issue → Group → List Nat → Bool) : Bool :=
  match issuing i once s with
  | some (iss, gr, ps) => ps != [] && p s iss gr ps
  | none => false

/-- A state that holds `w` in slot 0 of the placed line, with nops behind it, and in which the group issues. -/
def tPl (w : W96) (gr : Group) : State := { ((State.reset.place w).putGroup 0 gr) with issueQ := [], cur := some tIss }

/-- A block of the small group, with a share of core 48: scratchpad lines 0 and 1 written, accumulator units 1 and 4 to 7 planes, unit 2 scaled. -/
def tSh : Share :=
  { core := 48, lines := [(0, { w := true, pend := 0 }), (1, { w := true, pend := 0 })],
    acc := [(1, { tag := .P }), (2, { tag := .S }), (3, { tag := .Shi })] ++ [4, 5, 6, 7].map (fun u => (u, { tag := .P })) }

def tBlk : Block :=
  { launch := none, blockid := 0, slice := 16, vf := 511, ngroups := 4, bthreads := 128, vgran := 32, sgran := 16, divd := 64, scratch := 65536,
    producer := 0, quota := 1, accu := 2, partw := 0, trapvec := 0, entry := 0, args := 0, foot := [], shares := [tSh], placed := true, failed := false,
    done := false, fltmasks := [], records := [], inGourd := false }

/-- A state with the block, in which it holds tile slots 0 to 2. -/
def tBk (gr : Group) : State :=
  { tSt gr with blocks := [(0, tBlk)], tiles := (List.range 3).map (fun k => (tileKey 48 k, { blk := 0, data := [] })) }

/-- Every one of the listed conditions holds. -/
def allOf (bs : List Bool) : Bool := bs.all id

/-- The state meets the premise, and the event happens there. -/
def goes (e : Instr) (s : State) (p : State → Bool) : Bool :=
  p s && match exec e s with
    | .next _ => true
    | _ => false

/-- A state in which slice 0 runs on cluster 0, with physical addresses from 0. -/
def tSl (gr : Group) : State := { tSt gr with slices := [(0, { st := .running, clusters := 1 })] }

/-- The block of the small group in that state, which holds tile slots 0 to 2. -/
def tBs (gr : Group) : State := { tBk gr with slices := [(0, { st := .running, clusters := 1 })] }

/-- A state in which the path is thread 0 alone. -/
def tOne (s : State) : State := { s with cur := some { tIss with lanes := 1 } }

theorem witness_Division :
    meets (.div (tG 4 1 2 0x210 0x16000000)) false (tSt (tV [(2, 7)])) (fun _ _ gr ps => ps.all (fun l => intB (tG 4 1 2 0x210 0x16000000) gr l != 0)) = true ∧
    meets (.rem (tG 4 1 2 0x210 0x16000001)) false (tSt tGr) (fun _ _ gr ps => ps.all (fun l => intB (tG 4 1 2 0x210 0x16000001) gr l == 0)) = true ∧
    perBit0 (tG 4 1 2 0x210 0x16000001) = true ∧ perBit0 (tG 4 1 2 0x210 0x16000000) = false ∧
    meets (.div (tG 4 1 2 0x210 0x16000000)) false (tSt tGr) (fun _ _ gr ps => ps.all (fun l => intB (tG 4 1 2 0x210 0x16000000) gr l == 0)) = true := by
  decide +kernel

/-- For the statements that ask only that the instruction take effect, and for the others of one shape with these: test_ready_… -/
theorem witness_LaneInstructions : meets (.wrlane (tG 4 0x104 0x105 0x210 0x04000000)) true (tSt tGr) (fun _ _ gr ps =>
    decide ((gr.src32 (ps.headD 0) 0x105).toNat % 32 < gr.lanes.length)) = true := by decide +kernel

theorem witness_FloatOperations : meets (.fadd (tG 4 1 2 0x210 0x28000000)) false (tSt (tV [(1, 0x3F800000)])) (fun _ _ gr ps => ps.all (fun l =>
    (Ty.f32.fadd .rne (fA (tG 4 1 2 0x210 0x28000000) gr l) (fB (tG 4 1 2 0x210 0x28000000) gr l)).2 &&& gr.fpctl == 0)) = true := by decide +kernel

theorem witness_PackedAndConversions : meets (.cvt (tG 4 1 0x210 0x210 0x24800014)) false (tSt (tV [(1, 0x3F800000)])) (fun _ _ gr ps => ps.all (fun l =>
    match cvtTo .f32 .f16 .rtz 0 (BitVec.ofNat 128 (gr.fsrc .f32 l 1)) with | .ok _ fl => fl &&& gr.fpctl == 0 | _ => false)) = true := by decide +kernel

theorem witness_FloatTraps : meets (.frcp (tG 4 1 0x210 0x210 0x28000000)) false (tSt { tGr with fpctl := 0x1F }) (fun _ _ gr ps => ps.all (fun l =>
    (frcp (rmG (tG 4 1 0x210 0x210 0x28000000)) (fA (tG 4 1 0x210 0x210 0x28000000) gr l)).2 &&& gr.fpctl != 0)) = true := by decide +kernel

theorem witness_Branches :
    meets (.bra (tJ 0x210 0 0 0)) false (tPl nopWord tGr) (fun s iss gr _ =>
      s.enter gr (jTarget (tJ 0x210 0 0 0) iss.pc) false == (s, .ok (lineOf nopWord))) = true ∧
    meets (.brx (tG 0x210 8 0x210 0x210 0)) false (tPl nopWord (tV [(9, 0x20000)])) (fun s _ gr ps =>
      ps.all (fun l => regTarget (tG 0x210 8 0x210 0x210 0) gr l == placedPc) && s.enter gr placedPc false == (s, .ok (lineOf nopWord))) = true ∧
    meets (.dbra (tJ 4 0 0 0)) false (tPl nopWord (tV [(4, 1)])) (fun _ _ gr ps => ps.all (fun l => (gr.lane l).rd 4 == 1)) = true ∧
    meets (.dbra (tJ 0x104 0 0 0)) true (tPl nopWord tGr) (fun s iss gr _ => gr.rd 4 != 1 &&
      s.enter gr (jTarget (tJ 0x104 0 0 0) iss.pc) false == (s, .ok (lineOf nopWord))) = true := by decide +kernel

/-- A group whose threads stand in calls and regions. -/
def tCalled (st : List ConvEntry) : Group := { tGr with lanes := List.replicate 32 { run := .running, pc := placedPc, stack := st } }

theorem witness_Calls :
    meets (.call (tJ 0x210 0 0 0)) false (tPl nopWord tGr) (fun s iss gr ps => ps.all (fun l => decide ((gr.lane l).stack.length < gr.divd)) &&
      s.enter gr (jTarget (tJ 0x210 0 0 0) iss.pc) false == (s, .ok (lineOf nopWord)) && markOf (lineSlot (lineOf nopWord) 0) == none) = true ∧
    meets (.ret (tG 0x210 0x210 0x210 0x210 0)) false (tPl nopWord (tCalled [.region 3 0, .call placedPc])) (fun s _ gr ps =>
      ps.all (fun l => popToCall (gr.lane l).stack == some (placedPc, [])) && s.enter gr placedPc false == (s, .ok (lineOf nopWord))) = true := by
  decide +kernel

theorem witness_Regions :
    meets (.rgn (tJ 0x210 1 4 3)) false (tPl nopWord tGr) (fun _ _ gr ps => ps.all (fun l => decide ((gr.lane l).stack.length < gr.divd))) = true ∧
    meets (.join (tG 0x210 0x210 0x210 0x210 2)) false (tSt (tCalled [.region 2 placedPc])) (fun _ _ _ _ => true) = true ∧
    meets (.brk (tG 0x210 0x210 0x210 0x210 2)) false (tSt (tCalled [.region 3 0, .region 2 placedPc])) (fun _ _ gr ps =>
      ps.all (fun l => popRegions 2 (gr.lane l).stack == some (2, placedPc, []))) = true := by decide +kernel

theorem witness_ControlFaults :
    meets (.bra (tJ 0x210 0 1 0)) false (tPl nopWord tGr) (fun s iss gr _ =>
      s.enter gr (jTarget (tJ 0x210 0 1 0) iss.pc) false == (s, .badTarget)) = true ∧
    meets (.call (tJ 0x210 0 0 0)) false (tPl nopWord { tGr with divd := 0 }) (fun _ _ gr ps =>
      ps.all (fun l => decide (gr.divd ≤ (gr.lane l).stack.length))) = true ∧
    meets (.call (tJ 0x210 0 0 0)) false (tPl 0x401FF0210842108400000002 { tGr with vgran := 1 }) (fun s iss gr _ =>
      s.enter gr (jTarget (tJ 0x210 0 0 0) iss.pc) false == (s, .ok (lineOf 0x401FF0210842108400000002)) &&
      markOf (lineSlot (lineOf 0x401FF0210842108400000002) 0) == some 2 && decide (gr.vgran < 2)) = true ∧
    meets (.rgn (tJ 0x210 0 5 0)) false (tSt tGr) (fun _ _ _ _ => true) = true ∧
    meets (.ret (tG 0x210 0x210 0x210 0x210 0)) false (tSt (tCalled [.region 3 0])) (fun _ _ gr ps =>
      ps.all (fun l => popToCall (gr.lane l).stack == none)) = true ∧
    meets (.brk (tG 0x210 0x210 0x210 0x210 2)) false (tSt (tCalled [.region 3 0])) (fun _ _ gr ps =>
      ps.all (fun l => popRegions 2 (gr.lane l).stack == none)) = true := by decide +kernel

/-- A word access of thread 0 at address 0 whose destination is vector register 4. -/
def tReq (k : ReqKind) : Req :=
  { g := 0, lane := 0, seq := 0, kind := k, sp := none, vf := 511, slice := 16, va := 0, pa := 0, home := 0, coh := false, rchk := false, width := 2,
    bytes := 4, data := 0, wit := 0, wits := [], scope := 0, hint := 0, dst := 4, pc := placedPc, issued := 1, fab := .unsent }

/-- A state in which page 0 of VF 0 is coherent and 2048 requests of die 0 await a response. -/
def tFull : State :=
  { tSl { tGr with priv := false } with
    blocks := [(0, { tBlk with vf := 0, slice := 0 })],
    tlb := [{ tlb := 48, vf := 0, vpage := 0, gpage := 0, ppage := 0, size := 4096, s1 := 4096, s2 := 4096, r := true, w := true, coh := true,
              rchk := false, shost := false }],
    reqs := (List.range 2048).map (fun k => (k, { tReq .load with coh := true, fab := .sent k 1 })) }

/-- A word access by the firmware group: aligned, translated with no change, permitted, at home; and one whose witness is a future of a job that
runs, so that the path waits. The second runs on a coherent page and finds no entry. -/
theorem witness_LoadsAndStores :
    meets (.ld (tM 4 8 0x210 0x210 0 2 0 0)) false (tSl tGr) (fun s iss gr ps => ps.all (fun l =>
      s.sat gr true (gr.presented l 0x210) == .yes && (s.translate gr.core (s.vfOf gr) (gr.src64 l 8)).1 == s &&
      (match (s.translate gr.core (s.vfOf gr) (gr.src64 l 8)).2 with
       | .ok tr => tr.r && tr.w && !(s.homeFor gr tr == hostHome) && gr.lsuWatch l (gr.src64 l 8) 4 false == none &&
           !s.noEntry (s.asks iss gr (accSpec (tM 4 8 0x210 0x210 0 2 0 0) .load 1) l (gr.src64 l 8) tr 0 0 [0])
       | .error _ => false))) = true ∧
    meets (.ld (tM 4 8 0x210 0x210 0 2 0 0)) false tFull (fun s iss gr ps => ps.all (fun l =>
      s.sat gr true (gr.presented l 0x210) == .yes && s.effAsk (tM 4 8 0x210 0x210 0 2 0 0) gr l == none &&
      (match (s.translate gr.core (s.vfOf gr) (gr.src64 l 8)).2 with
       | .ok tr => tr.r && tr.w && !(s.homeFor gr tr == hostHome) && gr.lsuWatch l (gr.src64 l 8) 4 false == none &&
           s.noEntry (s.asks iss gr (accSpec (tM 4 8 0x210 0x210 0 2 0 0) .load 1) l (gr.src64 l 8) tr 0 0 [0])
       | .error _ => false))) = true ∧
    meets (.sld (tM 0x104 0x108 0x210 0x210 0 2 0 0)) true (tSt tGr) (fun s _ gr _ => s.sat gr true 0 == .yes) = true ∧
    meets (.ld (tM 4 8 0x210 0x10A 0 2 0 0)) false
      { tSt { tGr with s := [(10, 1), (11, 0xC1E11400)] } with pkgGen := 3, slots := [(slotKey 0x61 0x1400, { seq := 1, vf := 511, comp := none, retire := [] })] }
      (fun s _ gr ps => ps.all (fun l => s.sat gr true (gr.presented l 0x10A) == .no)) = true := by decide +kernel

theorem witness_AccessFaults :
    meets (.ld (tM 4 8 0x210 0x210 2 2 0 0)) false (tSt tGr) (fun _ _ gr ps => ps.all (fun l =>
      (gr.src64 l 8 + 2).toNat % widthBytes 2 != 0)) = true ∧
    meets (.ld (tM 4 8 0x210 0x210 0 2 0 0)) false (tSt { tGr with priv := false }) (fun s _ gr ps => ps.all (fun l =>
      match s.translate gr.core (s.vfOf gr) (gr.src64 l 8) with | (s', .error _) => s' == s | _ => false)) = true := by decide +kernel

theorem witness_WitnessInstructions :
    meets (.wjoin (tM 4 8 10 0x210 0 0 0 0)) false (tSt tGr) (fun s _ gr ps => ps.all (fun l =>
      match s.join gr (gr.src64 l 8) (gr.src64 l 10) with | .ok _ => true | _ => false)) = true ∧
    meets (.wwait (tM 4 8 0x210 0x210 0 0 0 0)) false (tSt tGr) (fun s _ gr ps => ps.all (fun l => s.sat gr true (gr.src64 l 8) == .yes)) = true ∧
    meets (.wjoinr (tM 0x104 0x10 0x210 0x210 0 0 0 0)) false (tSt tGr) (fun s _ gr ps => ps.all (fun l =>
      match s.joinArg gr (gr.src64 l 0x10) with | .ok _ => true | _ => false)) = true ∧
    (let f : FmtM := { (tM 0x104 0x10 0x210 0x210 0 0 0 0) with h := { bareHdr 0x104 with greg := 3 } }
     allOf [failedCheck tIss tGr (.wjoinr f) == none, tIss.path tGr != [], tGr.guardWait f.h (tIss.path tGr) == none,
       tGr.passing f.h false (tIss.path tGr) == [], tGr.specWait 0 f.h.dst 2 == none]) = true := by
  decide +kernel

theorem witness_ControlRegisters :
    meets (.rdcr (tS 0x104 0x210 0x210 0x0D 0 0)) true (tSt tGr) (fun _ _ gr _ => crFree gr 0x0D) = true ∧
    meets (.rdcr (tS 0x104 0x210 0x210 0x08 0 0)) true (tSt tGr) (fun _ _ gr _ => !crFree gr 0x08) = true ∧
    meets (.wrcr (tS 0x210 0x104 0x210 0x00 0 0)) true (tSt tGr) (fun _ _ _ _ => true) = true ∧
    meets (.wrcr (tS 0x210 0x104 0x210 0x18 0 0)) true (tSt tGr) (fun _ _ gr ps =>
      (watchValue ((gr.src (ps.headD 0) 0x104 2).setWidth 64)).extractLsb' 62 2 != 2) = true ∧
    meets (.wrcr (tS 0x210 0x104 0x210 0x1B 0 0)) true (tSl { tGr with s := [(5, 0x80000000)] }) (fun s _ gr ps =>
      let x := watchValue ((gr.src (ps.headD 0) 0x104 2).setWidth 64)
      x.extractLsb' 62 2 == 2 && match s.translate gr.core (s.vfOf gr) (watchLine x) with
        | (s', .ok tr) => s' == s && !tr.coh && decide (s.homeOf tr.pa < 0xC0)
        | _ => false) = true := by decide +kernel

/-- A group whose threads stand in their trap handler. -/
def tHandler : Group :=
  { tGr with lanes := List.replicate 32 { run := .running, pc := placedPc, inHandler := true, flt := { resume := placedPc } } }

theorem witness_ReturnFromHandler :
    meets (.rte (tS 0x210 0x210 0x210 0 0 0)) false (tPl nopWord tHandler) (fun s _ gr ps =>
      ps.all (fun l => (gr.lane l).inHandler && (gr.lane l).flt.resume == placedPc) && s.enter gr placedPc true == (s, .ok (lineOf nopWord))) = true ∧
    meets (.rte (tS 0x210 0x210 0x210 0 0 0)) false (tSt tGr) (fun _ _ gr ps => ps.all (fun l => !(gr.lane l).inHandler)) = true := by decide +kernel

theorem witness_ServicesAndHalt :
    meets (.sys (tS 0x104 0x210 0x210 0 0 0)) true (tSt { tGr with priv := false }) (fun _ _ gr _ => !gr.priv) = true ∧
    meets (.sys (tS 0x104 0x210 0x210 0 0 0)) true (tSt tGr) (fun _ _ gr _ => gr.priv) = true ∧
    meets (.halt (tS 0x104 0x210 0x210 5 0 0)) true (tSt tGr) (fun _ _ gr _ => gr.events == 0) = true ∧
    meets (.halt (tS 0x104 0x210 0x210 5 0 0)) true (tSt { tGr with events := 1 }) (fun _ _ gr _ => gr.events != 0) = true := by decide +kernel

theorem witness_PrivilegedInstructions :
    meets (.tlbi (tS 0x210 0x210 0x210 0 4 0)) true (tSt tGr) (fun s _ _ _ => !s.tlbBusy 4 0 0) = true ∧
    meets (.ldio (tS 0x104 0x108 0x210 0 0 0)) true (tSt tGr) (fun _ _ gr ps => (ioAddr (tS 0x104 0x108 0x210 0 0 0) gr (ps.headD 0)).toNat % 4 == 0) = true ∧
    meets (.ldio (tS 0x104 0x108 0x210 2 0 0)) true (tSt tGr) (fun _ _ gr ps =>
      (ioAddr (tS 0x104 0x108 0x210 2 0 0) gr (ps.headD 0)).toNat % ioBytes (tS 0x104 0x108 0x210 2 0 0) != 0) = true ∧
    meets (.mbxw (tS 0x104 0x108 0x210 0 0 0)) true (tSt tGr) (fun _ _ gr _ => outRing (gr.core / 49) 0 == none) = true ∧
    meets (.mbxw (tS 0x104 0x108 0x210 9 0 0)) true (tSt tGr) (fun s _ gr _ => outRing (gr.core / 49) 9 == some (3, 6) &&
      s.groups.all (fun e => e.2.haltq == none) && decide ((s.mbox 3 6).inb.length < 16)) = true ∧
    meets (.engx (tS 0x104 0x108 0x210 0 0 0)) true (tSt { tGr with s := [(8, 1)] }) (fun _ _ gr ps => (gr.src64 (ps.headD 0) 0x108).toNat % 64 != 0) = true := by
  decide +kernel

/-- A group whose queue `k` walks a stream of one lane, with `n` entries queued and `m` spilled. -/
def tWalk (n m k : Nat) : Group :=
  let e : QEntry := { vals := [], faults := [] }
  let q : OpQueue := { st := .walking, mask := 1, total := 1000, width := 2, spill := true, entries := List.replicate n e, spilled := List.replicate m e }
  { tGr with oq := (List.range 4).map (fun j => if j == k then q else {}) }

/-- Lane 0 of the stream has its value. -/
def tWalks (k : Nat) (s : State) : Bool :=
  match s.group 0 with
  | some gr => gr.st == .active && (gr.oq.getD k {}).st == .walking && (match s.streamLane gr (gr.oq.getD k {}) 0 with | .val _ _ => true | _ => false) &&
    !s.racing (s.sliceOf gr) true && gr.haltq == none && !(s.streamPas gr (gr.oq.getD k {})).any (s.hbmWaits (s.jobVf gr)) &&
    (s.hbmRefillFor (s.streamHbm 0 k gr)).vfTurn (s.streamHbm 0 k gr) (s.jobVf gr)
  | none => false

theorem witness_Streams : allOf [
    meets (.strm (tE 0x210 0x110 0x108 0x210 0 2 0 0 0)) false (tSl tGr) (fun s iss gr ps =>
      s.sat gr true (gr.presented (ps.headD 0) 0x210) == .yes && (gr.src64 (ps.headD 0) 0x108).toNat % 64 == 0 &&
      !s.racing (s.sliceOf gr) true && (let p := s.popped iss gr (.strm (tE 0x210 0x110 0x108 0x210 0 2 0 0 0))
        p.groupAsks iss.g gr (gr.src64 (ps.headD 0) 0x108) 64 == none &&
        match p.groupRead iss.g gr iss.pc (gr.src64 (ps.headD 0) 0x108) 64 with | (u, .ok d) => zeroRange d 0x34 12 && u.groups == p.groups | (_, .error _) => false)),
    meets (.strm (tE 0x210 0x110 0x108 0x210 0 2 0 0 0)) false (tSl { tGr with s := [(8, 1)] }) (fun s _ gr ps =>
      s.sat gr true (gr.presented (ps.headD 0) 0x210) == .yes && (gr.src64 (ps.headD 0) 0x108).toNat % 64 != 0),
    meets (.strmx (tE 0x210 0x210 0x210 0x210 0 0 0 0 0)) true (tSt tGr) (fun _ _ _ _ => true),
    meets (.strmx (tE 0x210 0x210 0x210 0x210 0 0 0 0 4)) true (tSt tGr) (fun _ _ gr _ => (gr.oq.getD 0 {}).st == .idle),
    goes (.streamEntryProduce 0 3) (tSl (tWalk 0 0 3)) (tWalks 3),
    goes (.streamSpill 0 0) (tBs (tWalk 64 0 0)) (fun s => tWalks 0 s && decide (ringHeld (tWalk 64 0 0).oq < 32 * s.quotaOf tGr)),
    goes (.streamSpill 0 0) (tBs (tWalk 64 32 0)) (fun s => decide (32 * s.quotaOf tGr ≤ ringHeld (tWalk 64 32 0).oq))] = true := by
  decide +kernel

theorem witness_ScratchpadInstructions : allOf [
    meets (.lds (tE 4 8 0x210 0x210 0 2 0 0 0)) false (tBk tGr) (fun s _ gr ps => ps.all (fun l =>
      s.sat gr true (gr.presented l 0x210) == .yes && match s.spAddr gr (gr.src32 l 8) 4 with
        | some (b, k, o) => (match s.share b k with | some sh => sh.line (o / 128) != {} | none => false)
        | none => false)),
    meets (.sts (tE 4 8 8 0x210 0x1FFC 2 0 0 0)) false (tBk tGr) (fun s _ gr ps => ps.all (fun l =>
      s.sat gr true (gr.presented l 0x210) == .yes && (s.spAddr gr 0x1FFC 4).isSome)),
    meets (.lds (tE 4 8 0x210 0x210 0 2 0 0 0)) false (tOne (tBk (tV [(8, 65536)]))) (fun s _ gr ps =>
      ps == [0] && (s.spAddr gr 65536 4).isNone),
    meets (.lds (tE 4 8 0x210 0x210 0 2 0 0 0)) false (tOne (tBk (tV [(8, 256)]))) (fun s _ gr ps =>
      ps == [0] && match s.spAddr gr 256 4 with | some (b, k, o) => (match s.share b k with | some sh => sh.line (o / 128) == {} | none => false) | none => false),
    meets (.pres (tE 0x004 0x108 0x210 0x210 0 0 0 0 0)) false (tBk tGr) (fun s _ gr _ => (s.spAddr gr 0 1).isSome),
    meets (.fmask (tE 0x004 0x110 0x210 0x210 0 0 0 0 0)) true (tBk tGr) (fun _ _ _ _ => true)] = true := by
  decide +kernel

theorem witness_Copies : allOf [
    meets (.cpy (tE 0x10A 0x104 0x106 0x210 0x100 2 1 0 0)) true (tBs tGr) (fun s iss gr ps =>
      match (s.popped iss gr (.cpy (tE 0x10A 0x104 0x106 0x210 0x100 2 1 0 0))).copyIssue .cpy (tE 0x10A 0x104 0x106 0x210 0x100 2 1 0 0) gr iss.g
        (ps.headD 0) iss.pc with
      | .ok _ _ _ => true | _ => false),
    meets (.cpy (tE 0x10A 0x104 0x106 0x210 0x100 2 1 0 0)) true { tBs tGr with blocks := [(0, { tBlk with producer := 0xFFFF })] } (fun s _ gr _ =>
      (s.block gr.blk).any (fun b => b.producer == 0xFFFF)),
    meets (.cpy (tE 0x10A 0x104 0x106 0x210 0x100 2 1 0 0)) true (tBs { tGr with s := [(6, 64)] }) (fun s _ gr ps =>
      s.sat gr true (gr.presented (ps.headD 0) 0x210) == .yes && (gr.src64 (ps.headD 0) 0x106).toNat % 128 != 0)] = true := by decide +kernel

/-- Two groups of a block in one gang, with the arrivals `as` of its rendezvous. -/
def tGang (as : List Arrival) : State :=
  { (tBk { tGr with gang := 0x3000 }).putGroup 1 { tGr with gang := 0x3000, groupid := 1 } with
    gangs := if as = [] then [] else [{ core := 48, blk := 0, base := 0, arrivals := as }] }

/-- The arrival of group `g` there with mzero, or with a guard that fails. -/
def tArr (g : Nat) (skip : Bool) : Arrival :=
  { g := g, lanes := 1, instr := .mzero (tX 0x210 0 0 2 0x210 0 0 0 0 0 0), gang := 0x3000, skip := skip, src := 0, pc := placedPc }

theorem witness_Gangs : allOf [
    meets (.gang (tX 0x210 0 0 0 0x104 0 0 0 0 0 0)) true ((tBk { tGr with s := [(4, 0x3000)] }).putGroup 1 { tGr with groupid := 1 }) (fun s iss gr ps =>
      (s.popped iss gr (.gang (tX 0x210 0 0 0 0x104 0 0 0 0 0 0))).gangBad gr (gr.src32 (ps.headD 0) 0x104) == none),
    meets (.gang (tX 0x210 0 0 0 0x104 0 0 0 0 0 0)) true (tBk { tGr with s := [(4, 0x1000)] }) (fun s iss gr ps =>
      (s.popped iss gr (.gang (tX 0x210 0 0 0 0x104 0 0 0 0 0 0))).gangBad gr (gr.src32 (ps.headD 0) 0x104) != none),
    meets (.mzero (tX 0x210 0 0 2 0x210 0 0 0 0 0 0)) true (tGang []) (fun s iss gr _ => gangMask gr.gang != 0 &&
      (gangMembers gr.gang).all (fun g => match s.groupOf gr.blk g with | some (_, x) => x.core == gr.core | none => true) &&
      s.groups.all (fun e => e.1 != iss.g || (e.2.core == gr.core && e.2.blk == gr.blk && e.2.groupid == gr.groupid)) && s.gangs == []),
    goes (.gangRendezvousComplete 0 0) (tGang [tArr 0 false, tArr 1 false]) (fun s => (s.latchOf 0 0).any (fun l => s.gangFailure l == none &&
      s.gangFull l) && match s.enterOp { tGr with gang := 0x3000 } (tArr 0 false).instr ((s.inOrder [tArr 0 false, tArr 1 false]).filterMap s.arrived) 0 placedPc with | .ok _ => true | _ => false),
    goes (.gangRendezvousComplete 0 0) (tGang [tArr 0 true, tArr 1 true]) (fun s => (s.latchOf 0 0).any (fun l => s.gangFailure l == none &&
      s.gangFull l && s.inOrder l.current != [] && l.current.all (fun a => a.skip && (s.group a.g).isSome))),
    goes (.gangmisFailure 0 0) (tGang [tArr 0 true, tArr 1 false]) (fun s => (s.latchOf 0 0).any (fun l => s.gangFailure l == some 1))] = true := by
  decide +kernel

theorem witness_ClaimSlot : allOf [
    meets (.oclm (tX 0x210 0 0 0 0x210 0 0 0 0 0 0)) true (tSt tGr) (fun s _ gr _ => Store.find s.tiles (tileKey gr.core 0) == none),
    meets (.oclm (tX 0x210 2 0 0 0x210 0 0 0 0 0 0)) true (tBk tGr) (fun s _ gr _ => (Store.find s.tiles (tileKey gr.core 2)).isSome)] = true := by
  decide +kernel

/-- The premise of the matrix instructions on their block and share. -/
def tMx (i : Instr) (p : State → Group → Block → Share → Bool) : Bool :=
  meets i true (tBk tGr) (fun s _ gr _ =>
    match s.shareAt gr.blk gr.core, s.block gr.blk with
    | some (_, sh), some b => gangMask gr.gang == 0 && [0, 1, 2].all (fun k => s.owns gr.core k gr.blk) && !s.owns gr.core 3 gr.blk && p s gr b sh
    | _, _ => false)

theorem witness_MatrixInstructions : allOf [
    tMx (.orel (tX 0x210 2 0 0 0x210 0 0 0 0 0 0)) (fun _ _ _ _ => true),
    tMx (.old (tX 0x210 0 0 0 0x110 0 0 0 0 0 1)) (fun _ gr b sh => gr.src64 0 0x110 == 0 && decide (128 ≤ b.scratch) &&
      (oldLines (tX 0x210 0 0 0 0x110 0 0 0 0 0 1) 0).all (fun k => (sh.line k).w && (sh.line k).pend == 0)),
    tMx (.mma (tX 0x210 0 1 0 0x210 5 0 0 0 0 0)) (fun _ _ _ sh => (sh.unit 0).tag == .Z),
    tMx (.mma (tX 0x210 0 1 0 0x210 5 2 0 0 0 0x200)) (fun _ _ b _ =>
      let f := tX 0x210 0 1 0 0x210 5 2 0 0 0 0x200
      f.gsz != 0 && f.qslot < 3 && (unitsFrom 0 (planes f.ety f.gsz)).all (fun u => decide (u < 4 * b.accu))),
    tMx (.mzero (tX 0x210 0 0 2 0x210 0 0 0 0 0 1)) (fun _ _ b _ => [2, 3].all (fun u => decide (u < 4 * b.accu))),
    tMx (.scacc (tX 0x210 0 0 2 0x210 5 2 0 0 0 0x104)) (fun _ _ b sh =>
      let f := tX 0x210 0 0 2 0x210 5 2 0 0 0 0x104
      f.qslot < 3 && (unitsFrom f.pbase (planes f.ety f.gsz) ++ [2, 3]).all (fun u => decide (u < 4 * b.accu)) && (sh.unit 2).tag == .S &&
      (unitsFrom f.pbase (planes f.ety f.gsz)).all (fun u => (sh.unit u).tag == .P)),
    tMx (.mdrain (tX 0x104 0 0 0 0x210 0 0 0 0 0xB 0x40)) (fun _ _ b sh =>
      let f := tX 0x104 0 0 0 0x210 0 0 0 0 0xB 0x40
      !f.reg && (sh.unit 0).tag == .Z && decide (128 * f.lineNo + 128 * drainRow f.oty ≤ b.scratch) &&
      (drainLines f).all (fun k => decide ((sh.line k).pend < 15))),
    tMx (.mrd (tX 0x004 0 0 1 0x210 0 0 0 0 0 5)) (fun _ _ _ sh => (sh.unit 1).tag == .P),
    tMx (.orel (tX 0x210 3 0 0 0x210 0 0 0 0 0 0)) (fun _ _ _ _ => true),
    tMx (.mrd (tX 0x004 0 0 8 0x210 0 0 0 0 0 5)) (fun _ _ b _ => decide (4 * b.accu ≤ 8)),
    tMx (.mrd (tX 0x004 0 0 3 0x210 0 0 0 0 0 5)) (fun _ _ b sh => decide (3 < 4 * b.accu) && (sh.unit 3).tag == .Shi),
    tMx (.mdrain (tX 0x104 0 0 1 0x210 0 0 0 0 0xB 0x40)) (fun _ _ _ sh => (sh.unit 1).tag == .P)] = true := by decide +kernel

/-- A barrier slot of block 0 for one group of 32 threads and one engine arrival. -/
def tBar : BarSlot := { blk := 0, first := 0, ng := 1, eng := 1, phase := 0, arrived := 0, live := 32, engarr := 0, pend := [] }

/-- The block's state with that barrier slot as slot 3 of the group. -/
def tBb (gr : Group) (b : BarSlot) : State := { tBk gr with bars := [((tBk gr).barKey gr 3, b)] }

theorem witness_BarrierSlots : allOf [
    meets (.bini (tS 0x210 0x104 0x210 3 0 0)) true (tBk tGr) (fun s _ gr _ => Store.find s.bars (s.barKey gr 3) == none),
    meets (.bini (tS 0x210 0x104 0x210 3 0 0)) true (tBb tGr { tBar with blk := 1 }) (fun s _ gr _ =>
      (Store.find s.bars (s.barKey gr 3)).any (fun b => b.blk != gr.blk)),
    meets (.binv (tS 0x210 0x210 0x210 3 1 0)) true (tBk tGr) (fun s _ gr _ => s.heldBar gr (tS 0x210 0x210 0x210 3 1 0) == none),
    meets (.binv (tS 0x210 0x210 0x210 3 0 0)) true (tBb tGr tBar) (fun s _ gr _ => s.heldBar gr (tS 0x210 0x210 0x210 3 0 0) == some tBar),
    meets (.binv (tS 0x210 0x210 0x210 3 0 0)) true (tBb tGr { tBar with arrived := 1 }) (fun s _ gr _ =>
      s.heldBar gr (tS 0x210 0x210 0x210 3 0 0) == some { tBar with arrived := 1 }),
    meets (.bqry (tS 4 0x210 0x210 3 2 0)) true (tBb tGr tBar) (fun _ _ _ _ => true)] = true := by decide +kernel

theorem witness_BarrierWaits : allOf [
    meets (.barr (tS 0x104 0x210 0x210 3 0 0)) true (tBk tGr) (fun s _ gr _ => s.heldBar gr (tS 0x104 0x210 0x210 3 0 0) == none),
    meets (.barr (tS 0x104 0x210 0x210 3 0 0)) true (tBb tGr tBar) (fun s _ gr _ => s.heldBar gr (tS 0x104 0x210 0x210 3 0 0) == some tBar &&
      decide (tBar.engarr < tBar.eng)),
    meets (.barr (tS 0x104 0x210 0x210 3 0 0)) true (tBb tGr { tBar with eng := 0 }) (fun s _ gr ps =>
      (s.heldBar gr (tS 0x104 0x210 0x210 3 0 0)).any (fun b => decide (b.live ≤ b.arrived + ps.length) && decide (b.eng ≤ b.engarr))),
    meets (.bwait (tS 4 0x104 0x210 3 0 0)) true (tBb tGr { tBar with phase := 1 }) (fun s _ gr ps =>
      (s.heldBar gr (tS 4 0x104 0x210 3 0 0)).any (fun b => phaseDone b.phase ((gr.src32 (ps.headD 0) 0x104).extractLsb' 0 16))),
    meets (.bwait (tS 4 0x104 0x210 3 0 0)) true (tBb tGr tBar) (fun s _ gr ps =>
      (s.heldBar gr (tS 4 0x104 0x210 3 0 0)).any (fun b => !phaseDone b.phase ((gr.src32 (ps.headD 0) 0x104).extractLsb' 0 16))),
    meets (.barw (tS 0x210 0x108 0x210 3 0 0)) true (tBb tGr tBar) (fun s _ gr ps =>
      (s.heldBar gr (tS 0x210 0x108 0x210 3 0 0)).any (fun b => decide (b.arrived < b.live)) && s.sat gr true (gr.src64 (ps.headD 0) 0x108) == .yes),
    meets (.barw (tS 0x210 0x10A 0x210 3 0 0)) true
      { tBb { tGr with s := [(10, 1), (11, 0xC1E11400)] } tBar with pkgGen := 3, slots := [(slotKey 0x61 0x1400, { seq := 1, vf := 511, comp := none, retire := [] })] }
      (fun s _ gr ps => s.sat gr true (gr.src64 (ps.headD 0) 0x10A) == .no && (s.heldBar gr (tS 0x210 0x10A 0x210 3 0 0)).isSome),
    meets (.barw (tS 0x210 0x108 0x210 3 0 0)) true (tBk tGr) (fun s _ gr ps =>
      s.heldBar gr (tS 0x210 0x108 0x210 3 0 0) == none && s.sat gr true (gr.src64 (ps.headD 0) 0x108) == .yes)] = true := by decide +kernel

/-- The state in which it is in flight. -/
def tRq (q : Req) : State :=
  { tBs { tGr with lanes := List.replicate 32 { run := .running, pc := placedPc, pend := [(4, [7]), (5, [7]), (6, [7]), (7, [7])] } } with reqs := [(7, q)] }

/-- The request's registers await it there, it shares its read with none, it may be served and its turn has come. -/
def tFree (s : State) : Bool :=
  match Store.find s.reqs 7, s.group 0 with
  | some q, some gr => s.servable 7 q && (match s.atHbm q with | some (ch, a) => s.hbmRefill ch (bankOf a) | none => s).hbmTurn 7 q &&
      !s.racing q.slice q.rchk && s.sameRead 7 q == [(7, q)] && (List.range q.regs).all (fun j => (Store.get [] (gr.lane 0).pend (4 + j)).contains 7)
  | _, _ => false

/-- The load meets its line in L1. -/
def tL1 : State :=
  { (tRq (tReq .load)).updGroup 0 (fun g => { g with priv := false }) with
    l1 := [⟨48, 511, 0, false, 16, List.replicate 128 0, 1, 0, 0, 0⟩] }

/-- A load of the device's own units whose line the package holds. -/
def tUnit : State :=
  { tSl tGr with reqs := [(7, { tReq .load with g := 2 ^ 40, coh := true })], fab := { lines := [⟨16, 511, 0, .E, [], 0⟩] } }

theorem witness_LoadReplies : allOf [
    goes (.loadReply 7 false) (tRq (tReq .load)) (fun s => tFree s && !s.reqUninit (tReq .load) && !s.readPoison (tReq .load) &&
      (s.homeBytes (tReq .load)).isSome),
    goes (.loadReply 7 false) (tRq { tReq .load with sp := some (0, 0), pa := 252 }) (fun s => tFree s &&
      !s.reqUninit { tReq .load with sp := some (0, 0), pa := 252 }),
    goes (.loadReply 7 true) tL1 (fun s => tFree s && (s.l1Find 48 511 false 0).any (fun l => l.valid.getLsbD 0)),
    goes (.loadReply 7 false) tUnit (fun s => (s.fabLine 16 ({ tReq .load with g := 2 ^ 40, coh := true } : Req).vf 0).isSome && ({ tReq .load with g := 2 ^ 40, coh := true } : Req).ofUnit)] = true := by decide +kernel

theorem witness_StoreCommits : allOf [
    goes (.homeCommit 7) { tRq (tReq .store) with sltbase := 4096 } (fun s => tFree s && !s.partPoison 0 4),
    goes (.homeCommit 7) (tRq { tReq .store with sp := some (0, 0), pa := 252 }) (fun s => tFree s && (s.share 0 0).isSome)] = true := by decide +kernel

theorem witness_AtomicsPerformed : allOf [
    goes (.atomicPerform 7) { tRq { tReq (.atom .add false) with hint := 0 } with sltbase := 4096 } (fun s => tFree s && !s.poisoned 0 4),
    goes (.atomicPerform 7) { tRq { tReq (.atom .cas true) with width := 3, bytes := 8 } with sltbase := 4096 } (fun s => tFree s && !s.poisoned 0 8)] = true := by
  decide +kernel

/-- A state in which core 48 runs a group in an active place and another waits. -/
def tTwo (g0 g1 : Group) (c : Core) : State := { (tBk g0).putGroup 1 g1 with powered := true, cores := [(48, c)], cur := none }

theorem witness_Scheduling : allOf [
    goes (.issueCycle 48) (tTwo tGr { tGr with groupid := 1, st := .pending } { active := [0] }) (fun s => s.running 48),
    goes (.pathQuantumExpired 0) (tTwo { tGr with quantum := 0, turn := 1 } tGr {}) (fun s => (s.group 0).any (fun gr => gr.quantum == 0 && gr.turn != 0 &&
      gr.between == 0 && (gr.choose (s.readyPaths 0 gr)).isSome)),
    goes (.groupSwapOut 0) (tTwo { tGr with waited := 16 } { tGr with groupid := 1, st := .pending } { active := [0] }) (fun s =>
      s.groups.any (fun e => s.pendingReady 48 e.1 e.2) && (s.group 0).any (fun gr => gr.between == 0) && s.issueQ == [] && (s.core 48).lastSwap == none),
    goes (.activePlaceFill 48) (tTwo tGr { tGr with groupid := 1, st := .pending } { active := [0], tenants := [{ slot := 0, vf := 511, c := 1 }] })
      (fun s => s.fillChoice 48 == some 1)] = true := by decide +kernel

theorem witness_HandlerEntryAndFetch : allOf [
    goes (.trapHandlerEntry 0) (tPl nopWord { tGr with trapvec := placedPc, lanes := List.replicate 32 { run := .parked, pc := placedPc } }) (fun s =>
      (s.group 0).any (fun gr => gr.mayEnter && !s.blockEnding gr.blk && match s.enter gr gr.trapvec false with | (_, .ok _) => true | _ => false)),
    goes (.fetchLine 0 0) (tPl nopWord tGr) (fun s => (s.group 0).any (fun gr => match s.fetch gr (gr.lane 0).pc with | (_, .line _) => true | _ => false)),
    goes (.fetchLine 0 0) (tSt { tGr with lanes := List.replicate 32 { run := .running, pc := 4 } }) (fun s => (s.group 0).any (fun gr =>
      match s.fetch gr (gr.lane 0).pc with | (_, .bad _ _ _) => true | _ => false)),
    goes (.registerLineFetch 0 2) (tSt { tGr with absent := [2] }) (fun s => (s.group 0).any (fun gr => gr.absent.contains 2 && gr.st == .active))] = true := by
  decide +kernel

theorem witness_WitnessesAndWatches : allOf [
    goes (.witnessSatisfied 0) (tPl nopWord { tGr with lanes := List.replicate 32 { run := .running, pc := placedPc, wait := .witness } }) (fun s =>
      (s.group 0).any (fun gr => gr.paths.any (fun p => (maskLanes p.2).contains 3 && (gr.lane 3).wait == .witness && s.pathWait 0 gr p != some .witness))),
    goes (.l1Fill 48 511 0) ((tRq (tReq .load)).updGroup 0 (fun g => { g with priv := false })) (fun s => tFree s && s.reqs.length == 1 &&
      [0, 1, 2, 3].all (fun j => !s.hbmWaits 511 (32 * j)) && !s.barred (tReq .load) &&
      (let x := ((List.range 4).filterMap (fun j => s.toHbm 511 (32 * j))).head?
       (s.hbmRefillFor x).vfTurn x 511)),
    goes (.homeWatchAccept 0 3) (tSl { tGr with hwatch := [(7, 0)] }) (fun s => decide (s.bankWatches (s.homeOf 0) < 16))] = true := by decide +kernel

/-- A message of slice 0 on the ring, and the cores that have heard of the new generation. -/
def tRm (m : RingMsg) (heard : List Nat) : State := { tSl tGr with ring := [m], genHeard := heard }

theorem witness_StampRing : allOf [
    goes (.ringMessageReceive 195 ({ slice := 0, pkg := false, home := 5, kind := 1, value := 9 } : RingMsg).word false)
      (tRm { slice := 0, pkg := false, home := 5, kind := 1, value := 9 } []) (fun s => s.ring.any (fun m => m.sl == 0 && m.kind == 1)),
    goes (.ringMessageReceive 300 ({ slice := 0, pkg := false, home := 5, kind := 2, value := 9 } : RingMsg).word false)
      (tRm { slice := 0, pkg := false, home := 5, kind := 2, value := 9 } []) (fun s => isHome 44 && s.ring.any (fun m => m.kind == 2)),
    goes (.ringMessageReceive 195 ({ slice := 0, pkg := false, home := 0x3FF, kind := 3, value := 1 } : RingMsg).word false)
      (tRm { slice := 0, pkg := false, home := 0x3FF, kind := 3, value := 1 } []) (fun s => s.genHeard == []),
    goes (.ringMessageReceive 195 ({ slice := 0, pkg := false, home := 0x3FF, kind := 3, value := 1 } : RingMsg).word false)
      (tRm { slice := 0, pkg := false, home := 0x3FF, kind := 3, value := 1 } ((List.range 195).map (32 * ·))) (fun s => !s.genHeard.contains (195 * 32)),
    goes (.generationMessage 0) { tSl tGr with slices := [(0, { st := .running, clusters := 1, renewing := true, drained := (tSl tGr).renewHomes 0 })] }
      (fun s => s.stalled 0 && !s.genSent 0 && (s.renewHomes 0).all (fun h => (s.drainedOf 0).contains h)),
    goes (.counterPublish 0 5) { tSl tGr with ctr := [(5, 9)] } (fun s => isHome 5 && s.toPublish 0 5 != 0),
    goes (.counterRepublish 0 5) (tSl tGr) (fun _ => isHome 5),
    goes (.ringMessageReceive 195 ({ slice := 0, pkg := false, home := 5, kind := 0, value := 9 } : RingMsg).word false)
      { tSl tGr with ring := [{ slice := 0, pkg := false, home := 5, kind := 0, value := 9 }] } (fun s => s.ring.length == 1),
    goes (.ringMessageReceive 195 ({ slice := 0, pkg := false, home := 5, kind := 0, value := 9 } : RingMsg).word true)
      { tSl tGr with ring := [{ slice := 0, pkg := false, home := 5, kind := 0, value := 9 }] } (fun s => (s.die 3).head == 0),
    goes (.renewalRequest 16 5) { tSl tGr with ctr := [(16 * 1024 + 5, 2 ^ 45 - 2 ^ 40 + 1)] } (fun s => !s.stalled 16 &&
      decide (2 ^ 45 - 2 ^ 40 < s.counter 16 5)),
    goes (.renewalDrained 0 0x300) { tSl tGr with slices := [(0, { st := .running, clusters := 1, renewing := true })] } (fun s => s.stalled 0 &&
      (s.renewHomes 0).contains 0x300 && !(s.drainedOf 0).contains 0x300 && s.drainedAt 0 0x300),
    goes (.scrubRead 195 0) { tSl tGr with powered := true } (fun s => (s.core 195).scrubpos == 0)] = true := by decide +kernel

/-- Core 48 with one operation of the block's matrix queue. -/
def tMop (i : Instr) (started : Bool) : State :=
  { tBk tGr with cores := [(48, { mq := [(0, ⟨i, 0, [⟨0, 1, placedPc, 1⟩], 0, 7, .Z, [], none, started, none, none⟩)], mqNext := 1 })] }

/-- Its operation is started, and the block has its share. -/
def tHeld (s : State) : Bool := s.cores.all (fun e => e.2.mq.all (fun m => m.2.started && s.amaxNeeds 48 m.2 == none && m.2.amax == none)) && !s.unitBusy (matG 48 0) && (s.shareAt 0 48).isSome

theorem witness_MatrixOperations : allOf [
    goes (.matrixOpStart 48 0) (tMop (.orel (tX 0x210 2 0 0 0x210 0 0 0 0 0 0)) false) (fun s => !s.coreStopped 48),
    goes (.matrixOpComplete 48 0) (tMop (.orel (tX 0x210 2 0 0 0x210 0 0 0 0 0 0)) true) tHeld,
    tHeld (tMop (.old (tX 0x210 0 0 0 0x110 0 0 0 0 0 1)) true) && (tMop (.old (tX 0x210 0 0 0 0x110 0 0 0 0 0 1)) true).tiles.length == 3,
    tHeld (tMop (.mma (tX 0x210 0 1 0 0x210 1 0 0 0 0 0)) true) && !(tX 0x210 0 1 0 0x210 1 0 0 0 0 0).ety.isFloat,
    goes (.matrixOpComplete 48 0) (tMop (.mzero (tX 0x210 0 0 2 0x210 0 0 0 0 0 1)) true) tHeld,
    goes (.matrixOpComplete 48 0)
      ((tMop (.mrd (tX 4 0 0 1 0x210 0 0 0 0 0 5)) true).putGroup 0
        { tGr with lanes := List.replicate 32 { run := .running, pc := placedPc, pend := [(4, [7]), (5, [7])] } })
      (fun s => tHeld s && (s.group 0).any (fun gr => [4, 5].all (fun r => (Store.get [] (gr.lane 0).pend r).contains 7)))] = true := by decide +kernel

/-- A copy of two words into the block's scratchpad, as job 1 of engine 0. -/
def tJob (k : JobKind) : Job :=
  { kind := k, eng := 0, slot := 0, seq := 1, vf := 511, slice := 16, blk := some 0, core := 48, g := 0, lane := 0, cp := none, w := 4, counts := [2],
    base := 0, gstr := [], sbase := 0, sstr := [], table := [], bt := false, mode := .copy, phys := false, skey := 0, dkey := 0, wit := 0, scope := 0,
    next := 0, total := 2, started := true, stopped := false, ended := false, rg := [], wg := [], rs := [], ws := [], pendLines := [],
    wroteLines := [], wits := 0, pc := placedPc, issued := 1 }

/-- The block's state with the job and its slot. -/
def tJb (j : Job) : State := { tBs tGr with jobs := [(1, j)], slots := [(slotKey (engCode 0) 0, { seq := 1, vf := 511, comp := none, retire := [] })], sltbase := 4096 }

/-- The future of that slot. -/
def tFut : W64 := mkFuture 0 0 (engCode 0) 0 1

/-- Job 1 moves its next bytes, and where it writes to memory the commit is a plain one at a translated address. -/
def tMoves (s : State) : Bool :=
  match Store.find s.jobs 1 with
  | some x => s.jobReady 1 x && (match s.jobSrc 1 x x.next (x.piece x.next) with | .bytes _ => true | _ => false) &&
      s.jobChecks x (x.gAddr x.next) false == none &&
      (let s0 := (if x.onBulk then s.engRefill x.eng else s).hbmRefillFor (s.jobHbm 1 x)
       (!x.onBulk || s0.engTurn x.eng x.vf) && s0.vfTurn (s.jobHbm 1 x) x.vf) &&
      (match x.kind with
       | .cpy => (s.jobLoc x x.next).any (fun l => (s.share l.1 l.2.1).isSome) && s.racing x.slice true == false && s.reqs.all (fun e => e.2.sp == none)
       | k => match s.jobTr x (match k with | .bulk _ => x.sAddr x.next | _ => x.dstVa x.next) true with
         | .ok tr => !tr.coh && !s.partPoison tr.pa 4 && !s.racing x.slice tr.rchk && (!x.physical || s.sees x.writeKey tr.pa 8) && decide (tr.pa + 64 ≤ s.sltbase + 0xC400)
         | _ => false)
  | none => false

/-- No edge holds job 1 back and no request of its own is in flight. -/
def tAlone (s : State) : Bool := match Store.find s.jobs 1 with | some x => !s.hasEdge 1 x && !s.jobAsks 1 | none => false

theorem witness_JobsAndArrivals : allOf [
    goes (.copyElementWrite 1) (tJb (tJob .cpy)) tMoves,
    goes (.copyElementWrite 1) (tJb { tJob .cpyo with base := 128 }) tMoves,
    goes (.copyElementWrite 1) (tJb { tJob .cpyg with sbase := 128 }) tMoves,
    goes (.copyElementWrite 1) (tJb { tJob (.bulk false) with sbase := 128 }) (fun s => tMoves s && (s.slice 16).race == 0),
    goes (.copyJobComplete 1) (tJb { tJob .cpy with next := 2, cp := some (0, 0, 0) }) (fun s => !s.jobAsks 1),
    goes (.copyJobComplete 1) (tJb { tJob .cpy with next := 2 }) (fun s => !s.jobAsks 1 && s.slots != []),
    goes (.copyJobStop 1) (tJb { tJob .cpy with base := 2 ^ 48 }) (fun s => s.jobLost { tJob .cpy with base := 2 ^ 48 } && tAlone s &&
      (s.block 0).isSome && (s.group 0).any (fun gr => gr.blk == 0 && (gr.lane 0).run != .exited)),
    goes (.copyJobStop 1) (tJb { tJob (.bulk false) with base := 2 ^ 48, counts := [2, 1] }) (fun s => s.jobLost { tJob (.bulk false) with base := 2 ^ 48, counts := [2, 1] } &&
      tAlone s && (s.die 0).head == (s.die 0).tail),
    goes (.engineJobStart 1) (tJb { tJob .cpy with started := false }) (fun s => s.startable 1 { tJob .cpy with started := false } &&
      decide (s.engBusy 0 < 4) && s.jobSat { tJob .cpy with started := false } == .yes),
    goes (.barrierWitnessArrival ((tBk tGr).barKey tGr 3) 0) (tBb tGr { tBar with pend := [(511, 0)] }) (fun s =>
      s.satBy 511 (barCore ((tBk tGr).barKey tGr 3)) 0 == .yes),
    goes (.orphanArrival 48 0) { tBk tGr with cores := [(48, { orphans := [(511, 0)] })] } (fun s => s.satBy 511 48 0 == .yes),
    meets (.wcanc (tM 4 8 0x210 0x210 0 0 0 0)) false (tSt tGr) (fun _ _ gr ps => ps.all (fun l => wKind (gr.src64 l 8) != 3)),
    meets (.wcanc (tM 4 8 0x210 0x210 0 0 0 0)) false
      (tOne ((tJb { tJob .cpy with started := false }).putGroup 0 (tV [(8, tFut.extractLsb' 0 32), (9, tFut.extractLsb' 32 32)])))
      (fun s _ gr ps => ps == [0] && gr.src64 0 8 == tFut && wKind tFut == 3 && decide (genAge (s.genOf (s.sliceOf gr)) tFut < 8) &&
        s.future (some (s.jobVf gr)) tFut == .open_ && s.jobOf tFut == some 1)] = true := by decide +kernel

/-- A launch of one block of slice 0. -/
def tLn : Launch :=
  { cp := 0, q := 0, n := 0, node := none, slice := 0, vf := 0, record := 0, compl := 0, nblocks := 1, bthreads := 32, accu := 0, tiers := [],
    tmpl := { tBlk with partw := 0x01020040, ngroups := 1, bthreads := 32, scratch := 0, accu := 0, vgran := 1, sgran := 1, divd := 1, shares := [], placed := false },
    status := 1, turn := true, placed := [], caps := [], retired := 0, held := [], refused := [], seen := [], failed := false, wit := 0, cut := false, sent := false }

/-- A state in which its queue is Active. -/
def tLs (x : Launch) : State :=
  { State.reset with slices := [(0, { st := .running, clusters := 1 })], launches := [(0, x)], nextId := 1,
                     cps := [(0, { nq := 1, queues := [(0, { st := .active })] })], vfs := [(0, { enabled := true })] }

/-- A group of the block whose threads have exited. -/
def tDead : Group := { tGr with lanes := List.replicate 32 { run := .exited } }

theorem witness_BlocksAndPlacement : allOf [
    goes (.blockEnd 0) (tBk { tGr with lanes := List.replicate 32 { run := .parked, fatal := true } }) (fun s => s.blockEnding 0),
    goes (.groupRetire 0) ((tBk tDead).putGroup 1 { tGr with groupid := 1 }) (fun s => s.mayRetire 0 tDead && (s.block 0).any (fun b => b.launch == none)),
    goes (.groupRetire 0) { (tLs tLn).putGroup 0 tDead with blocks := [(0, { tBlk with launch := some 0 })] } (fun s => s.mayRetire 0 tDead && !s.blockOps 0),
    goes (.preemptGroup 0) (tSt { tGr with priv := false }) (fun s => (s.group 0).any (fun gr => gr.between == 0 && gr.image == none)),
    goes (.preemptGroup 0) (tSt { tGr with priv := false, image := some 0x10000 }) (fun s => (s.group 0).any (fun gr => gr.between == 0)),
    goes (.blockPlace 0) (tLs tLn) (fun s => s.canPlace 0 tLn),
    goes (.launchTurnBegin 0) (tLs { tLn with turn := false }) (fun s => tLn.live && s.blocks == []),
    goes (.capacityHold 0 0) (tLs { tLn with tmpl := { tLn.tmpl with scratch := 2 ^ 24 } }) (fun s => tLn.live &&
      s.mustHold { tLn with tmpl := { tLn.tmpl with scratch := 2 ^ 24 } } 0),
    goes (.capacityHold 0 0) (tLs { tLn with held := [(0, true)] }) (fun s => tLn.live && !s.mustHold { tLn with held := [(0, true)] } 0)] = true := by
  decide +kernel

/-- A state in which VF 0 of slice 0 has the first GiB mapped onto itself by tables in pages 1 to 3, with some bytes in page 0. -/
def tVf (cs : List Host.Cell) : State :=
  { State.reset with mem := cs ++ [(0x1000, 0x01), (0x1001, 0x20), (0x2000, 0x01), (0x2001, 0x30), (0x3000, 0x73)],
                     slices := [(0, { st := .running, clusters := 1 })], vfs := [(0, { enabled := true, s1root := 0x1000, s2root := 0x1000 })],
                     regions := [(0, { kind := 1, vf := 0, tree := 0, slot := 0, root := [0, 0, 0] })] }

/-- Queue 0 of VF 0 has begun the entry there. -/
def tEn (ctl : W32) (addr value : W64) (fresh : Bool) (ws : List Host.Cell) : State :=
  { tVf ws with cps := [(0, { nq := 1, queues := [(0, { st := .active, begun := [⟨0, { ctl := ctl, addr := addr, value := value }, fresh, false⟩] })] })] }

/-- A launch record and header at 0x100 and 0x200. -/
def tRec (magic : Byte) : List Host.Cell :=
  [(0x101, 2), (0x110, 1), (0x114, 32), (0x200, magic), (0x201, 0x4B), (0x202, 0x4C), (0x203, 0x4F), (0x204, 1), (0x208, 1), (0x209, 1), (0x20A, 1),
   (0x20B, 3), (0x20C, 0x40), (0x20E, 2), (0x20F, 1), (0x214, 0xFF), (0x215, 0xFF)]

/-- What the launch entry takes from them. -/
def tHdr (s : State) (p : Option (Block × Nat) → List Byte → Bool) : Prop :=
  ∃ b rec hdr, s.freshEntry 0 0 1 = some b ∧ b.e.addr = 0x100 ∧ s.devAsks (cpG 0 0) 0 0x100 256 = none ∧ s.devBytes (cpG 0 0) 0 0x100 256 = some rec ∧ field rec 0 8 = 0x200 ∧
    s.devAsks (cpG 0 0) 0 0x200 256 = none ∧ s.devBytes (cpG 0 0) 0 0x200 256 = some hdr ∧ field hdr 0x16 2 = 0 ∧ s.devAsks (cpG 0 0) 0 0x200 0 = none ∧
    s.devWaits 0 0x11C = none ∧ p (header 0x200 hdr [] rec 0 0 0x100) rec = true

/-- VF 0 reaches the first two MiB through the tables of `tVf`, and nothing there is poisoned. -/
structure Mapped (s : State) : Prop where
  root : (s.vf 0).s1root = 0x1000 ∧ (s.vf 0).s2root = 0x1000
  own  : ∀ a < 2 ^ 21, s.backed a = true ∧ s.mayReach 0 false a = true
  e5   : s.nat 0x1000 8 = 0x2001 ∧ leNat (s.bytesBy none 0x1000 8) = 0x2001
  e4   : s.nat 0x2000 8 = 0x3001 ∧ leNat (s.bytesBy none 0x2000 8) = 0x3001
  e3   : s.nat 0x3000 8 = 0x73 ∧ leNat (s.bytesBy none 0x3000 8) = 0x73
  good : s.poison = [] ∧ s.badNodes = []
  tree : s.lineCtr = [] ∧ s.nodeCtr = [] ∧ s.regions = [(0, { kind := 1, vf := 0, tree := 0, slot := 0, root := [0, 0, 0] })]

theorem walkTree_low (rd : Nat → Nat → Walked Nat) (st a : Nat) (h : a < 2 ^ 21) (h5 : (rd 5 0x1000).2 = .ok 0x2001) (h4 : (rd 4 0x2000).2 = .ok 0x3001)
    (h3 : (rd 3 0x3000).2 = .ok 0x73) : (walkTree rd st a 5 0x1000).2 = .ok ⟨a, 2 ^ 30, 3, true, true, false, false, false⟩ := by
  have i4 : a / 2 ^ (12 + 9 * 4) % 512 = 0 := by omega
  have i3 : a / 2 ^ (12 + 9 * 3) % 512 = 0 := by omega
  have i2 : a / 2 ^ (12 + 9 * 2) % 512 = 0 := by omega
  rw [walkTree, i4]
  dsimp only
  rw [h5]
  dsimp only
  rw [if_neg (by decide), if_neg (by decide), if_neg (by decide), if_neg (by decide), walkTree, i3, show 0x2001 / 2 ^ 12 % 2 ^ 38 * 2 ^ 12 + 8 * 0 = 0x2000 from rfl]
  dsimp only
  rw [h4]
  dsimp only
  rw [if_neg (by decide), if_neg (by decide), if_neg (by decide), if_neg (by decide), walkTree, i2, show 0x3001 / 2 ^ 12 % 2 ^ 38 * 2 ^ 12 + 8 * 0 = 0x3000 from rfl]
  dsimp only
  rw [h3]
  dsimp only
  rw [if_neg (by decide), if_neg (by decide), if_pos (by decide), if_pos (by decide)]
  have m : a % pageBytes (0x73 / 4 % 8) = a := Nat.mod_eq_of_lt (by simp [pageBytes]; omega)
  rw [m]
  simp [pageBytes]

theorem stage2_low (s : State) (H : Mapped s) (a : Nat) (h : a < 2 ^ 21) :
    (s.stage2 0 a).2 = .ok ⟨a, 2 ^ 30, 3, true, true, false, false, false⟩ := by
  have b : ∀ p < 2 ^ 21, s.backed p = true := fun p hp => (H.own p hp).1
  unfold State.stage2
  dsimp only
  rw [H.root.2, walkTree_low _ 2 a h (by simp [State.stage2Entry, b, H.e5.2]) (by simp [State.stage2Entry, b, H.e4.2]) (by simp [State.stage2Entry, b, H.e3.2])]
  simp [(H.own a h).2]

theorem stage1_low (s : State) (H : Mapped s) (a n : Nat) (h : a < 2 ^ 21) (hn : s.nat a 8 = n) : (s.stage1Entry 0 a).2 = .ok n := by
  unfold State.stage1Entry
  dsimp only
  rw [stage2_low s H a h]
  simp [hn]

theorem walk_low (s : State) (H : Mapped s) (x : W64) (h : x.toNat < 2 ^ 21) :
    s.walk 0 x = .ok ⟨x.toNat, x.toNat, 2 ^ 30, 2 ^ 30, 2 ^ 30, true, true, false, false, false⟩ := by
  have c : canonical x = true := by
    have : x.extractLsb' 56 8 = 0 := by
      apply BitVec.eq_of_toNat_eq
      simp [BitVec.extractLsb'_toNat, Nat.shiftRight_eq_div_pow]
      omega
    simp [canonical, this]
  unfold State.walk State.walkAll
  simp only [c, Bool.not_true, Bool.false_eq_true, if_false, H.root.1]
  rw [Nat.mod_eq_of_lt (by omega : x.toNat < 2 ^ 57), walkTree_low _ 1 x.toNat h (stage1_low s H _ _ (by decide) H.e5.1)
    (stage1_low s H _ _ (by decide) H.e4.1) (stage1_low s H _ _ (by decide) H.e3.1)]
  dsimp only
  rw [stage2_low s H _ h]
  simp [entrySpan]

theorem macFails_low (s : State) (H : Mapped s) (line : Nat) : s.macFails line = none := by
  unfold State.macFails
  split
  · rfl
  · cases h : s.inTree line with
    | none => rfl
    | some t =>
      have hr : t.r = { kind := 1, vf := 0, tree := 0, slot := 0, root := [0, 0, 0] } := by
        unfold State.inTree State.regionOfLine at h
        cases ha : s.apSlice (128 * line) with
        | none => simp [ha] at h
        | some p =>
          obtain ⟨i, sl⟩ := p
          simp only [ha, State.region?, H.tree.2.2, Store.find] at h
          split at h
          · cases h
          · rename_i e
            split at h
            · cases h
              simp only [Option.map_eq_some_iff] at e
              obtain ⟨r, e1, e2⟩ := e
              cases e2
              split at e1
              · cases e1; rfl
              · cases e1
            · cases h
      simp [hr, Region.rootOf, State.treeCtr, H.tree.1, H.tree.2.1, Store.get]

theorem poisoned_low (s : State) (H : Mapped s) (a n : Nat) : s.poisoned a n = false := by
  simp [State.poisoned, State.macBad, macFails_low s H, State.nodeBad, H.good, Store.get]

theorem devBytes_low (s : State) (H : Mapped s) (n : Nat) : ∀ x : W64, x.toNat + n ≤ 2 ^ 21 → s.devBytes (cpG 0 0) 0 x n = some (s.bytes x.toNat n) := by
  induction n with
  | zero => intro x _; rfl
  | succ n ih =>
    intro x h
    have hn : ¬ hostBase ≤ x.toNat := by simp [hostBase]; omega
    have h1 : s.devRead (cpG 0 0) 0 x 1 = some [s.byte x.toNat] := by
      simp [State.devRead, walk_low s H x (by omega), hn, State.admits, poisoned_low s H, State.bytes]
    have ih' : s.devBytes (cpG 0 0) 0 (x + 1) n = some (s.bytes (x.toNat + 1) n) := by
      have e : (x + 1).toNat = x.toNat + 1 := by simp [BitVec.toNat_add]; omega
      rw [ih (x + 1) (by omega), e]
    rw [State.devBytes, h1, ih', State.bytes]

theorem devAsks_low (s : State) (H : Mapped s) (x : W64) (n : Nat) (h : ∀ i ≤ n / 128 + 1,
    (if i = 0 then x else (x &&& ~~~(127 : W64)) + BitVec.ofNat 64 (128 * i)).toNat < 2 ^ 21) : s.devAsks (cpG 0 0) 0 x n = none := by
  unfold State.devAsks
  rw [List.findSome?_eq_none_iff]
  intro i hi
  rw [List.mem_range] at hi
  dsimp only
  split
  · rw [walk_low s H _ (h i (by omega))]; simp [State.shadowAsk, State.racing]
  · rfl

theorem devWaits_low (s : State) (H : Mapped s) (x : W64) (h : x.toNat < 2 ^ 21) : s.devWaits 0 x = none := by
  unfold State.devWaits
  rw [walk_low s H x h]

theorem devWrite_low (s : State) (H : Mapped s) (x : W64) (h : x.toNat < 2 ^ 21) :
    s.devWrite? 0 x = some ⟨x.toNat, x.toNat, 2 ^ 30, 2 ^ 30, 2 ^ 30, true, true, false, false, false⟩ := by
  have hn : ¬ hostBase ≤ x.toNat := by simp [hostBase]; omega
  unfold State.devWrite?
  rw [walk_low s H x h]
  simp [State.admits, hn]

theorem own_low (s : State) (x : Slice) (h3 : s.slices = [(0, x)]) (h4 : ∀ a < 2 ^ 21, x.holds a = true) (hb : x.apbase = 0)
    (h5 : s.regions = [(0, { kind := 1, vf := 0, tree := 0, slot := 0, root := [0, 0, 0] })]) (h6 : (s.vf 0).slice = 0) (a : Nat) (ha : a < 2 ^ 21) :
    s.backed a = true ∧ s.mayReach 0 false a = true := by
  have h1 : ¬ hostBase ≤ a := by simp [hostBase]; omega
  have h2 : a / 2097152 = 0 := by omega
  have h7 : s.slice 0 = x := by simp [State.slice, h3, Store.get]
  constructor
  · simp [State.backed, State.apSlice, h3, h4 a ha]
  · simp only [State.mayReach, h1, if_false, h6, h7, h4 a ha, hb, State.region?, h5]
    simp [Store.find, h2]

theorem mapped_of (s : State) (hr : ((s.vf 0).s1root, (s.vf 0).s2root, (s.vf 0).slice) = (0x1000, 0x1000, 0))
    (hs : s.slices = [(0, { st := .running, clusters := 1 })]) (hg : s.regions = [(0, { kind := 1, vf := 0, tree := 0, slot := 0, root := [0, 0, 0] })])
    (h5 : s.nat 0x1000 8 = 0x2001 ∧ leNat (s.bytesBy none 0x1000 8) = 0x2001) (h4 : s.nat 0x2000 8 = 0x3001 ∧ leNat (s.bytesBy none 0x2000 8) = 0x3001)
    (h3 : s.nat 0x3000 8 = 0x73 ∧ leNat (s.bytesBy none 0x3000 8) = 0x73)
    (hp : (s.poison, s.badNodes) = ([], [])) (ht : (s.lineCtr, s.nodeCtr) = ([], [])) :
    Mapped s where
  root := by simp at hr; exact ⟨hr.1, hr.2.1⟩
  own := by
    refine own_low s { st := .running, clusters := 1 } hs (fun a ha => ?_) rfl hg (by simp at hr; exact hr.2.2)
    have : ({ st := .running, clusters := 1 } : Slice).apLen = 12884901888 := by decide +kernel
    rw [Slice.holds, this]
    simp
    omega
  e5 := h5
  e4 := h4
  e3 := h3
  good := by simp at hp; exact hp
  tree := by simp at ht; exact ⟨ht.1, ht.2, hg⟩

/-- The record's bytes. -/
def tRecBytes : List Byte := [0, 2, 0, 0, 0, 0, 0, 0, 0, 0, 0, 0, 0, 0, 0, 0, 1, 0, 0, 0, 32, 0, 0, 0] ++ List.replicate 232 0

/-- The header's bytes. -/
def tHdrBytes (m : Byte) : List Byte :=
  [m, 0x4B, 0x4C, 0x4F, 1, 0, 0, 0, 1, 1, 1, 3, 0x40, 0, 2, 1, 0, 0, 0, 0, 0xFF, 0xFF, 0, 0] ++ List.replicate 232 0

theorem tHdr_of (s : State) (m : Byte) (p : Option (Block × Nat) → List Byte → Bool) (H : Mapped s)
    (hb : (s.freshEntry 0 0 1).any (fun b => b.e.addr == 0x100) = true)
    (h1 : s.bytes 0x100 256 = tRecBytes) (h2 : s.bytes 0x200 256 = tHdrBytes m) (h3 : field (tHdrBytes m) 0x16 2 = 0)
    (h4 : p (header 0x200 (tHdrBytes m) [] tRecBytes 0 0 0x100) tRecBytes = true) : tHdr s p := by
  obtain ⟨b, hb, ha⟩ : ∃ b, s.freshEntry 0 0 1 = some b ∧ (b.e.addr == 0x100) = true := by simpa [Option.any_eq_true] using hb
  refine ⟨b, tRecBytes, tHdrBytes m, hb, by simpa using ha, devAsks_low s H _ _ (by decide), ?_, by decide +kernel, devAsks_low s H _ _ (by decide), ?_, h3,
    devAsks_low s H _ _ (by decide), devWaits_low s H _ (by decide), h4⟩
  · rw [devBytes_low s H 256 0x100 (by decide)]; exact congrArg some h1
  · rw [devBytes_low s H 256 0x200 (by decide)]; exact congrArg some h2

theorem witness_EntriesLaunch :
    tHdr (tEn 1 0x100 0 true (tRec 0x31)) (fun h rec => h.any (fun x => (recordOk rec x.2).isSome && (fit x.1).1 != 0)) :=
  tHdr_of _ 0x31 _ (mapped_of _ rfl rfl rfl (by decide +kernel) (by decide +kernel) (by decide +kernel) rfl rfl) (by decide +kernel) (by decide +kernel)
    (by decide +kernel) (by decide +kernel) (by decide +kernel)

theorem witness_EntriesBadHeader : tHdr (tEn 1 0x100 0 true (tRec 0x30)) (fun h _ => h.isNone && headerBad 0x200 (tHdrBytes 0x30)) :=
  tHdr_of _ 0x30 _ (mapped_of _ rfl rfl rfl (by decide +kernel) (by decide +kernel) (by decide +kernel) rfl rfl) (by decide +kernel) (by decide +kernel)
    (by decide +kernel) (by decide +kernel) (by decide +kernel)

/-- The launch is over in slice 0, which may be renewing its stamps. -/
def tOver (x : Launch) (renewing : Bool) : State :=
  { tVf [] with slices := [(0, { st := .running, clusters := 1, renewing := renewing })], launches := [(0, x)], nextId := 1,
                cps := [(0, { nq := 1, queues := [(0, { st := .active })] })] }

/-- Its completion may be told. -/
def tLast (x : Launch) (s : State) : Bool :=
  s.launchOver 0 x && !s.unitBusy (cpG 0 0) && s.devWaits 0 x.compl == none && s.devWaits 0 (x.record + 0x1C) == none

theorem witness_Entries : allOf [
    goes (.launch 0 0) (tEn 1 0x101 0 true []) (fun s => (s.freshEntry 0 0 1).any (fun b => b.e.addr.toNat % 256 != 0)),
    goes (.graph 0 0) (tEn 2 0x100 0 true []) (fun s => (s.freshEntry 0 0 2).any (fun b => b.e.value == 0) && s.devAsks (cpG 0 0) 0 0x100 0 == none),
    goes (.signal 0 0) (tEn 0x403 0x100 1 true []) (fun s => (s.freshEntry 0 0 3).any (fun b => b.e.sop) &&
      match s.walk 0 0x100 with | .ok tr => tr.w && tr.r && !tr.coh && tr.pa == 0x100 && !s.poisoned tr.pa 8 | .error _ => false),
    goes (.signal 0 0) (tEn 3 0x100 1 true []) (fun s => (s.freshEntry 0 0 3).any (fun b => !b.e.sop) &&
      (s.devWrite? 0 0x100).any (fun tr => tr.w && !s.devLater (cpG 0 0) 0 0x100 tr && !s.racing 0 true && decide (tr.pa + 8 ≤ s.sltbase + 0xC400))),
    goes (.signal 0 0) (tEn 3 0x100 1 false []) (fun s => s.freshEntry 0 0 3 == none && !s.unitBusy (cpG 0 0) && (s.queue 0 0).lost == []),
    goes (.signal 0 0) ((tEn 3 0x100 1 false []).updQueue 0 0 (fun x => { x with lost := [2] })) (fun s => s.freshEntry 0 0 3 == none &&
      !s.unitBusy (cpG 0 0) && (s.queue 0 0).lost != [] && (s.queue 0 0).st != .stopped),
    goes (.signal 0 0) (tEn 3 0x101 1 true []) (fun s => (s.freshEntry 0 0 3).isSome && match s.walk 0 0x101 with | .ok _ => true | .error _ => false),
    goes (.wait 0 0) (tEn 4 0x100 0 true []) (fun s => (s.freshEntry 0 0 4).any (fun b => b.e.cond == 0) && s.devAsks (cpG 0 0) 0 0x100 8 == none &&
      (s.devRead (cpG 0 0) 0 0x100 8).any (fun bs => leNat bs == 0)),
    goes (.wait 0 0) (tEn 4 0x100 1 true []) (fun s => (s.freshEntry 0 0 4).any (fun b => b.e.cond == 0) && s.devAsks (cpG 0 0) 0 0x100 8 == none &&
      (s.devRead (cpG 0 0) 0 0x100 8).any (fun bs => leNat bs == 0) && Store.find (s.cp 0).slots 0 == none),
    goes (.launchComplete 0) (tOver { tLn with retired := 1 } false) (fun s => tLast { tLn with retired := 1 } s &&
      (s.devWrite? 0 0).any (fun tr => !s.devLater (cpG 0 0) 0 0 tr)),
    goes (.launchComplete 0) (tOver { tLn with retired := 1 } true) (fun s => tLast { tLn with retired := 1 } s &&
      (s.devWrite? 0 0).any (fun tr => s.devLater (cpG 0 0) 0 0 tr)),
    goes (.launchComplete 0) (tOver { tLn with retired := 1, sent := true } false) (fun s => tLast { tLn with retired := 1, sent := true } s),
    goes (.graphNodeComplete 0) (tLs { tLn with node := some 0, status := 2 }) (fun s => s.nextId == 1 &&
      !({ tLn with node := some 0, status := 2 } : Launch).live)] = true := by decide +kernel

theorem witness_EntriesGraph : ∃ bs n, (tEn 2 0x100 1 true [(0x101, 2)]).devAsks (cpG 0 0) 0 0x100 32 = none ∧
    (tEn 2 0x100 1 true [(0x101, 2)]).devBytes (cpG 0 0) 0 0x100 32 = some bs ∧ nodeOf bs 1 = some n ∧ graphOk [n] = true := by
  have H : Mapped (tEn 2 0x100 1 true [(0x101, 2)]) := mapped_of _ rfl rfl rfl (by decide +kernel) (by decide +kernel) (by decide +kernel) rfl rfl
  exact ⟨_, { lrec := 0x200, npred := 0, succ := [], left := 0, launched := false, done := false }, devAsks_low _ H _ _ (by decide),
    devBytes_low _ H _ _ (by decide), by decide +kernel, by decide +kernel⟩

/-- The entry of a copy of 4 bytes in page 0. -/
def tCopy : State := tEn 5 0x100 0 true [(0x101, 2), (0x109, 3), (0x110, 4), (0x114, 1)]

theorem witness_EntriesCopy : ∃ bs, tCopy.devAsks (cpG 0 0) 0 0x100 64 = none ∧ tCopy.leastBusy (tCopy.sliceEngines (tCopy.cpSlice 0)) = some 0 ∧
    tCopy.devBytes (cpG 0 0) 0 0x100 64 = some bs ∧ (tCopy.freeSlot 0).isSome = true ∧ (bulkJob bs true 0 0 0 (fwCore 0) 0 0 0).any (fun j =>
      (j.readRows.flatMap (tCopy.pageTrs j false) ++ j.writeRows.flatMap (tCopy.pageTrs j true)).all JTr.isOk && tCopy.satAt 0 j.slice j.judge j.wit == .yes) = true := by
  have H : Mapped tCopy := mapped_of _ rfl rfl rfl (by decide +kernel) (by decide +kernel) (by decide +kernel) rfl rfl
  exact ⟨_, devAsks_low _ H _ _ (by decide), by decide +kernel, devBytes_low _ H _ _ (by decide), by decide +kernel, by decide +kernel⟩

/-- Queue 0 of VF 0 with its rows at 0x100 and 0x180, its guest page at 0x5000 and a valid signal entry at the ring. -/
def tRows (x : Queue) : State :=
  { tVf [(0x101, 0x50), (0x10C, 1), (0x10D, 1), (0x10E, 1), (0x186, 2), (0x188, 16), (0x18C, 1), (0x200, 3), (0x209, 3)] with
    cps := [(0, { qtbase := 0x100, vtbase := 0x180, nq := 1, queues := [(0, x)] })] }

/-- The same with the ring's base and size in the guest page. -/
def tStart : State := { tRows {} with mem := (tRows {}).mem ++ [(0x5001, 2), (0x5008, 16)] }

/-- Queue 0 waits on the word at 0x100. -/
def tWait (value : W64) (n : Nat) : State := 
  let s := (tEn 4 0x100 value false []).updQueue 0 0 (fun q => { q with st := .waiting, slot := if n = 0 then some 0 else none })
  s.updCp 0 (fun c => { c with slots := if n = 0 then [(0, 0)] else [], spill := if n = 0 then [] else [0] })

/-- The state once a refill has read the rows. -/
def tTaken : State :=
  (((tRows { st := .idle, ring := 0x200 }).readRow 0 0).takeRows 0 0
    { qcb := 0x5000, vf := 0, owner := 0, weight := 1, quota := 1, enable := 1, timeout := 0 } { nring := hostBase, nsize := 16, weight := 1 }).takeOwner 0 0 0

theorem witness_QueueRefill :
    ((tRows { st := .idle, ring := 0x200 }).mayRefill 0 0 = true ∧
      ((tRows { st := .idle, ring := 0x200 }).readRow 0 0).qrow 0 0 = some { qcb := 0x5000, vf := 0, owner := 0, weight := 1, quota := 1, enable := 1, timeout := 0 } ∧
      ((tRows { st := .idle, ring := 0x200 }).readRow 0 0).vrow 0 0 = some { nring := hostBase, nsize := 16, weight := 1 } ∧
      (tRows { st := .idle, ring := 0x200 }).rowsBacked 0 0 = true ∧ tTaken.refillAsk 0 0 0 0x5000 0x200 = none ∧
      (tTaken.devRead (cpG 0 0) 0 0x5010 8).isSome = true ∧ tTaken.tstate 0 = 0 ∧ (tTaken.devWrite? 0 0x5018).any (fun tr =>
        !tTaken.devLater (cpG 0 0) 0 0x5018 tr && !tTaken.racing 0 true && decide (tr.pa + 40 ≤ 0xC400)) = true) ∧
    ∃ bs, tTaken.devAsks (cpG 0 0) 0 0x200 64 = none ∧ tTaken.devBytes (cpG 0 0) 0 0x200 64 = some bs ∧ (entryOf bs).valid 0 = true ∧ (entryOf bs).bad bs = false := by
  have H : Mapped tTaken := mapped_of _ (by decide +kernel) (by decide +kernel) (by decide +kernel) (by decide +kernel) (by decide +kernel) (by decide +kernel)
    (by decide +kernel) (by decide +kernel)
  refine ⟨?_, _, devAsks_low _ H _ _ (by decide), devBytes_low _ H _ _ (by decide), by decide +kernel, by decide +kernel⟩
  decide +kernel

/-- A state in which the queue has begun an entry of type 4, with a limit. -/
def tTimed : State :=
  { tVf [] with cps := [(0, { queues := [(0, { st := .active, timeout := 1, begun := [⟨7, { ctl := 4, addr := 0, value := 0 }, false, false⟩] })] })] }

theorem witness_Queues : allOf [
    goes (.queueRefill 0 0) { tVf [] with cps := [(0, { queues := [(0, { st := .idle })] })] } (fun s => s.mayRefill 0 0 && s.rowsBacked 0 0 && ((s.readRow 0 0).qrow 0 0).isNone),
    goes (.refillTimer 0 0) { tVf [] with cps := [(0, { queues := [(0, { st := .idle })] })] } (fun s => s.mayRefill 0 0 && s.rowsBacked 0 0 && ((s.readRow 0 0).qrow 0 0).isNone),
    goes (.queueRefill 0 0) { tVf [] with cps := [(0, { qtbase := 0x4000000000000, queues := [(0, { st := .idle })] })] } (fun s => s.mayRefill 0 0 &&
      !s.rowsBacked 0 0),
    goes (.queueRefill 0 0) (tVf []) (fun s => (s.queue 0 0).st == .stopped),
    goes (.doorbell 0 511) (tVf []) (fun s => (s.queue 0 511).st == .stopped),
    goes (.entrySelect 0) (tRows { st := .ready, weight := 1, quota := 1, head := some { ctl := 3, addr := 0x300, value := 0 } }) (fun s => (s.selectQueue 0).isSome),
    goes (.waitSlotPoll 0 0) (tWait 0 0) (fun s => (s.waiting 0 0).any (fun b => match s.waitRead 0 0 b.e with | .met => true | _ => false)),
    goes (.spilledWaitPoll 0 0) (tWait 1 1) (fun s => (s.waiting 0 0).any (fun b => match s.waitRead 0 0 b.e with | .not => true | _ => false)),
    goes (.holdtExpired 0 0) (tWait 1 0) (fun s => (s.queue 0 0).slot != none),
    goes (.entryTimeout 0 0 7) tTimed (fun s => (s.queue 0 0).timeout != 0),
    goes (.queueStart 0 0x1000000000000000) (tStart.updMbox 0 0 (fun _ => { inb := [0x1000000000000000] })) (fun s =>
      (s.takeCmd 0 0x10 0x1000000000000000).any (fun u => (u.startQueue 0 0).2 && s.rowsBacked 0 0 &&
        let w := (u.updQueue 0 0 (fun x => { x with lost := [] })).readRow 0 0
        (w.qrow 0 0).isSome && (w.vrow 0 0).isSome && w.tstate 0 != 3 && (w.devWrite? 0 0x5018).isSome && !w.racing (w.vf 0).slice true) &&
      s.startAsk 0 0 == none),
    goes (.waitSlotPoll 0 0) { tWait 0 0 with poison := [(0x40, true)] } (fun s => (s.waiting 0 0).any (fun b => match s.waitRead 0 0 b.e with
      | .err _ => true | _ => false)),
    goes (.queueStop 0 0x1100000000000000) ((tRows { st := .idle }).updMbox 0 0 (fun _ => { inb := [0x1100000000000000] })) (fun s =>
      (s.takeCmd 0 0x11 0x1100000000000000).isSome)] = true := by decide +kernel

/-- Channel 0 with bank 0 as given. -/
def tCh (b : Bank) (c : Channel) : State := { State.reset with chans := [(0, { c with banks := [(0, b)] })] }

/-- The same, while core 48 runs. -/
def tBusy (b : Bank) : State := { tCh b {} with powered := true, groups := [(0, tGr)], cores := [(48, { active := [0] })] }

/-- Bank 0 of channel 0 is not refreshing and has no alert. -/
def tQuiet (s : State) : Bool := !(s.chan 0).refreshing 0 && !(s.chan 0).alertAt 0

theorem witness_Refresh : allOf [
    goes (.refreshDue 0 0) (tCh {} {}) (fun s => tQuiet s && !s.bankInUse 0 0),
    goes (.refreshDue 0 0) (tBusy { row := some 1, debt := 7 }) (fun s => tQuiet s && s.bankInUse 0 0),
    goes (.refreshDue 0 0) (tBusy { row := some 1, debt := 8 }) (fun s => tQuiet s && s.bankInUse 0 0),
    goes (.refreshDue 0 0) (tCh { busy := .rfm } {}) (fun s => (s.chan 0).refreshing 0 && !s.dueRepaid 0 0),
    goes (.refreshDue 0 0) (tCh { busy := .refab true, alert := some 160, alertTime := some 0 } {}) (fun s => s.dueRepaid 0 0),
    goes (.refpbRepay 0 0) (tCh { debt := 1 } {}) (fun s => tQuiet s && !(s.chan 0).alerted 0 && !s.bankInUse 0 0),
    goes (.refreshComplete 0 0) (tCh { busy := .refpb } {}) (fun s => (List.range 32).all (fun k => !((s.chan 0).bank k).due) && (s.chan 0).alerts == []),
    goes (.refreshComplete 0 0) (tCh { busy := .refab true, alert := some 160 } {}) (fun _ => true),
    goes (.refreshComplete 0 0) (tCh { busy := .rfm, alert := some 5, track := [{ row := 1, count := 9, vfs := [(3, 9)] }] } {}) (fun s =>
      ((s.chan 0).bank 0).topVf == some 3),
    goes (.rowPrecharge 0 0) { tCh { row := some 1 } {} with time := 1600 } (fun s => decide (((s.chan 0).bank 0).last + 1600 ≤ s.time)),
    goes (.activationThreshold 0 0 1) (tCh { track := [{ row := 1, count := 2048, vfs := [(3, 2000), (4, 48)] }] } {}) (fun s => tQuiet s && !(s.chan 0).alerted 0),
    goes (.throttleEnd 0 0 3) (tCh { throttled := [3] } {}) (fun _ => true),
    goes (.trackerWindowEnd 383 31) (tCh {} {}) (fun _ => true),
    goes (.alertBackOff 0 0) (tCh { debt := 8 } {}) (fun s => tQuiet s && !(s.chan 0).alerted 0 && ((s.chan 0).bank 0).dueTime == none),
    goes (.alertBackOff 0 1) (tCh { alert := some 160, busy := .rfm } {}) (fun s => (s.chan 0).alerted 1 && !(s.chan 0).alertAt 1)] = true := by decide +kernel

/-- A launched block with one group, at core 0 of slice 0. -/
def tUser : State :=
  { (tSl tGr).putGroup 0 { tGr with priv := false, core := 0 } with blocks := [(0, { tBlk with vf := 0, slice := 0, shares := [{ tSh with core := 0 }] })],
                                                                    nextId := 1, powered := true }

theorem witness_Errors : allOf [
    goes (.hbmScrubRead 0 .clean) (tSl tGr) (fun s => s.scrubMay 0 && [0, 1].all (fun p =>
      decide (((List.range 16).map (fun k => s.queuedAt 0 (16 * p + k))).foldl (· + ·) 0 < (s.chan 0).idleq.toNat))),
    goes (.hbmScrubRead 0 .uncorrectable) (tSl tGr) (fun s => s.scrubMay 0 && !s.l2Dirty 0 0 && (s.paOf 0 0).any (fun p =>
      [0, 1, 2, 3].all (fun k => s.treeNode (p + 32 * k) == none))),
    goes (.scrubEscalate 383 .clean) { tSl tGr with time := 2 ^ 47 } (fun s => s.escalates 383 && s.scrubMay 383),
    goes (.hbmUncorrectable 0 32) (tSl tGr) (fun s => (s.paOf 0 32).any (fun p => s.treeNode p == none) && s.l2 == []),
    goes (.hbmUncorrectable 0 32) (tVf []) (fun s => (s.paOf 0 32).any (fun p => (s.treeNode p).any (fun x => x.1 != 0 && (s.regionOfLine x.2).isSome)) &&
      s.l2 == []),
    goes (.l2Uncorrectable 0 3) { tSl tGr with l2 := [(0, { bank := 0, slice := 0, vf := 0, valid := 8, dirty := 8 })] } (fun _ => true),
    goes (.sramUncorrectable 195 .free) (tSl tGr) (fun _ => true),
    goes (.sramUncorrectable 0 (.l1 0 0)) (tSl tGr) (fun _ => true),
    goes (.sramUncorrectable 0 (.block 0)) tUser (fun s => Store.sorted s.groups && (s.block 0).any (fun b => !b.done && b.vf != fwVf)),
    goes (.sramUncorrectable 0 (.image 0)) tUser (fun s => (s.group 0).any (fun g => !g.priv)),
    goes (.sramUncorrectable 48 .firmware) (tBk tGr) (fun s => (s.fwOf 0).isSome),
    goes (.clusterNetworkError 0 0) tUser (fun s => s.blocks.all (fun e => e.2.shares.any (fun sh => (coresOf [0]).contains sh.core))),
    goes (.macMismatch 0 0) { tVf [] with lineCtr := [(0, 1)] } (fun s => (s.regionOfLine 0).any (fun r => r.2.2.1.kind == 1) && s.written 0),
    goes (.macMismatch 0 4) (tVf []) (fun s => (s.regionOfLine 0).any (fun r => r.2.2.1.kind == 1)),
    goes (.rootLost 0 0) (tVf []) (fun s => (s.slice 0).st != .free && (Store.find s.regions 0).any (fun r => r.kind == 1))] = true := by decide +kernel

/-- The group of slice 0 asks for a service. -/
def tSys (service : W16) (arg : W64) (s : State) : State :=
  s.putGroup 0 { tGr with priv := false, core := 0, sysq := some { service := service, arg := arg, dst := 0x104, reply := none } }

/-- A command in die 0's mailbox 0. -/
def tBox (cmd : W64) (s : State) : State := s.updMbox 0 0 (fun _ => { inb := [cmd] })

/-- VF 0 with a notification ring of 16 entries in host memory. -/
def tRing (p : W64) : State := ({ tUser with vfs := [(0, { enabled := true, nring := hostBase, nsize := 16, prod := p })], sltbase := 4096 } : State).updDie 0 (fun d => { d with bstate := 3 })

theorem witness_Services : allOf [
    goes (.sysNop 0) (tSys 0 0 tUser) (fun s => (s.sysWants 0 0).isSome),
    goes (.meter 0) (tSys 1 7 tUser) (fun s => (s.sysWants 0 1).isSome), goes (.meter 0) (tSys 1 6 tUser) (fun s => (s.sysWants 0 1).isSome),
    goes (.notify 0) (tSys 3 7 tUser) (fun s => (s.sysWants 0 3).isSome && !s.stalled (s.vf 0).slice && decide ((s.vf 0).nring < hostBase)),
    goes (.notify 0) (tSys 3 7 (tRing 16)) (fun s => (s.sysWants 0 3).any (fun x => s.jobVf x.1 == 0) && !s.stalled (s.vf 0).slice && s.nat (hostBase + 136) 8 == 0 &&
      (s.die 0).bstate == 3 && s.tstate 0 != 3),
    goes (.notify 0) (tSys 3 7 (tRing 15)) (fun s => (s.sysWants 0 3).any (fun x => s.jobVf x.1 == 0) && !s.stalled (s.vf 0).slice && s.nat (hostBase + 136) 8 == 0 &&
      (s.die 0).bstate == 3 && s.tstate 0 != 3),
    goes (.tlbinv 0) (tSys 4 1 tUser) (fun s => (s.sysWants 0 4).isSome && !s.tlbBusy 1 0 1),
    goes (.sysReply 0) (tSys 9 0 tUser) (fun _ => isService 9 == false),
    goes (.stage2InvalidatePage 0 0x0100000000000000) (tBox 0x0100000000000000 tUser) (fun s => (s.takeCmd 0 1 0x0100000000000000).isSome),
    goes (.stage2InvalidateVf 0 0x0200000000000000) (tBox 0x0200000000000000 tUser) (fun s => (s.takeCmd 0 2 0x0200000000000000).isSome),
    goes (.mailboxInbound 3 10 5) tUser (fun s => decide ((s.mbox 3 10).inb.length < 16)),
    goes (.mailboxInbound 0 0 0x3800000000000001) tUser (fun s => decide ((s.mbox 0 0).inb.length < 16) && !s.sec.doeBusy && !s.stalled 16),
    goes (.mbxin 3 5) tUser (fun _ => true),
    goes (.mbxout 3) tUser (fun _ => true),
    goes (.inpop 3 63) tUser (fun _ => true),
    goes (.outboundRingTake 0 10) (tUser.updMbox 0 10 (fun _ => { outb := [5] })) (fun s => (s.mbox 0 10).outb == [5]),
    goes (.noticePost 0) (tUser.updDie 0 (fun d => { d with notices := [5] })) (fun s => decide ((s.mbox 0 0).outb.length < 16)),
    goes (.haltTimerExpired 0) (tSt { tGr with haltq := some { dst := 0x104, us := 5 } }) (fun s => (s.group 0).any (fun gr => gr.haltq.any (fun h => h.us != 0 && Operand.ofSpec h.dst == .sreg 4))),
    goes (.registerWrite .hostManager 0x400018 0x3FF) tUser (fun _ => ioWin 0x400018 == some (.cp 0 0x18)),
    goes (.registerWrite .firmware 0x100060 0) tUser (fun _ => ioWin 0x100060 == some (.chan 0 0x60)),
    goes (.registerWrite .firmware 0x200808 5) tUser (fun _ => ioWin 0x200808 == some (.log 0 0x808)),
    goes (.registerWrite .other 0x400018 5) tUser (fun _ => true),
    goes .meterCopy (tRing 0) (fun s => s.backed (s.sltbase + 0x6400) && !s.partPoison (s.sltbase + 0x6400) 64)] = true := by decide +kernel

/-- The command block stands at the base of host memory. -/
def tWord (op : Nat) : W64 := BitVec.ofNat 64 (op * 2 ^ 56 + 2 ^ 49)

/-- A state in which the command, with those bytes in its block, stands in die 0's mailbox. -/
def tCm (op : Nat) (cs : List Host.Cell) (sl : Store Slice) : State :=
  ({ State.reset with mem := cs.map (fun (c : Host.Cell) => (hostBase + c.1, c.2)), slices := sl }).updMbox 0 0 (fun _ => { inb := [tWord op] })

/-- The controller takes the command, whose block has no fault, and `p` holds of the state and block. -/
def tOrd (op : Nat) (p : State → CmdBlk → Bool) (s : State) : Bool :=
  s.cmd == none && !s.anyStall && match s.takeCmd 0 op (tWord op) with
    | some u => (!rowCommands.contains op || u.backed u.sltbase) && (match u.cmdBlock (tWord op) with | some b => p u b | none => false)
    | none => false

/-- The controller takes the command and reads its block, and nothing is behind the slice table's rows. -/
def tBare (op : Nat) (s : State) : Bool :=
  s.cmd == none && !s.anyStall && match s.takeCmd 0 op (tWord op) with
    | some u => !u.backed u.sltbase && (u.cmdBlock (tWord op)).isSome
    | none => false

/-- A running slice of the clusters. -/
def tSlc (cl : BitVec 48) (ap : Nat) : Slice := { st := .running, clusters := cl, apbase := ap, migKey := some 0 }

/-- A recall of cluster 0 at a step. -/
def tRcl (n : Nat) : Recall := { cluster := 0, owner := 0, borrower := 1, step := n, cmd := none, die := 0 }

theorem witness_SliceCommands : allOf [
    goes (.table 0x2000000000000001) (tBox 0x2000000000000001 tUser) (fun s =>
      match s.takeCmd 0 0x20 0x2000000000000001 with | some u => u.cmdBlock 0x2000000000000001 == none | none => false),
    goes (.table (tWord 0x20)) (tCm 0x20 [(0x12, 1)] []) (tOrd 0x20 (fun u _ => u.slices == [])),
    goes (.create (tWord 0x21)) (tCm 0x21 [(8, 1)] []) (tOrd 0x21 (fun u b => createCheck u b == 0)),
    goes (.create (tWord 0x21)) (tCm 0x21 [(0, 16), (8, 1)] []) (tOrd 0x21 (fun u b => createCheck u b == 1)),
    allOf (([(.destroy, 0x22), (.lend, 0x25), (.recall, 0x26), (.merge, 0x27), (.split, 0x28), (.resize, 0x29), (.exportSlice, 0x2A),
      (.importSlice, 0x2B), (.core, 0x2C), (.flags, 0x2D)] : List ((W64 → Instr) × Nat)).map (fun e => goes (e.1 (tWord e.2)) (tCm e.2 [] []) (tBare e.2))),
    goes (.destroy (tWord 0x22)) (tCm 0x22 [(0, 15)] [(15, tSlc 1 0)]) (tOrd 0x22 (fun u b => b.sa == 15 && u.enabledIn 15 == [])),
    goes (.vfon (tWord 0x23)) (tCm 0x23 [(0x2C, 0x7F), (0x2D, 1)] [(0, tSlc 1 0)]) (tOrd 0x23 (fun u b => b.vf == 383 && u.backed (u.vfRowAt 383) &&
      field (u.bytes (u.vfRowAt 383) 64) 0x1C 2 == 0 && u.enabledIn 0 == [])),
    goes (.vfoff (tWord 0x24)) { tCm 0x24 [] [(0, tSlc 1 0)] with vfs := [(0, { enabled := true })] } (tOrd 0x24 (fun u b => b.vf == 0 && u.backed (u.vfRowAt 0))),
    goes (.core (tWord 0x2C)) (tCm 0x2C [(7, 3)] [(0, tSlc 1 0)]) (tOrd 0x2C (fun u b => decide (b.core < 4 * (u.slice 0).allClusters.length) && (u.slice 0).clusters &&& (u.slice 0).borrowed == 0)),
    goes (.flags (tWord 0x2D)) (tCm 0x2D [(4, 20)] [(0, tSlc 1 0)]) (tOrd 0x2D (fun u b => b.flagsOk && b.prot == (u.slice 0).prot)),
    goes (.region (tWord 0x30)) (tCm 0x30 [] [(0, tSlc 1 0)]) (tOrd 0x30 (fun u b => regionCheck u b == 0 && (u.slice b.sa).apbase % 32 == 0)),
    goes (.lend (tWord 0x25)) (tCm 0x25 [(1, 1)] [(0, tSlc 1 0), (1, tSlc 2 (2 ^ 35))]) (tOrd 0x25 (fun u b => b.sb == 1 && u.isRunning 0 && u.isRunning 1)),
    goes (.recall (tWord 0x26)) (tCm 0x26 [] [(0, { tSlc 1 0 with lent := 1 }), (1, { tSlc 2 (2 ^ 35) with borrowed := 1 })]) (tOrd 0x26 (fun u _ =>
      u.lending 0 == some (0, 1) && u.recalls == [])),
    goes (.recallJobDeadline 0) { tUser with recalls := [tRcl 2], jobs := [(1, { tJob .cpy with eng := 96, core := 0 })] } (fun s => s.clusterJobs 0 != [] && s.reqs == []),
    goes (.merge (tWord 0x27)) (tCm 0x27 [(1, 1)] [(0, tSlc 1 0), (1, { tSlc 2 (2 ^ 35) with cpn := 1, gen := 6 })]) (tOrd 0x27 (fun u b =>
      b.sb == 1 && u.delta 0 1 == 6 && u.apFree 0 2 [0, 1] && u.usedQueues 1 == [])),
    goes (.split (tWord 0x28)) (tCm 0x28 [(1, 1), (6, 1), (8, 2), (0x14, 8)] [(0, tSlc 3 0)]) (tOrd 0x28 (fun u b =>
      b.clusters == 2 && b.apb == 2 ^ 35 && b.cpn == 1 && u.apFree b.apb 1 [0] && !u.cpTaken 1)),
    goes (.resize (tWord 0x29)) (tCm 0x29 [(8, 3)] [(0, tSlc 1 0)]) (tOrd 0x29 (fun u b => b.maskOk && (b.clusters &&& u.ownedBut [0]) == 0 && u.apFree 0 2 [0])),
    goes (.importSlice (tWord 0x2B)) (tCm 0x2B [(6, 1), (8, 1), (0x14, 8), (0x1E, 2)] [(0, { migKey := some 0 }), (1, tSlc 2 0)]) (tOrd 0x2B (fun u b =>
      b.buf == hostBase && b.cpn == 1 && !u.cpTaken 1 && u.nat (b.buf + 6) 1 == 1 && b.apb == 2 ^ 35 && u.apFree b.apb 1 [] &&
      (u.slice b.sa).st == .free && b.clusters &&& u.ownedBut [] == 0))] = true := by decide +kernel

/-- The premise of EXPORT, whatever length the blob has. -/
theorem witness_Export : tOrd 0x2A (fun u b => u.isRunning b.sa && (u.slice b.sa).migKey.isSome && b.buf == hostBase && b.blen == 2 ^ 49 &&
      (u.enabledIn b.sa).length == 0 && (u.slice b.sa).apLen == 12 * 2 ^ 30)
    (tCm 0x2A [(0x1E, 2), (0x26, 2)] [(0, tSlc 1 0)]) = true ∧ ∀ n, blobLen (stateLen n) 0 (12 * 2 ^ 30) ≤ 2 ^ 49 := by
  refine ⟨by decide +kernel, fun n => ?_⟩
  have hc : certChain.length ≤ 65536 := List.length_take_le _ _
  have hs : stateLen n < 2 ^ 40 := Nat.mod_lt _ (by decide)
  unfold blobLen sealedLen
  omega

/-- The command in progress, at a step. -/
def tSc (op : Byte) (n : Nat) : SlCmd :=
  { cmd := 0, op := op, sa := 0, sb := 1, mask := 1, apb := 0, vfs := 0, cpn := 1, cl := 0, buf := hostBase, blen := 0, step := n, die := 0, exch := [] }

/-- Two slices, and the command in progress there. -/
def tDo (c : SlCmd) : State :=
  { State.reset with slices := [(0, { tSlc 1 0 with st := .quiescing }), (1, { tSlc 2 (2 ^ 35) with st := .quiescing, cpn := 1 })], cmd := some c }

/-- A firmware image of the version, whose body is the header of its kernel. -/
def tImg (version : Byte) : ImageView :=
  { header := [0x57, 0x46, 0x4C, 0x4F, version, 0, 1, 1, 0, 1] ++ List.replicate 1014 0, body := tHdrBytes 0x31, keyOk := true, sigOk := true, groups := 1 }

theorem headerBad_at (h : W64) (a : h.toNat % 256 = 0) : headerBad h (tHdrBytes 0x31) = false := by
  have e : field (tHdrBytes 0x31) 0x28 8 = 0 := by decide +kernel
  have l (k n : Nat) (hk : k + n ≤ 8) : h.extractLsb' k n = 0 := by
    apply BitVec.eq_of_toNat_eq
    simp only [BitVec.extractLsb'_toNat, Nat.shiftRight_eq_div_pow, BitVec.toNat_ofNat, Nat.zero_mod]
    have : (2 : Nat) ^ k * 2 ^ n ∣ h.toNat := (Nat.pow_add 2 k n ▸ (Nat.pow_dvd_pow 2 hk)).trans (Nat.dvd_of_mod_eq_zero a)
    exact Nat.mod_eq_zero_of_dvd (Nat.dvd_div_of_mul_dvd this)
  have z : atOff h (tHdrBytes 0x31) 0x28 = h := by unfold atOff; rw [e]; exact BitVec.add_zero h
  unfold headerBad
  dsimp only
  rw [z, a, l 3 3 (by decide), l 0 3 (by decide)]
  decide +kernel

/-- The kernel of the image starts wherever the code region lies. -/
theorem witness_FirmwareStart : ((State.reset.updDie 0 (fun d => { d with bstate := 2, image := some (tImg 1) })).die 0).image = some (tImg 1) ∧
    ∀ d, ∃ k, fwKernel (tImg 1) (codeBase d) = some k := by
  refine ⟨by decide +kernel, fun d => ?_⟩
  have ha : (codeBase d).toNat % 256 = 0 := by simp [codeBase]
  have ho : field (tImg 1).header 0x10 8 = 0 := by decide +kernel
  have hb : ((tImg 1).body.drop 0).take 256 = tHdrBytes 0x31 := by decide +kernel
  have hl : ¬ (tImg 1).body.length < 256 := by decide +kernel
  have hf : field (tHdrBytes 0x31) 0x16 2 = 0 := by decide +kernel
  have h0 : codeBase d + BitVec.ofNat 64 0 = codeBase d := BitVec.add_zero _
  unfold fwKernel
  rw [ho]
  dsimp only
  rw [hb, Nat.zero_add, if_neg hl, h0]
  unfold header
  rw [headerBad_at _ ha, hf]
  exact ⟨_, rfl⟩

/-- It has room for its answer. -/
def tRoom (s : State) : Bool := !s.anyStall && decide ((s.mbox 0 0).outb.length < 16) && s.jobs == [] && s.cores == [] && s.reqs == []

theorem witness_SliceSteps : allOf [
    goes (.quiesceStep 0) (tDo (tSc 0x25 0)) (fun s => tRoom s && s.blocksOn (coresOf [0]) == [] && s.clusterJobs 0 == []),
    goes (.quiesceStep 0) (tDo (tSc 0x2B 0)) (fun s => tRoom s && field (s.bytes hostBase 256) 0 4 != 0x4F4C5342),
    goes (.quiesceStep 0) (tDo (tSc 0x27 0)) tRoom, goes (.quiesceStep 0) (tDo (tSc 0x27 1)) tRoom, goes (.quiesceStep 0) (tDo (tSc 0x27 2)) tRoom,
    goes (.quiesceStep 0) (tDo { tSc 0x27 3 with exch := [0, 1] }) tRoom, goes (.quiesceStep 0) (tDo (tSc 0x27 4)) tRoom,
    goes (.quiesceStep 0) (tDo (tSc 0x27 5)) tRoom, goes (.quiesceStep 0) (tDo (tSc 0x27 6)) tRoom, goes (.quiesceStep 0) (tDo (tSc 0x27 8)) tRoom,
    goes (.haltCores (coresOf [0])) { tDo (tSc 0x27 2) with recalls := [tRcl 1] }
      (fun s => (s.recalls.find? (fun x => x.step == 1 && coresOf [x.cluster] == coresOf [0])).isSome),
    goes (.haltCores (coresOf [0, 1])) (tDo (tSc 0x27 3)) (fun s => s.involved (tSc 0x27 3) == coresOf [0, 1] && !(s.core 0).halted),
    goes (.gourdExchange 1 (coresOf [0])) { tDo (tSc 0x27 2) with recalls := [tRcl 2] }
      (fun s => s.clusterJobs 0 == [] && !s.anyStall && s.cores == [] && s.gourdFree (coresOf [0])),
    goes (.gourdExchange 0 (coresOf [0])) { tDo (tSc 0x27 3) with cores := (coresOf [0]).map (fun k => (k, { halted := true })) } (fun s =>
      coresOf (clustersOf (s.slice 0).clusters) == coresOf [0] && s.jobs == [] && s.cores.all (fun e => e.2.mq.isEmpty) && s.gourdFree (coresOf [0])),
    goes (.gourdWriteOut 0) { tUser with blocks := [(0, { tBlk with inGourd := true })] } (fun _ => true),
    goes (.timeSliceEnd 0) { tSt tGr with slices := [(0, { tSlc 1 0 with prot := true })], vfs := [(0, { enabled := true })] } (fun s => s.enabledIn 0 != [] && s.cores.all (fun e => e.2.mq.isEmpty) && s.jobs == [] &&
      s.gourdFree (coresOf (clustersOf (s.slice 0).clusters))),
    goes .boostLimit (tSt tGr) (fun s => !s.capped),
    goes (.powerGood 3 (tImg 1)) State.reset (fun s => (s.die 3).bstate == 0),
    goes (.powerGood 0 (tImg 1)) (State.reset.updDie 0 (fun d => { d with bstate := 1 })) (fun s => s.flashCopy 0 == none && imageStep (tImg 1) s.sec.fusecnt == 0),
    goes (.powerGood 3 (tImg 0)) ((State.reset.updDie 0 (fun d => { d with bstate := 3 })).updDie 3 (fun d => { d with bstate := 1 })) (fun s =>
      s.flashCopy 3 == none && imageStep (tImg 0) s.sec.fusecnt == 1),
    goes (.powerGood 3 (tImg 0)) ((State.reset.updDie 0 (fun d => { d with bstate := 3 })).updDie 3 (fun d => { d with bstate := 1, retried := true })) (fun s =>
      s.flashCopy 3 == none && imageStep (tImg 0) s.sec.fusecnt == 1),
    goes .powerLoss { tSt tGr with powered := true } (fun _ => true)] = true := by decide +kernel

/-- The host link is up. -/
def tHost (s : State) : State := s.updDie 0 (fun d => { d with bstate := 3 })

theorem witness_Attestation : allOf [
    goes (.doeDiscovery 2) (tHost tUser) State.hostUp, goes (.getMeasurements 3 8) (tHost tUser) State.hostUp,
    allOf ([(.doeDiscovery 2 : Instr), .getVersion 3, .getCapabilities 3, .negotiateAlgorithms 3, .getDigests 3, .keyExchange 3, .finish 3, .heartbeat 3,
      .keyUpdate 3, .endSession 3].map (fun e => goes e tUser (fun s => !s.hostUp))),
    goes (.getVersion 3) (tHost tUser) State.hostUp, goes (.getCapabilities 3) (tHost tUser) State.hostUp, goes (.negotiateAlgorithms 3) (tHost tUser) State.hostUp,
    goes (.getDigests 3) (tHost tUser) State.hostUp, goes (.getCertificate 3 1) (tHost tUser) State.hostUp, goes (.challenge 3 0) (tHost tUser) State.hostUp,
    goes (.heartbeat 3) { tHost tUser with sec := { sessions := [3] } } State.hostUp, goes (.keyUpdate 3) { tHost tUser with sec := { sessions := [3] } } State.hostUp,
    goes (.keyExchange 4) (tHost tUser) (fun s => !s.sec.sessions.contains 4),
    goes (.keyExchange 4) { tHost tUser with sec := { sessions := List.replicate 16 3 } } State.hostUp,
    goes (.finish 3) { tHost tUser with sec := { sessions := [3] } } State.hostUp, goes (.endSession 3) { tHost tUser with sec := { sessions := [3] } } State.hostUp,
    goes (.evidence 3 383 true 5) (tHost tUser) (fun s => s.hostUp && s.cmd == none && s.recalls == []),
    goes (.install 4 1 0 5 7) { tHost tUser with sec := { sessions := [3], layoutgen := 4 } } State.hostUp,
    goes (.install 3 1 0 5 7) { tHost tUser with sec := { sessions := [3], layoutgen := 4 } } (fun s => s.hostUp && s.tstate 0 != 1),
    goes (.install 3 2 0 5 7) { tHost tUser with sec := { sessions := [3], layoutgen := 4 } } State.hostUp,
    goes (.install 3 2 16 4 7) { tHost tUser with sec := { sessions := [3], layoutgen := 4 } } State.hostUp,
    goes (.install 3 1 0 0 7) { tHost tUser with sec := { sessions := [3] }, mem := [(0xC400, 1)] } (fun s => s.hostUp && s.tstate 0 == 1),
    goes (.install 3 2 15 0 7) { tHost tUser with sec := { sessions := [3] } } State.hostUp,
    goes (.keyProg 3 63 7) { tHost tUser with sec := { sessions := [3] } } (fun s => s.hostUp && !s.stalled 16), goes (.kSetGo 3 63) { tHost tUser with sec := { sessions := [3] } } (fun s => s.hostUp && !s.stalled 16),
    goes (.kSetStop 3 63) { tHost tUser with sec := { sessions := [3] } } (fun s => s.hostUp && !s.stalled 16)] = true := by decide +kernel

/-- A TDISP message of the code for VF 0, with more bytes. -/
def tMsg (op : Byte) (bs : List Byte) : List Byte := [0x10, op, 0, 0, 1, 0, 0, 0, 0, 0, 0, 0, 0, 0, 0, 0] ++ bs

/-- VF 0's interface in a state, and stream 0 going for it. -/
def tTd (st : Byte) : State :=
  { tHost (tSl tGr) with vfs := [(0, { enabled := true })], mem := if st = 0 then [] else [(0xC400, st)],
                         sec := { streams := [(0, { go := true, base := 1, limit := 1 })] } }

/-- The premise of the TDISP requests on the message. -/
def tAsk (op : Nat) (msg : List Byte) (s : State) : Bool :=
  s.hostUp && !s.stalled 16 && !s.sec.doeBusy && field msg 1 1 == op && msg != [] && decide (msg.length ≤ 4096) && field msg 0 1 == 0x10 && s.tdispVf msg == 0 &&
    decide ((s.mbox 0 0).inb.length < 16)

theorem witness_HostLink : allOf [
    goes (.lockInterfaceRequest 0xFF (tMsg 0x83 [])) (tTd 0) (tAsk 0x83 (tMsg 0x83 [])),
    goes (.lockInterfaceRequest 0 (tMsg 0x83 [0, 0, 0])) (tTd 0) (fun s => tAsk 0x83 (tMsg 0x83 [0, 0, 0]) s && s.tstate 0 == 0 && s.serves 0 0),
    goes (.getDeviceInterfaceReport 0 (tMsg 0x84 [0, 0, 52, 0])) (tTd 1) (fun s => tAsk 0x84 (tMsg 0x84 [0, 0, 52, 0]) s && s.tstate 0 == 1),
    goes (.startInterfaceRequest 0 (tMsg 0x86 (List.replicate 32 0))) (tTd 1) (fun s => tAsk 0x86 (tMsg 0x86 (List.replicate 32 0)) s && s.tstate 0 == 1 &&
      s.bytes (s.ifRow 0 + 0x10) 32 == List.replicate 32 0),
    goes (.startInterfaceRequest 0 (tMsg 0x86 (List.replicate 32 1))) (tTd 1) (fun s => tAsk 0x86 (tMsg 0x86 (List.replicate 32 1)) s && s.tstate 0 == 1 &&
      s.bytes (s.ifRow 0 + 0x10) 32 == List.replicate 32 0),
    goes (.stopInterfaceRequest 0 (tMsg 0x87 [])) (tTd 2) (tAsk 0x87 (tMsg 0x87 [])),
    goes (.unsupportedTdispRequest 0 (tMsg 0x88 [])) (tTd 0) (tAsk 0x88 (tMsg 0x88 [])),
    goes .tdispAbort (tTd 0) (fun s => decide ((s.mbox 0 0).inb.length < 16)),
    goes (.frozenRegisterWrite .numVfs 5) (tSt tGr) (fun s => !s.hostUp),
    goes (.frozenRegisterWrite .numVfs 5) (tTd 0) (fun s => s.hostUp && s.frozenFor .numVfs == [] && !s.stalled 16),
    goes (.frozenRegisterWrite .numVfs 5) (tTd 1) (fun s => s.frozenFor .numVfs == [0] && !s.stalled 16 && (s.cp (s.cpOf 0)).queues == [] && s.backed (s.ifRow 0) &&
      !s.poisoned (s.ifRow 0) 1 && s.inTree (s.ifRow 0 / 128) == none),
    goes (.wrongStreamTlp 63 383 true) (tTd 0) (fun s => !s.serves 63 383), goes (.wrongStreamTlp 63 383 false) (tTd 0) (fun s => !s.serves 63 383),
    goes (.hostMmio 0 4088 true true 0) (tTd 1) (fun s => s.hostUp && s.serves 0 0 && !s.mmioOk 0 true 0),
    goes (.hostMmio 0 4088 true true 63) (tTd 1) (fun s => s.hostUp && !s.serves 63 0),
    goes (.hostMmio 0 4088 true true 0) (tTd 0) (fun s => s.hostUp && s.serves 0 0 && s.mmioOk 0 true 0),
    goes (.hostMmio 0 4088 false true 0) (tTd 0) (fun s => s.hostUp && s.serves 0 0 && s.mmioOk 0 true 0),
    goes (.nymlinkRead 120 8) (tTd 0) (fun s => s.oneLine 120 8),
    goes (.nymlinkWrite 120 [1, 2]) { tTd 0 with sltbase := 4096 } (fun s => s.oneLine 120 2 && !s.partPoison 120 2 && !s.pkgRenewing && s.sees none 120 2 &&
      s.slices.all (fun x => x.2.race == 0))] = true := by decide +kernel

/-- The interface table of slice 0 is backed, as the TDISP statements ask. -/
theorem witness_InterfaceTable (a : Nat) (h : a < 0x15000) : (tTd 0).backed a = true ∧ (tTd 0).poisoned a 1 = false ∧ (tTd 0).inTree (a / 128) = none := by
  have it (line : Nat) : (tTd 0).inTree line = none := by
    unfold State.inTree State.regionOfLine
    cases (tTd 0).apSlice (128 * line) with
    | none => rfl
    | some p => rfl
  refine ⟨?_, ?_, it _⟩
  swap
  · have m (line : Nat) : (tTd 0).macFails line = none := by unfold State.macFails; rw [it]; split <;> rfl
    have b : (tTd 0).macBad a 1 = false := by unfold State.macBad; simp only [m]; simp
    have g : (tTd 0).poison = [] ∧ (tTd 0).badNodes = [] := ⟨rfl, rfl⟩
    unfold State.poisoned State.nodeBad
    rw [b, g.1, g.2]
    simp [Store.get]
  exact (own_low { tTd 0 with regions := [(0, { kind := 1, vf := 0, tree := 0, slot := 0, root := [0, 0, 0] })] } { st := .running, clusters := 1 } rfl
    (fun b hb => by
      have : ({ st := .running, clusters := 1 } : Slice).apLen = 12884901888 := by decide +kernel
      rw [Slice.holds, this]
      simp
      omega) rfl rfl rfl a (by omega)).1

/-- VF 0 has a route by port 0 to directory 3, and the request is in flight. -/
def tFb (q : Req) (f : Fabric) : State :=
  { tRq q with vfs := [(0, { enabled := true })], powered := true,
               fab := { f with routes := [{ vf := 0, base := 0, limit := 4095, ndir := 3, ndir2 := 5, porta := 0, portb := 15 }],
                               ports := [(0, { st := .normal, width := 3, level := [(0, 9)] })] } }

/-- A coherent access of VF 0. -/
def tCoh (k : ReqKind) : Req := { tReq k with coh := true, vf := 0, slice := 0 }

/-- A message from directory 3. -/
def tFm (kind : Nat) (data : List Byte) : FabMsg :=
  { kind := kind, crit := true, nc := false, poison := false, src := 0, ndir := 3, slice := 0, status := 0, tag := 7, fa := 0, stamp := 5, cseq := 1, off := 0,
    len := 0, aop := 0, wid := 0, shared := false, data := data }

/-- The request goes as a message of the kind. -/
def tSend (kind : Nat) (q : Req) (s : State) : Bool :=
  s.waitsAs 7 q kind && decide (s.remoteWaits (s.reqDie q) < 2048) && !s.earlierWaits 7 q 0 && s.shadowFirst q == none && (s.route 0 0).any (fun rt => s.wayOf rt == some 0 && (s.dirFor q rt kind).isSome &&
    decide ((fabTokens (s.reqMsg q rt kind (s.freshTag s.fab.nextTag 8193)) : Int) ≤ Store.get 0 (s.port 0).level 0))

theorem witness_FabricMessages : allOf [
    goes (.rd 7) (tFb (tCoh .load) {}) (tSend 1 (tCoh .load)), 
    goes (.rd 7) (tFb { tCoh .load with home := 0x205 } { failing := [{ dir := 3, tag := 1, slices := [0] }] }) (tSend 1 { tCoh .load with home := 0x205 }),
    goes (.rdx 7) (tFb (tCoh .store) {}) (tSend 2 (tCoh .store)),
    goes (.wr 7) (tFb (tCoh .store) { nc := [(0, 1)] }) (tSend 3 (tCoh .store)),
    goes (.atm 7) (tFb (tCoh (.atom .add false)) {}) (fun s => s.waitsAs 7 (tCoh (.atom .add false)) 4 &&
      s.shadowFirst (tCoh (.atom .add false)) == none && (s.route 0 0).any (fun rt => s.portUp rt.porta && !s.failingAt rt.ndir)),
    goes (.rd 7) { tFb (tCoh .load) {} with fab := {} } (fun s => s.waitsAs 7 (tCoh .load) 1 && s.route 0 0 == none && s.sameRead 7 (tCoh .load) == [(7, tCoh .load)]),
    goes (.probe 3) (tFb (tCoh .load) {}) (fun s => s.usersOf 3 != [] && (s.routeTo 3).isSome),
    goes (.remoteTimeout 7) (tFb { tCoh .load with fab := .sent 7 1 } {}) (fun s => (s.group 0).isSome),
    goes (.rsp (tFm 8 (List.replicate 128 0)) 0) (tFb { tCoh .load with fab := .sent 7 1 } { nc := [(0, 1)] }) (fun s =>
      s.arrives 8 (tFm 8 (List.replicate 128 0)) 0 && s.rspFits (tCoh .load) 1 (tFm 8 (List.replicate 128 0)) && s.ncMark 0 && !s.racing 0 (tCoh .load).rchk &&
      (tCoh .load).sp == none && s.sameRead 7 { tCoh .load with fab := .sent 7 1 } == [(7, { tCoh .load with fab := .sent 7 1 })]),
    goes (.rsp (tFm 8 (List.replicate 128 0)) 0) (tFb { tCoh .store with fab := .sent 7 2 } {}) (fun s =>
      s.arrives 8 (tFm 8 (List.replicate 128 0)) 0 && s.rspFits (tCoh .store) 2 (tFm 8 (List.replicate 128 0))),
    goes (.rsp (tFm 8 []) 0) (tFb (tCoh .load) {}) (fun s => s.arrives 8 (tFm 8 []) 0),
    goes (.rcl (tFm 9 []) 0) (tFb (tReq .load) { lines := [{ slice := 0, vf := 0, fa := 0, st := .M, data := [], stamp := 0 }] }) (fun s =>
      s.arrives 9 (tFm 9 []) 0 && (s.copiesOf 0).length == 1 && (s.route 0 0).isSome && !s.lineBusy 0),
    goes (.rcl (tFm 9 []) 0) (tFb { tCoh .load with fab := .sent 7 1 } {}) (fun s => s.arrives 9 (tFm 9 []) 0 && s.lineBusy 0 && s.copiesOf 0 == []),
    goes (.fail (tFm 11 []) 0) (tFb (tReq .load) {}) (fun s => s.arrives 11 (tFm 11 []) 0 && s.usersOf 3 == [0] && !s.failingAt 3),
    goes (.fail (tFm 11 []) 0) { tFb (tReq .load) {} with slices := [] } (fun s => s.arrives 11 (tFm 11 []) 0 && s.usersOf 3 == [] && !s.failingAt 3),
    goes (.badmsg (tFm 7 []) 0) (tFb (tReq .load) {}) (fun s => (s.port 0).st != .down),
    goes (.criticalDuplicate (tFm 8 []) 0) (tFb (tReq .load) { crx := [(3, 1)] }) (fun s => !s.inWindow (tFm 8 [])),
    goes (.lineEvict 0 0) (tFb (tReq .load) { lines := [{ slice := 0, vf := 0, fa := 0, st := .O, data := [], stamp := 0 }] }) (fun s =>
      !s.lineBusy 0 && (s.route 0 0).isSome),
    goes (.ncExpire 0) { tFb (tReq .load) { nc := [(0, 1)] } with time := 16000001 } (fun s => s.ncOver 0)] = true := by decide +kernel

/-- A powered package with port 15 as given. -/
def tPort (p : Port) : State := { State.reset with powered := true, fab := { ports := [(15, p)] } }

theorem witness_FabricLinks : allOf [
    goes (.linkTrained 15 4) (tPort {}) (fun s => (s.port 15).widest == 3), goes (.crcFailure 15 3) (tPort { st := .normal, width := 3 }) (fun _ => true),
    goes (.crcFailure 15 3) (tPort { st := .replay, flitFails := 2 }) (fun _ => true), goes (.replayPassed 15) (tPort { st := .replay }) (fun _ => true),
    goes (.retrain 15 false) (tPort { st := .retrain, trainFails := 2 }) (fun _ => true), goes (.retrain 15 true) (tPort { st := .retrain }) (fun _ => true),
    goes (.laneRetire 15 3) (tPort { st := .normal, health := [0, 0, 0, 4097] }) (fun s => s.fab.lhthresh == 4096),
    goes (.healthDecay 15) (tPort {}) (fun s => s.powered), goes (.tokenRefill 15) (tPort {}) (fun s => s.reqs == []),
    goes (.portDisable 15) { tPort {} with fab := { ports := [(15, { st := .normal })], disable := 0x8000 } } (fun s => s.fab.disable.getLsbD 15),
    goes .fabricStatusWrite { tPort {} with sltbase := 4096 } (fun s => s.powered),
    goes (.reload 0x3100000000000000) (tBox 0x3100000000000000 (tPort {})) (fun s => (s.takeCmd 0 0x31 0x3100000000000000).any (fun u => u.bucketsOk))] = true := by
  decide +kernel

/-- A pending group. -/
def tPend : Group := { tGr with groupid := 1, st := .pending }

/-- Two groups of core 48, one in its active place with the turn, the other as given. -/
def tYield (g1 : Group) : State := { tTwo tGr g1 { active := [0] } with cur := some tIss }

/-- Whether a yield gives its group's place up, as its statement tests it. -/
def tLeaves (f : FmtG) (s : State) (iss : Issue) (gr : Group) : Bool :=
  let gone := (gr.popQueues (queuesOf (.yield f))).advance iss (iss.path gr)
  let u := s.putGroup iss.g gone
  decide (gone.paths.length ≤ 1) && gr.st == .active && (s.core gr.core).maySwap &&
    (u.heir gone).isSome

theorem witness_HintsAndPrefetch : allOf [
    meets (.nop (tG 0x210 0x210 0x210 0x210 0)) false (tSt tGr) (fun _ _ _ _ => true),
    meets (.yield (tG 0x210 0x210 0x210 0x210 0)) false (tOne (tSt { tGr with lanes := [{ run := .running, pc := placedPc }, { run := .running, pc := 64 }] }))
      (fun s iss gr _ => (gr.lane 1).run == .running && (gr.lane 1).pc != iss.pc && !tLeaves (tG 0x210 0x210 0x210 0x210 0) s iss gr),
    meets (.yield (tG 0x210 0x210 0x210 0x210 0)) false (tYield tPend) (fun s iss gr _ => tLeaves (tG 0x210 0x210 0x210 0x210 0) s iss gr),
    meets (.pref (tM 0x210 8 0x210 0x210 0 0 0 0)) false (tSt tGr) (fun s _ gr ps => gr.haltq == none &&
      ps.all (fun l => s.effAsk (tM 0x210 8 0x210 0x210 0 0 0 0) gr l == none))] = true := by decide +kernel

theorem witness_ExitAndTraps : allOf [
    meets (.exit (tG 0x210 0x210 0x210 0x210 0)) false (tSt tGr) (fun s _ gr _ => s.bars.all (fun e => !e.2.covers e.1 gr)),
    meets (.trap (tG 0x210 0x210 0x210 0x210 5)) false (tSt tGr) (fun _ _ _ _ => true)] = true := by decide +kernel

/-- A word whose opcode, 0, is no instruction, unguarded. -/
def tNoInstr : W96 := 0x1FF0000000000000000000

theorem pair_of {α β : Type} (p : α × β) (b : β) (h : p.2 = b) : p = (p.1, b) := by
  cases p
  cases h
  rfl

/-- The pick at the head of the queue, with the word placed where its group fetches. -/
def tPick (w : W96) : State := { tPl w tGr with issueQ := [tIss] }

/-- The line that its first thread fetches. -/
def tLine (w : W96) : State × Fetched :=
  State.issueLine { tPick w with issueQ := [] } (tGr.toIssue tIss (laneMask (tIss.live tGr))) ((tIss.live tGr).headD 0) tIss.pc

theorem witness_fetchNop : ((tLine nopWord).2 == .line (lineOf nopWord)) = true := by decide +kernel

theorem witness_fetchNoInstr : ((tLine tNoInstr).2 == .line (lineOf tNoInstr)) = true := by decide +kernel

theorem witness_StepRunsDecoded (w : W96) (h : w = nopWord ∨ w = tNoInstr) :
    ∃ u d, (tPick w).fetches u tIss tGr d ∧ lineSlot d (tIss.pc.extractLsb' 0 3).toNat = w := by
  refine ⟨(tLine w).1, lineOf w, ⟨[], rfl, rfl, by decide +kernel, pair_of _ _ ?_, by decide +kernel, by decide +kernel⟩, ?_⟩
  · rcases h with rfl | rfl
    · exact beq_iff_eq.mp witness_fetchNop
    · exact beq_iff_eq.mp witness_fetchNoInstr
  · rcases h with rfl | rfl <;> decide +kernel

/-- A pick only waits when each of its lanes does. -/
theorem witness_Waits : allOf [!tIss.onlyWaits tGr,
    ({ tIss with lanes := 1 } : Issue).onlyWaits { tGr with lanes := [{ run := .running, pc := placedPc, wait := .engine }] }] = true := by decide +kernel

theorem witness_StepSlots : allOf [(decode nopWord).toOption.isSome, !(decode tNoInstr).toOption.isSome, fld 9 76 tNoInstr == 511] = true := by decide +kernel

theorem witness_FailedChecks : allOf [
    (encode (.add (tG 0x004 1 2 0x210 0x16000001))).isSome,
    (failedCheck tIss tGr (.rte (tS 0x210 0x210 0x210 0 0 0))).isNone,
    (failedCheck tIss { tGr with priv := false } (.tlbi (tS 0x210 0x210 0x210 0 4 0))) == some 2,
    (encode (.tlbi (tS 0x210 0x210 0x210 0 4 0))).isSome && tGr.passing (bareHdr 0x210) true (List.range 32) != []] = true := by decide +kernel

theorem witness_MemoryCanonical : State.reset.canonical ∧ (tPl nopWord tGr).canonical ∧
    goes (.nymlinkWrite 120 [1, 2]) (tTd 0) (fun s => Memory.wf s.mem && s.exports == []) = true :=
  ⟨⟨by unfold State.memOk; decide +kernel, by decide +kernel⟩, ⟨by unfold State.memOk; decide +kernel, by decide +kernel⟩, by decide +kernel⟩

end Sys2Proof.Tests
end

namespace Sys2Proof.Machine

/-! PROOFS. Register-result instructions (chapters 04 and 05): those that give a value in every thread complete with it, those that fault in every
thread that they read park it; then the integer, logic and lane instructions. -/

/-! ### From a formula to the instruction -/

/-- An instruction that is executed by the formula `f`, which gives an integer wherever `ok` holds of the operands, completes with it. -/
theorem givesIf_of_produce {i : Instr} {n : Nat} {ok : Group → Nat → Prop} {val : Group → List Nat → Nat → W128}
    (f : Group → List Nat → Nat → Res) (hf : ∀ gr ps l, ok gr l → f gr ps l = .int (val gr ps l))
    (hx : ∀ s, exec i s = produce i n f s := by intro s; rfl) : givesIf i n ok val :=
  fun s _ gr ps h hok => produce_completes h (hx s) (fun l hl => hf gr ps _ (hok l hl))

/-- As `givesIf_of_produce`, for a formula that gives an integer of all operands: mostly the value claimed by definition. -/
theorem gives_of_produce {i : Instr} {n : Nat} {val : Group → List Nat → Nat → W128} (f : Group → List Nat → Nat → Res)
    (hf : ∀ gr ps l, f gr ps l = .int (val gr ps l) := by intro gr ps l; rfl) (hx : ∀ s, exec i s = produce i n f s := by intro s; rfl) :
    gives i n val :=
  givesIf_of_produce f (fun gr ps l _ => hf gr ps l) hx

/-! ### Results that are faults -/

/-- Two updates that agree on the threads they change. -/
theorem Group.upd_congr {gr : Group} {ps : List Nat} {f g : Nat → Lane → Lane} (h : ∀ i ∈ ps, f i = g i) : gr.upd ps f = gr.upd ps g := by
  have e : (fun i l => if ps.contains i then f i l else l) = fun i l => if ps.contains i then g i l else l := by
    funext i l
    by_cases hi : i ∈ ps
    · simp [hi, h i hi]
    · simp [hi]
  rw [Group.upd, e, Group.upd]

/-- The fault is taken in each of the threads that exist (R260). -/
theorem Group.lane_parkEach (gr : Group) (ps : List Nat) (x : Nat → FaultInfo) (l : Nat) :
    (gr.parkEach ps (fun l => some (x l))).lane l = if l < gr.lanes.length ∧ l ∈ ps then (gr.lane l).park l gr.trapvec (x l) else gr.lane l :=
  Group.lane_upd _ _ _ _

/-- Taking faults leaves the registers and the places of the threads. -/
theorem Group.parkEach_kept (gr : Group) (ps : List Nat) (x : Nat → Option FaultInfo) (l : Nat) :
    (∀ r, ((gr.parkEach ps x).lane l).rd r = (gr.lane l).rd r) ∧ ((gr.parkEach ps x).lane l).pc = (gr.lane l).pc := by
  rw [Group.parkEach, Group.lane_upd]
  split
  · cases x l <;> exact ⟨fun _ => rfl, rfl⟩
  · exact ⟨fun _ => rfl, rfl⟩

/-- The threads read, the lowest alone or all, are among those in which the instruction takes effect (R25). -/
theorem mem_of_mem_read {c : Prop} [Decidable c] {ps : List Nat} {l : Nat} (h : l ∈ if c then ps.take 1 else ps) : l ∈ ps := by
  split at h
  · exact List.mem_of_mem_take h
  · exact h

/-- When every result is a fault, the threads read park in the group as it was before the issue (R127). -/
theorem Group.produce_faults {i : Instr} {gr' gr : Group} {iss : Issue} {path ps : List Nat} {n : Nat} {f : Group → List Nat → Nat → Res}
    {code : Byte} {extra : Nat → W32} (hf : ∀ l ∈ ps, f gr ps (leader i ps l) = .park code (extra l)) :
    gr'.produce gr iss path ps (use i).h n f =
      gr.parkEach (if isScalSpec (use i).h.dst then ps.take 1 else ps) (fun l => some (preciseFault code (extra l) iss.pc)) := by
  have hr : (if isScalSpec (use i).h.dst then fun _ => f gr ps (ps.headD 0) else f gr ps) = fun l => f gr ps (leader i ps l) := by
    unfold leader
    split <;> rfl
  have hfault : ∀ l ∈ ps, (f gr ps (leader i ps l)).fault? iss.pc = some (preciseFault code (extra l) iss.pc) :=
    fun l hl => by rw [hf l hl]; rfl
  have hnone : ps.filter (fun l => ((f gr ps (leader i ps l)).fault? iss.pc).isNone) = [] := by
    rw [List.filter_eq_nil_iff]
    intro l hl
    simp [hfault l hl]
  unfold Group.produce
  dsimp only
  rw [hr, hnone, if_pos rfl]
  refine Group.upd_congr fun l hl => ?_
  dsimp only
  rw [hfault l (mem_of_mem_read hl)]

/-- An instruction that is executed by the formula `f`, which gives a fault wherever `bad` holds of the operands, parks the threads read. -/
theorem parksIf_of_produce {i : Instr} {n : Nat} {code : Byte} {extra : Group → Nat → W32} {bad : Group → Nat → Prop}
    (f : Group → List Nat → Nat → Res) (hf : ∀ gr ps l, bad gr l → f gr ps l = .park code (extra gr l))
    (hx : ∀ s, exec i s = produce i n f s := by intro s; rfl) : parksIf i code extra bad := by
  intro s iss gr ps h hbad
  have hrun : exec i s = .next (s.putGroup iss.g _) :=
    (hx s).trans ((produce_issuing n f h).trans (by rw [Group.produce_faults (fun l hl => hf gr ps _ (hbad l hl))]))
  have hlane := Group.lane_parkEach gr (if isScalSpec (use i).h.dst then ps.take 1 else ps)
    (fun l => preciseFault code (extra gr (leader i ps l)) iss.pc)
  refine ⟨_, hrun, fun l hl => ?_, fun l hl => ?_, fun l => (Group.parkEach_kept gr _ _ l).1, fun l => (Group.parkEach_kept gr _ _ l).2, rfl⟩
  · rw [hlane, if_pos ⟨path_lt (issuing_path h l (mem_of_mem_read hl)), hl⟩]
    exact ⟨rfl, rfl, rfl, rfl, rfl⟩
  · rw [hlane, if_neg (fun hh => hl hh.2)]

/-! ### Integer arithmetic -/

/-- Settles O1: each instruction's formula is the value stated, and the instruction completes with it. -/
theorem integerArithmetic : Obligations.IntegerArithmetic :=
  ⟨⟨fun f => gives_of_produce (addRes f), fun f => gives_of_produce (subRes f), fun f => gives_of_produce (addKRes f),
    fun f => gives_of_produce (mulRes f), fun f => gives_of_produce (mulKRes f), fun f => gives_of_produce (mulhRes f),
    fun f => gives_of_produce (madRes f), fun f => gives_of_produce (madhRes f), fun f => gives_of_produce (minRes f),
    fun f => gives_of_produce (maxRes f), fun f => gives_of_produce (absRes f), fun f => gives_of_produce (negRes f),
    fun f => gives_of_produce (clampRes f), fun f => gives_of_produce (addminRes f), fun f => gives_of_produce (addmaxRes f)⟩,
    fun f => gives_of_produce (addcRes f), fun f => gives_of_produce (subbRes f)⟩

/-! ### Division -/

section
variable {f : FmtG} {gr : Group} {ps : List Nat} {l : Nat}

theorem divRes_of_ne (h : intB f gr l ≠ 0) : divRes f gr ps l = .int (f.ty.enc ((intA f gr l).tdiv (intB f gr l))) := if_neg h

theorem remRes_of_ne (h : intB f gr l ≠ 0) : remRes f gr ps l = .int (f.ty.enc ((intA f gr l).tmod (intB f gr l))) := if_neg h

theorem divRes_zero_nt (hp : perBit0 f = true) (h : intB f gr l = 0) : divRes f gr ps l = .int (f.ty.enc (-1)) := by
  rw [divRes, if_pos h, if_pos hp]

theorem remRes_zero_nt (hp : perBit0 f = true) (h : intB f gr l = 0) : remRes f gr ps l = .int (f.ty.enc (intA f gr l)) := by
  rw [remRes, if_pos h, if_pos hp]

theorem divRes_zero_trap (hp : perBit0 f = false) (h : intB f gr l = 0) : divRes f gr ps l = .park 0x09 0 := by
  rw [divRes, if_pos h, hp]; rfl

theorem remRes_zero_trap (hp : perBit0 f = false) (h : intB f gr l = 0) : remRes f gr ps l = .park 0x09 0 := by
  rw [remRes, if_pos h, hp]; rfl

end

/-- Settles O2, by the three cases of the formulas: a divisor that is not zero, a zero one under NT, a zero one without. -/
theorem division : Obligations.Division :=
  ⟨fun f => givesIf_of_produce (divRes f) fun _ _ _ => divRes_of_ne,
    fun f => givesIf_of_produce (remRes f) fun _ _ _ => remRes_of_ne,
    fun f hp => givesIf_of_produce (divRes f) fun _ _ _ => divRes_zero_nt hp,
    fun f hp => givesIf_of_produce (remRes f) fun _ _ _ => remRes_zero_nt hp,
    fun f hp => parksIf_of_produce (divRes f) fun _ _ _ => divRes_zero_trap hp,
    fun f hp => parksIf_of_produce (remRes f) fun _ _ _ => remRes_zero_trap hp⟩

/-! ### Logic, shifts and bit fields -/

/-- Settles O3: each instruction's formula is the value stated, bfe's in each of its three branches, and the instruction completes with it. -/
theorem bitwiseOperations : Obligations.BitwiseOperations := by
  refine ⟨⟨fun f => gives_of_produce (andRes f), fun f => gives_of_produce (orRes f), fun f => gives_of_produce (xorRes f),
    fun f => gives_of_produce (andnRes f), fun f => gives_of_produce (andKRes f), fun f => gives_of_produce (orKRes f),
    fun f => gives_of_produce (xorKRes f)⟩,
    ⟨fun f => gives_of_produce (shlRes f), fun f => gives_of_produce (shrRes f), fun f => gives_of_produce (sraRes f),
    fun f => gives_of_produce (rotRes f)⟩,
    fun f => gives_of_produce (bfeRes f) fun gr ps l => ?bfe, fun f => gives_of_produce (bfiRes f), fun f => gives_of_produce (popcRes f),
    fun f => gives_of_produce (clzRes f), fun f => gives_of_produce (ctzRes f), fun f => gives_of_produce (brevRes f)⟩
  case bfe =>
    unfold bfeRes
    dsimp only
    rw [apply_ite Res.int, apply_ite Res.int]
    rfl

/-! ### Compare, select, move -/

/-- Settles O4: each instruction's formula is the value stated, and the instruction completes with it. -/
theorem compareSelectMove : Obligations.CompareSelectMove :=
  ⟨fun f => gives_of_produce (cmpRes f), fun f => gives_of_produce (selRes f), fun f => gives_of_produce (movRes f),
    fun f => gives_of_produce (movkRes f), fun f => gives_of_produce (leaRes f), fun f => gives_of_produce (leaKRes f)⟩

/-! ### Lane instructions -/

/-- An instruction that executes once for the path and does not gather takes effect in the whole path (R25). -/
theorem issuing_once_eq_path {i : Instr} {s : State} {iss : Issue} {gr : Group} {ps : List Nat} (hg : gathers i = false)
    (h : issuing i true s = some (iss, gr, ps)) : ps = iss.path gr := by
  obtain ⟨-, -, hp, hne, -⟩ := issuing_spec h
  rw [Group.takers, hg, if_neg Bool.false_ne_true] at hp
  cases hpath : iss.path gr with
  | nil =>
    rw [hpath] at hp
    exact hp.symm
  | cons a rest =>
    rw [hpath] at hp
    have hguard : (if gr.guard (use i).h a then a :: rest else []) = ps := hp
    split at hguard
    · exact hguard.symm
    · exact absurd hguard.symm hne

/-- After a result has entered the latches and the path has moved on: of a group `g` whose threads are those of `gr` but for their registers, the
registers stay, the path stands at Next(PC), and the rest of each thread is that of `gr`. -/
theorem Group.lane_pushLatch_advance {gr g : Group} {iss : Issue} (hn : g.lanes.length = gr.lanes.length)
    (hl : ∀ l, (g.lane l).rest = (gr.lane l).rest ∧ (g.lane l).pc = (gr.lane l).pc ∧ (g.lane l).run = (gr.lane l).run)
    (ok : List Nat) (d : BitVec 10) (n : Nat) (w : Bool) (val : Nat → W128) (l : Nat) :
    let x := ((g.pushLatch (iss.path gr) ok d n w val).advance iss (iss.path gr)).lane l
    x.rest = (gr.lane l).rest ∧ x.pc = (if l ∈ iss.path gr then nextPc iss.pc else (gr.lane l).pc) ∧ ∀ r, x.rd r = (g.lane l).rd r := by
  obtain ⟨hrest, hpc, hrun, hrd⟩ := Group.lane_pushLatch g (iss.path gr) ok d n w val l
  obtain ⟨grest, gpc, grun⟩ := hl l
  have hlen : (g.pushLatch (iss.path gr) ok d n w val).lanes.length = gr.lanes.length := by rw [Group.pushLatch, Group.upd_length]; exact hn
  dsimp only
  rw [Group.lane_advance, hlen, hrun, grun]
  by_cases hp : l ∈ iss.path gr
  · rw [if_pos ⟨path_lt hp, hp, path_run hp⟩, if_pos hp]
    exact ⟨by rw [Lane.rest_goTo, hrest, grest], rfl, hrd⟩
  · rw [if_neg (fun hh => hp hh.2.1), if_neg hp]
    exact ⟨hrest.trans grest, hpc.trans gpc, hrd⟩

/-- Writing a destination leaves the rest of the group. -/
theorem Group.rest_writeDst (gr : Group) (d : BitVec 10) (n : Nat) (ps : List Nat) (val : Nat → W128) : (gr.writeDst d n ps val).rest = gr.rest := by
  have h : (gr.writeDst d n ps val).core3.rest = gr.core3.rest := by rw [(Group.writeDst_frame gr d n ps val).1]
  exact h

/-- Moving a path on leaves the rest of the group. -/
theorem Group.rest_advance (gr : Group) (iss : Issue) (ps : List Nat) : (gr.advance iss ps).rest = gr.rest := rfl

/-- Entering a result into the latches leaves the rest of the group. -/
theorem Group.rest_pushLatch (gr : Group) (path ok : List Nat) (d : BitVec 10) (n : Nat) (w : Bool) (val : Nat → W128) :
    (gr.pushLatch path ok d n w val).rest = gr.rest := rfl

/-- wrlane takes effect once, from the operands of the path's lowest thread. -/
theorem exec_wrlane {f : FmtG} {s : State} {iss : Issue} {gr : Group} {ps : List Nat} (h : issuing (.wrlane f) true s = some (iss, gr, ps)) :
    exec (.wrlane f) s = .next (s.putGroup iss.g (wrlaneGroup f iss gr (iss.path gr) (gr.popQueues (queuesOf (.wrlane f))))) := by
  have hx : exec (.wrlane f) s = issueWith (.wrlane f) true s (fun iss gr path _ s' => s'.updGroup iss.g (wrlaneGroup f iss gr path)) := rfl
  rw [hx, issueWith_issuing _ h, State.updGroup_putGroup]

/-- wrlane writes its value into lane L alone, whatever the lane's state (R141). -/
theorem wrlaneGroup_writes {f : FmtG} {iss : Issue} {gr : Group} {ks : List Nat} (hw : f.h.wbs = 0)
    (hm : laneOf f gr ((iss.path gr).headD 0) < gr.lanes.length) :
    let p := (iss.path gr).headD 0
    let gr' := wrlaneGroup f iss gr (iss.path gr) (gr.popQueues ks)
    gr.moved gr' iss ∧ gr.wrote gr' f.h f.ty.regs [laneOf f gr p] (fun _ => gr.src p f.a f.ty.regs) ∧
      (∀ l, (gr'.lane l).rest = (gr.lane l).rest) ∧ gr'.rest = gr.rest ∧ gr'.fpstat = gr.fpstat := by
  intro p gr'
  have hw1 : f.h.wbs ≠ 1 := by rw [hw]; decide
  generalize hv : gr.src p f.a f.ty.regs = v
  generalize hL : laneOf f gr p = m at hm
  have hgr' : gr' = (((gr.popQueues ks).writeDst f.h.dst f.ty.regs [m] (fun _ => v)).pushLatch (iss.path gr) [m] f.h.dst f.ty.regs false
      (fun _ => v)).advance iss (iss.path gr) := by
    simp only [gr', ← hv, ← hL, p, wrlaneGroup, beq_false_of_ne hw1, Bool.false_eq_true, if_false]
  obtain ⟨-, hn, hfp⟩ := Group.writeDst_frame (gr.popQueues ks) f.h.dst f.ty.regs [m] (fun _ => v)
  have hlane := Group.lane_pushLatch_advance (gr := gr) (iss := iss) hn (Group.lane_writeDst_rest _ _ _ _ _) [m] f.h.dst f.ty.regs false (fun _ => v)
  rw [hgr']
  refine ⟨fun l => (hlane l).2.1, ?_, fun l => (hlane l).1, ?_, hfp⟩
  · exact Group.wrote_writeDst (gr.popQueues ks) _ f.h f.ty.regs _ _ hw1 (List.cons_ne_nil _ _) (fun l hl => List.mem_singleton.mp hl ▸ hm)
      (fun l => (hlane l).2.2) (fun _ => rfl)
  · rw [Group.rest_advance, Group.rest_pushLatch, Group.rest_writeDst]
    rfl

/-- Settles O5: the formulas of the reading instructions are the values stated, lsh's with the lane in range and without, vote's in each mode;
wrlane writes one lane. -/
theorem laneInstructions : Obligations.LaneInstructions := by
  refine ⟨⟨fun f => gives_of_produce (vbcRes f), fun f => gives_of_produce (rdlaneRes f), fun f => gives_of_produce (shflRes f),
    fun f => gives_of_produce (lshRes f) fun gr ps l => ?lsh, ?wrlane⟩, fun f => gives_of_produce (voteRes f) fun gr ps l => ?vote,
    fun f => gives_of_produce (lredRes f), fun f => gives_of_produce (lscanRes f), fun f => gives_of_produce (dp4Res f)⟩
  case lsh =>
    by_cases hj : 0 ≤ (l : Int) - (gr.src32 l f.b).toInt ∧ (l : Int) - (gr.src32 l f.b).toInt ≤ 31
    · simp only [lshRes, lshFrom, if_pos hj]
    · simp only [lshRes, lshFrom, if_neg hj]
  case vote =>
    unfold voteRes
    dsimp only
    generalize f.per.toNat % 4 = mode
    match mode with
    | 0 | 1 | 2 | _ + 3 => rfl
  case wrlane =>
    intro f s iss gr ps b h hw hd m hm
    obtain rfl := issuing_once_eq_path rfl h
    obtain ⟨hmoved, hwrote, hrest, hgroup, hfp⟩ := wrlaneGroup_writes (ks := queuesOf (.wrlane f)) hw hm
    have hb : (f.h.wbs == 1) = false := by rw [hw]; decide
    rw [Group.wrote, hb, hd] at hwrote
    obtain ⟨hin, hout, hscal⟩ := hwrote
    exact ⟨_, exec_wrlane h, hmoved, hin m (List.mem_singleton_self m), fun l r hlr => hout l r (hlr.imp_left (mt List.mem_singleton.mp)), hscal,
      hrest, hgroup, hfp⟩

end Sys2Proof.Machine

namespace Sys2Proof.Machine

/-! PROOFS. Float instructions (chapter 05): a result none of whose exceptions is enabled in FPCTL is a value with its flags, so an instruction
whose formula gives a float result completes with it. -/

/-! ### From a float formula to the instruction -/

/-- A float result that raises no enabled exception is its value with its flags (R98–R100). -/
theorem Res.float_of_not_enabled {gr : Group} {x : FRes} (h : x.2 &&& gr.fpctl = 0) : Res.float gr x = .val (BitVec.ofNat 128 x.1) x.2 :=
  if_neg (not_not.mpr h)

/-- An instruction that is executed by the formula `f`, which gives the float result `r` of each thread's operands, completes with it where none
of its exceptions is enabled: mostly the result claimed by definition. -/
theorem givesF_of_produce {i : Instr} {r : Group → Nat → FRes} (f : Group → List Nat → Nat → Res)
    (hf : ∀ gr ps l, f gr ps l = .float gr (r gr l) := by intro gr ps l; rfl) (hx : ∀ s, exec i s = produce i 1 f s := by intro s; rfl) :
    givesF i r := by
  intro s iss gr ps h hmask
  have hval : ∀ l ∈ ps, f gr ps (leader i ps l) = .val (BitVec.ofNat 128 (r gr (leader i ps l)).1) (r gr (leader i ps l)).2 :=
    fun l hl => (hf gr ps _).trans (Res.float_of_not_enabled (hmask l hl))
  exact produce_completes h (hx s) hval

/-! ### Arithmetic, comparison and the approximate functions -/

/-- Settles O6: each instruction's formula is the float result stated, fclass's a raw value, the approximate functions' that of one formula for
all seven, and the instruction completes with it. -/
theorem floatOperations : Obligations.FloatOperations := by
  refine ⟨?arithmetic, ?comparison, ?approximate⟩
  case arithmetic =>
    exact ⟨fun f => givesF_of_produce (faddRes f), fun f => givesF_of_produce (faddKRes f), fun f => givesF_of_produce (fsubRes f),
      fun f => givesF_of_produce (fmulRes f), fun f => givesF_of_produce (fmulKRes f), fun f => givesF_of_produce (ffmaRes f),
      fun f => givesF_of_produce (fscaleRes f), fun f => givesF_of_produce (frndRes f), fun f => givesF_of_produce (frcpRes f),
      fun f => givesF_of_produce (fsqrtRes f)⟩
  case comparison =>
    exact ⟨fun f => givesF_of_produce (fminRes f), fun f => givesF_of_produce (fmaxRes f), fun f => givesF_of_produce (fcmpRes f),
      fun f => gives_of_produce (fclassRes f)⟩
  case approximate =>
    exact ⟨fun f => givesF_of_produce (approxRes .rsq f), fun f => givesF_of_produce (approxRes .ex2 f),
      fun f => givesF_of_produce (approxRes .lg2 f), fun f => givesF_of_produce (approxRes .sin f),
      fun f => givesF_of_produce (approxRes .cos f), fun f => givesF_of_produce (approxRes .tanh f),
      fun f => givesF_of_produce (approxRes .sigm f)⟩

end Sys2Proof.Machine

namespace Sys2Proof.Machine

/-! PROOFS. Control flow and divergence (chapter 06): what moving, parking and releasing threads leaves of a group; then regions, exit and the
traps. -/

/-! ### The threads of a group -/

section
variable {i : Instr} {once : Bool} {s : State} {iss : Issue} {gr : Group} {ps : List Nat}

/-- Only what becomes of the threads that pass, each as it stands, matters. -/
theorem Group.threads_congr {gr' : Group} {f f' : Nat → Lane → Lane} (hf : ∀ l ∈ ps, f l (gr.lane l) = f' l (gr.lane l))
    (h : gr.threads gr' iss ps f) : gr.threads gr' iss ps f' := by
  intro l
  rw [h l]
  split
  · rw [hf l ‹_›]
  · rfl

/-- The threads that pass change all at once, after the rest of the path has gone on (R183). -/
theorem Group.threads_upd_passedBy (h : issuing i once s = some (iss, gr, ps)) (ks : List Nat) (f : Nat → Lane → Lane) :
    gr.threads (((gr.popQueues ks).passedBy iss (iss.path gr) ps).upd ps f) iss ps f := by
  intro l
  have hlen : ((gr.popQueues ks).passedBy iss (iss.path gr) ps).lanes.length = gr.lanes.length := Group.upd_length _ _ _
  rw [Group.lane_upd, hlen, Group.passedBy_lane]
  by_cases hl : l ∈ ps
  · rw [if_pos ⟨path_lt (issuing_path h l hl), hl⟩, if_neg (fun hh => hh.2 hl), if_pos hl]
  · rw [if_neg (fun hh => hl hh.2), if_neg hl]
    simp only [hl, not_false_eq_true, and_true]

end

/-- Moving the path on and changing its threads touches the threads alone. -/
theorem Group.body_upd_passedBy (gr : Group) (iss : Issue) (path ps : List Nat) {f : Nat → Lane → Lane} :
    ((gr.passedBy iss path ps).upd ps f).body = gr.body :=
  (Group.upd_body _ ps f).trans (Group.passedBy_body gr iss path ps)

/-- Two updates of the same threads are one. -/
theorem Group.upd_upd (gr : Group) (ps : List Nat) (f f' : Nat → Lane → Lane) :
    (gr.upd ps f).upd ps f' = gr.upd ps (fun l x => f' l (f l x)) := by
  have hmap : ∀ (ls : List Lane) k, mapLanes (fun l x => if ps.contains l then f' l x else x) k
      (mapLanes (fun l x => if ps.contains l then f l x else x) k ls) =
        mapLanes (fun l x => if ps.contains l then f' l (f l x) else x) k ls := by
    intro ls
    induction ls with
    | nil => intro k; rfl
    | cons x xs ih =>
      intro k
      rw [mapLanes, mapLanes, mapLanes, ih]
      split <;> rfl
  exact congrArg (fun ls => { gr with lanes := ls }) (hmap gr.lanes 0)

/-- A lane, when every lane of the group has been changed alike. -/
theorem Group.lane_map {gr gr' : Group} {f : Lane → Lane} (h : gr'.lanes = gr.lanes.map f) (l : Nat) :
    gr'.lane l = if l < gr.lanes.length then f (gr.lane l) else gr.lane l := by
  split
  · next hl => simp [Group.lane, h, hl]
  · next hl =>
    have hl : gr.lanes.length ≤ l := Nat.le_of_not_lt hl
    rw [Group.lane_out gr l hl, Group.lane_out gr' l (by rw [h, List.length_map]; exact hl)]

/-! ### Regions -/

/-- No thread that has not exited holds the region (R193). -/
theorem Group.holds_eq_false_iff (gr : Group) (x : W16) :
    gr.holds x = false ↔ ∀ k < gr.lanes.length, (gr.lane k).run ≠ .exited → ∀ y a, ConvEntry.region y a ∈ (gr.lane k).stack → y ≠ x := by
  have hlane : ∀ k (hk : k < gr.lanes.length), gr.lane k = gr.lanes[k] := fun k hk => List.getD_eq_getElem _ _ hk
  unfold Group.holds
  rw [List.any_eq_false, List.forall_mem_iff_getElem]
  refine forall₂_congr fun k hk => ?_
  rw [hlane k hk, Bool.and_eq_true, not_and, Bool.not_eq_true, List.any_eq_false, bne_iff_ne]
  refine imp_congr_right fun _ => ⟨fun h y a hmem hy => h _ hmem (beq_iff_eq.mpr hy), fun h e he => ?_⟩
  cases e with
  | region y a => exact fun hy => h y a he (beq_iff_eq.mp hy)
  | call a => exact Bool.false_ne_true

/-- What the release makes of a thread (R193). -/
theorem Group.lane_release (gr : Group) (l : Nat) : gr.release.lane l =
    if (gr.lane l).run = .waiting ∧ gr.holds (gr.lane l).awaiting = false
    then { gr.lane l with run := .running, pc := nextPc (gr.lane l).pc, wait := .none, served := gr.turnNo } else gr.lane l := by
  rw [Group.lane_map (gr := gr) (gr' := gr.release) rfl]
  by_cases hl : l < gr.lanes.length
  · rw [if_pos hl]
  · rw [if_neg hl, Group.lane_out gr l (Nat.le_of_not_lt hl)]
    rfl

/-- The release touches the threads alone. -/
theorem Group.release_body (gr : Group) : gr.release.body = gr.body := rfl

/-- Where the target of a `rgn` is one and the stack has room, the thread enters the region (R191). -/
theorem rgnLane_enters {f : FmtJ} {iss : Issue} {gr : Group} {i : Nat} {l : Lane} (ht : f.tslot.toNat ≤ 4) (hd : l.stack.length < gr.divd) :
    rgnLane f iss gr i l = { l.goTo (nextPc iss.pc) with stack := .region (f.md.extractLsb' 0 16) (jTarget f iss.pc) :: l.stack } := by
  rw [rgnLane, if_neg (Nat.not_lt.mpr ht), if_neg (Nat.not_le.mpr hd)]

/-- Where the regions stand on the stack, the thread leaves them and waits at the join of the outermost (R194). -/
theorem brkLane_leaves {n : Nat} {iss : Issue} {gr : Group} {i : Nat} {l : Lane} {out : W16 × W64 × List ConvEntry}
    (h : popRegions n l.stack = some out) :
    brkLane n iss gr i l = { l.goTo out.2.1 with stack := out.2.2, run := .waiting, awaiting := out.1 } := by
  rw [brkLane, h]

section
variable {x y : W16} {a : W64} {rest : List ConvEntry} {iss : Issue} {i : Nat} {l : Lane}

/-- At the join of the region on top of its stack the thread leaves the region and waits (R192). -/
theorem joinLane_same (h : l.stack = .region x a :: rest) : joinLane x iss i l =
    { l with stack := rest, run := .waiting, awaiting := x, issued := l.issued + 1, wait := .none, exempt := false } := by
  simp only [joinLane, h, if_true]

/-- At the join of another region the thread goes on (R192). -/
theorem joinLane_other (h : l.stack = .region y a :: rest) (hy : y ≠ x) : joinLane x iss i l = l.goTo (nextPc iss.pc) := by
  simp only [joinLane, h, if_neg hy]

/-- Without a region on top of its stack the thread goes on (R192). -/
theorem joinLane_none (h : ∀ y a rest, l.stack ≠ .region y a :: rest) : joinLane x iss i l = l.goTo (nextPc iss.pc) := by
  unfold joinLane
  split
  · exact absurd ‹_› (h _ _ _)
  · rfl

end

/-- An instruction that changes each passing thread and has the regions examined again. -/
theorem inGroup_upd_release {i : Instr} {pre : State → Issue → Group → List Nat → Prop} {f : Issue → Nat → Lane → Lane}
    (F : Issue → Group → Nat → Lane → Lane)
    (hx : ∀ s, exec i s = issueWith i false s (fun iss gr path ps s' =>
      (s'.skip iss path ps).updGroup iss.g (fun g1 => (g1.upd ps (F iss gr)).release)))
    (hf : ∀ s iss gr ps, pre s iss gr ps → ∀ l ∈ ps, F iss gr l (gr.lane l) = f iss l (gr.lane l)) :
    inGroup i false pre (fun _ iss gr ps gr' =>
      ∃ g1 : Group, gr.threads g1 iss ps (f iss) ∧ g1.body = (gr.popQueues (queuesOf i)).body ∧ gr' = g1.release) := by
  intro s iss gr ps h hpre
  refine ⟨_, ?_, _, Group.threads_congr (hf s iss gr ps hpre) (Group.threads_upd_passedBy h (queuesOf i) (F iss gr)),
    Group.body_upd_passedBy _ _ _ _, rfl⟩
  rw [hx, issueWith_issuing _ h, State.skip_putGroup, State.updGroup_putGroup]

/-- An instruction that changes each passing thread in turn. -/
theorem inGroup_control_upd {i : Instr} {pre : State → Issue → Group → List Nat → Prop} {f : Issue → Nat → Lane → Lane}
    (F : Issue → Group → Nat → Lane → Lane)
    (hx : ∀ s, exec i s = control i s (fun iss gr k s' => s'.updGroup iss.g (fun g1 => g1.upd [k] (F iss gr))))
    (hf : ∀ s iss gr ps, pre s iss gr ps → ∀ l ∈ ps, F iss gr l (gr.lane l) = f iss l (gr.lane l)) :
    inGroup i false pre (fun _ iss gr ps gr' =>
      gr.threads gr' iss ps (f iss) ∧ gr'.body = (gr.popQueues (queuesOf i)).body) := by
  intro s iss gr ps h hpre
  obtain ⟨gr', hrun, hthreads, hbody⟩ := control_inGroup (I := fun _ => True) (F := fun k t => t.updGroup iss.g (fun g1 => g1.upd [k] (F iss gr)))
    (G := fun k g => g.upd [k] (F iss gr)) (f := F iss gr) h trivial
    (fun k g _ => ⟨State.updGroup_putGroup s iss.g g (fun g1 => g1.upd [k] (F iss gr)), trivial⟩)
    (fun k g l => by by_cases hl : l = k <;> simp [Group.lane_upd, hl])
    (fun k g => Group.upd_length _ _ _) (fun k g => rfl)
  refine ⟨gr', ?_, Group.threads_congr (hf s iss gr ps hpre) hthreads, hbody⟩
  rw [hx, control, issueWith_issuing _ h, hrun]

/-- Settles O12: what each instruction makes of a passing thread is the thread stated, and a thread is released by the test of R193. -/
theorem regions : Obligations.Regions := by
  refine ⟨fun f => ?rgn, fun f => ?join, fun f out => ?brk, fun gr l => ?release⟩
  case rgn =>
    refine inGroup_control_upd (rgnLane f) (fun _ => rfl) ?_
    rintro s iss gr ps ⟨ht, hd⟩ l hl
    exact rgnLane_enters ht (hd l hl)
  case join =>
    refine inGroup_upd_release (fun iss _ => joinLane (f.md.extractLsb' 0 16) iss) (fun _ => rfl) ?_
    intro s iss gr ps _ l _
    split
    · next y a rest hst =>
      split
      · next hy => rw [joinLane_same (hy ▸ hst), hy]
      · next hy => exact joinLane_other hst hy
    · next hst => exact joinLane_none hst
  case brk =>
    refine inGroup_upd_release (brkLane f.md.toNat) (fun _ => rfl) ?_
    intro s iss gr ps hpop l hl
    exact brkLane_leaves (hpop l hl)
  case release => exact (Group.lane_release gr l).trans (if_congr (and_congr_right' (Group.holds_eq_false_iff gr _)) rfl rfl)

end Sys2Proof.Machine

namespace Sys2Proof.Machine

/-! PROOFS. exit, trap and bkpt (R196, R198): what the barriers that count an exited thread leave of the machine, how a group retires with its
last thread, and the threads that park behind the instruction. -/

/-! ### What a barrier's event leaves -/

/-- Changing every value of a store changes each value that is found. -/
theorem Store.find_map {β : Type} (f : β → β) (m : Store β) (k : Nat) :
    Store.find (m.map (fun e => (e.1, f e.2))) k = (Store.find m k).map f := by
  induction m with
  | nil => rfl
  | cons e m ih =>
    obtain ⟨k', v⟩ := e
    rw [List.map_cons, Store.find, Store.find, ih]
    split <;> rfl

@[simp] theorem Lane.run_setBar (l : Lane) (b : BarWait) (w : W32) : (l.setBar b w).run = l.run := by
  unfold Lane.setBar
  split <;> rfl

@[simp] theorem Lane.run_leaveBar (l : Lane) (b : BarWait) (w : W32) : (l.leaveBar b w).run = l.run := Lane.run_setBar l b w

@[simp] theorem Lane.run_leaveLate (l : Lane) (sel : BarWait → Option W32) : (l.leaveLate sel).run = l.run := by
  refine List.foldlRecOn (motive := fun x : Lane => x.run = l.run) l.barLate _ rfl fun x hx b _ => ?_
  split
  · exact (Lane.run_setBar x b _).trans hx
  · exact hx

/-- Leaving a barrier changes no thread's run state: a thread that waits at one runs. -/
theorem Group.run_leaveBars (gr : Group) (sel : BarWait → Option W32) (l : Nat) : ((gr.leaveBars sel).lane l).run = (gr.lane l).run := by
  unfold Group.leaveBars
  dsimp only
  generalize hg1 : gr.lanes.foldl _ gr = g1
  have hlanes : g1.lanes = gr.lanes := by
    rw [← hg1]
    refine List.foldlRecOn (motive := fun g : Group => g.lanes = gr.lanes) gr.lanes _ rfl fun g hg x _ => ?_
    refine List.foldlRecOn (motive := fun g : Group => g.lanes = gr.lanes) x.barWaits _ hg fun g hg b _ => ?_
    split <;> exact hg
  have hlane : g1.lane l = gr.lane l := congrArg (fun ls => ls.getD l {}) hlanes
  rw [Group.lane_map (gr := g1) rfl, ← hlane]
  split
  · split
    · split
      · exact (Lane.run_leaveBar _ _ _).trans (Lane.run_leaveLate _ _)
      · exact Lane.run_leaveLate _ _
    · exact Lane.run_leaveLate _ _
  · rfl

/-- What barriers and the end of a group leave of the machine: its memory, its requests, its job slots and tiles, and the run state of every
thread. -/
structure State.KeepsRuns (s t : State) : Prop where
  mem : t.mem = s.mem
  reqs : t.reqs = s.reqs
  slots : t.slots = s.slots
  tiles : t.tiles = s.tiles
  runs : ∀ g gr, s.group g = some gr → ∃ gr', t.group g = some gr' ∧ ∀ l, (gr'.lane l).run = (gr.lane l).run

theorem State.KeepsRuns.refl (s : State) : s.KeepsRuns s := ⟨rfl, rfl, rfl, rfl, fun _ gr h => ⟨gr, h, fun _ => rfl⟩⟩

theorem State.KeepsRuns.trans {s t u : State} (h : s.KeepsRuns t) (h' : t.KeepsRuns u) : s.KeepsRuns u := by
  refine ⟨h'.mem.trans h.mem, h'.reqs.trans h.reqs, h'.slots.trans h.slots, h'.tiles.trans h.tiles, fun g gr hg => ?_⟩
  obtain ⟨gr1, hg1, hrun1⟩ := h.runs g gr hg
  obtain ⟨gr2, hg2, hrun2⟩ := h'.runs g gr1 hg1
  exact ⟨gr2, hg2, fun l => (hrun2 l).trans (hrun1 l)⟩

theorem State.keepsRuns_bars (s : State) (bars : Store BarSlot) : s.KeepsRuns { s with bars := bars } :=
  ⟨rfl, rfl, rfl, rfl, fun _ gr h => ⟨gr, h, fun _ => rfl⟩⟩

/-- A change of every group that leaves the run states of its threads. -/
theorem State.keepsRuns_mapGroups (s : State) (F : Group → Group) (hF : ∀ gr l, ((F gr).lane l).run = (gr.lane l).run) :
    s.KeepsRuns { s with groups := s.groups.map (fun e => (e.1, F e.2)) } :=
  ⟨rfl, rfl, rfl, rfl, fun g gr hg => ⟨F gr, (Store.find_map F s.groups g).trans (congrArg (Option.map F) hg), hF gr⟩⟩

theorem State.keepsRuns_leaveBars (s : State) (blk key : Nat) (sel : BarWait → Option W32) : s.KeepsRuns (s.leaveBars blk key sel) := by
  refine State.keepsRuns_mapGroups s
    (fun x => if x.blk = blk then x.leaveBars (fun b => if s.barKey x b.slot = slotHome key then sel b else none) else x) fun gr l => ?_
  split
  · exact Group.run_leaveBars gr _ l
  · rfl

theorem State.keepsRuns_testBar (s : State) (key : Nat) : s.KeepsRuns (s.testBar key) := by
  unfold State.testBar
  split
  · exact .refl s
  · dsimp only
    split
    · exact (s.keepsRuns_bars _).trans (State.keepsRuns_leaveBars _ _ _ _)
    · exact .refl s

theorem State.keepsRuns_barEvent (s : State) (key : Nat) (f : BarSlot → BarSlot) : s.KeepsRuns (s.barEvent key f) :=
  (s.keepsRuns_bars _).trans (State.keepsRuns_testBar _ key)

theorem State.keepsRuns_barExit (s : State) (gr : Group) (n : Nat) : s.KeepsRuns (s.barExit gr n) :=
  List.foldlRecOn (motive := s.KeepsRuns) _ _ (.refl s) fun _ ht key _ => ht.trans (State.keepsRuns_barEvent _ key _)

theorem State.keepsRuns_retiring (s : State) (g : Nat) : s.KeepsRuns (s.retiring g) := by
  unfold State.retiring
  split
  · exact .refl s
  · next gr hgr =>
    split
    · refine ⟨rfl, rfl, rfl, rfl, fun g' gr' hg' => ?_⟩
      by_cases h : g' = g
      · obtain rfl : gr = gr' := Option.some.inj (hgr.symm.trans (h ▸ hg'))
        exact ⟨{ gr with st := .retiring }, h ▸ Store.find_put_self _ _ _, fun _ => rfl⟩
      · exact ⟨gr', (Store.find_put_other s.groups _ h).trans hg', fun _ => rfl⟩
    · exact .refl s

/-! ### exit -/

/-- A thread after its exit (R196). -/
def Lane.exit (l : Lane) : Lane :=
  { l with run := .exited, issued := l.issued + 1, inHandler := false, wait := .none, bar := none, barLate := [] }

/-- The group when its passing threads have exited, before its regions are examined again. -/
def Group.exits (gr : Group) (f : FmtG) (iss : Issue) (ps : List Nat) : Group :=
  ((gr.popQueues (queuesOf (.exit f))).passedBy iss (iss.path gr) ps).upd ps (fun _ l => l.exit)

/-- What an exit makes of the threads, the rest of the group is as after the issue. -/
theorem Group.body_exits (gr : Group) (f : FmtG) (iss : Issue) (ps : List Nat) :
    (gr.exits f iss ps).body = (gr.popQueues (queuesOf (.exit f))).body := Group.body_upd_passedBy _ iss _ ps

section
variable {a b : Group} (h : a.body = b.body)
include h

theorem Group.st_of_body : a.st = b.st := (congrArg Group.st h :)

theorem Group.core_of_body : a.core = b.core := (congrArg Group.core h :)

/-- Whether a slot counts a group depends on no thread of it. -/
theorem BarSlot.covers_of_body (x : BarSlot) (key : Nat) : x.covers key a = x.covers key b := by
  have hblk : a.blk = b.blk := (congrArg Group.blk h :)
  have hid : a.groupid = b.groupid := (congrArg Group.groupid h :)
  simp only [BarSlot.covers, hblk, hid, Group.core_of_body h]

end

theorem BarSlot.covers_popQueues (x : BarSlot) (key : Nat) (gr : Group) (ks : List Nat) : x.covers key (gr.popQueues ks) = x.covers key gr := rfl

/-- The exit of threads that no slot counts is no event of a barrier (R364). -/
theorem State.barExit_uncovered {s : State} {gr : Group} (h : s.bars.all (fun e => !e.2.covers e.1 gr) = true) (n : Nat) :
    s.barExit gr n = s := by
  have hnone : s.bars.filter (fun e => e.2.covers e.1 gr) = [] := by
    rw [List.filter_eq_nil_iff]
    intro e he
    simpa using List.all_eq_true.mp h e he
  rw [State.barExit, hnone]
  rfl

/-- A group with a thread left, or without an active place, stays as it is. -/
theorem State.retiring_putGroup_stays {s : State} {g : Nat} {x : Group} (h : x.allExited = false ∨ x.st ≠ .active) :
    (s.putGroup g x).retiring g = s.putGroup g x := by
  unfold State.retiring
  rw [State.group_putGroup]
  refine if_neg fun hret => ?_
  obtain ⟨hall, hst⟩ := (Bool.and_eq_true _ _).mp hret
  exact h.elim (fun hnot => Bool.false_ne_true (hnot.symm.trans hall)) (fun hne => hne (beq_iff_eq.mp hst))

/-- With its last thread a group that holds an active place retires and leaves it (R298). -/
theorem State.retiring_putGroup_last {s : State} {g c : Nat} {x : Group} (hc : x.core = c) (hall : x.allExited = true) (hst : x.st = .active) :
    (s.putGroup g x).retiring g =
      (s.putGroup g { x with st := .retiring }).updCore c (fun c => { c with active := c.active.filter (· != g) }) := by
  unfold State.retiring
  rw [State.group_putGroup]
  dsimp only
  rw [hall, hst, hc, State.putGroup_putGroup]
  rfl

/-- exit: the regions of the group are examined again, the slots that count it count its exited threads no more, and it retires with its last
thread (R196). -/
theorem exec_exit {f : FmtG} {s : State} {iss : Issue} {gr : Group} {ps : List Nat} (h : issuing (.exit f) false s = some (iss, gr, ps)) :
    ∃ (g0 : Group) (n : Nat), g0.body = (gr.popQueues (queuesOf (.exit f))).body ∧
      exec (.exit f) s = .next (((s.putGroup iss.g (gr.exits f iss ps).release).barExit g0 n).retiring iss.g) := by
  have hx : exec (.exit f) s = issueWith (.exit f) false s (fun iss _ path ps s' =>
    ((s'.skip iss path ps).updGroup iss.g (fun g1 => g1.upd ps (fun _ l => { l with issued := l.issued + 1 }))).exitLanes iss.g ps) := rfl
  rw [hx, issueWith_issuing _ h, State.skip_putGroup, State.updGroup_putGroup, State.exitLanes, State.group_putGroup]
  dsimp only
  rw [State.putGroup_putGroup, Group.upd_upd]
  exact ⟨_, _, Group.body_upd_passedBy _ _ _ _, rfl⟩

/-- A passing thread has exited, and no release changes that. -/
theorem Group.run_release_exits {f : FmtG} {s : State} {iss : Issue} {gr : Group} {ps : List Nat}
    (h : issuing (.exit f) false s = some (iss, gr, ps)) {l : Nat} (hl : l ∈ ps) : ((gr.exits f iss ps).release.lane l).run = .exited := by
  have hlane : (gr.exits f iss ps).lane l = (gr.lane l).exit := by
    rw [Group.exits, Group.threads_upd_passedBy h _ _ l, if_pos hl]
  rw [Group.lane_release, hlane, if_neg (fun hw => nomatch hw.1)]
  rfl

/-! ### trap and bkpt -/

/-- The passing threads park behind the instruction; the rest of the path goes on (R198). -/
theorem trapGroup_threads {i : Instr} {once : Bool} {s : State} {iss : Issue} {gr : Group} {ps : List Nat}
    (h : issuing i once s = some (iss, gr, ps)) (ks : List Nat) (code : Byte) (extra : W32) :
    gr.threads (trapGroup code extra iss (iss.path gr) ps (gr.popQueues ks)) iss ps (fun l x => parked gr code extra (nextPc iss.pc) l x) := by
  intro l
  have hpark : ((gr.popQueues ks).park ps (preciseFault code extra (nextPc iss.pc))).lane l =
      if l ∈ ps then parked gr code extra (nextPc iss.pc) l (gr.lane l) else gr.lane l := by
    rw [Group.park, Group.lane_upd]
    exact if_congr (and_iff_right_of_imp fun hl => path_lt (issuing_path h l hl)) rfl rfl
  have hlen : ((gr.popQueues ks).park ps (preciseFault code extra (nextPc iss.pc))).lanes.length = gr.lanes.length := Group.upd_length _ _ _
  refine (Group.lane_advance _ iss (iss.path gr) l).trans ?_
  rw [hpark, hlen]
  by_cases hl : l ∈ ps
  · rw [if_pos hl, if_pos hl, if_neg (fun hh => nomatch hh.2.2)]
  · rw [if_neg hl, if_neg hl]
    exact if_congr ⟨fun hh => hh.2.1, fun hp => ⟨path_lt hp, hp, path_run hp⟩⟩ rfl rfl

theorem trapGroup_body (code : Byte) (extra : W32) (iss : Issue) (path ps : List Nat) (gr : Group) :
    (trapGroup code extra iss path ps gr).body = gr.body := rfl

/-- An instruction that parks every passing thread behind itself. -/
theorem inGroup_trapGroup {i : Instr} (code : Byte) (extra : W32)
    (hx : ∀ s, exec i s = issueWith i false s (fun iss _ path ps s' => s'.updGroup iss.g (trapGroup code extra iss path ps))) :
    inGroup i false (fun _ _ _ _ => True) (fun _ iss gr ps gr' =>
      gr.threads gr' iss ps (fun l x => parked gr code extra (nextPc iss.pc) l x) ∧ gr'.body = (gr.popQueues (queuesOf i)).body) := by
  intro s iss gr ps h _
  refine ⟨_, ?_, trapGroup_threads h (queuesOf i) code extra, trapGroup_body code extra iss _ ps _⟩
  rw [hx, issueWith_issuing _ h, State.updGroup_putGroup]

/-- Settles O14: an exited thread stays exited through what barriers and the end of its group do; where no slot counts the group, its retirement
alone remains. -/
theorem exitAndTraps : Obligations.ExitAndTraps := by
  refine ⟨⟨?exited, ?uncounted⟩, fun f => inGroup_trapGroup _ _ (fun _ => rfl), fun f => inGroup_trapGroup _ _ (fun _ => rfl)⟩
  case exited =>
    intro f s iss gr ps h
    obtain ⟨g0, n, -, hrun⟩ := exec_exit h
    have hkeep := (State.keepsRuns_barExit (s.putGroup iss.g (gr.exits f iss ps).release) g0 n).trans (State.keepsRuns_retiring _ iss.g)
    obtain ⟨gr', hgr', hruns⟩ := hkeep.runs _ _ (State.group_putGroup s iss.g _)
    exact ⟨_, gr', hrun, hgr', fun l hl => (hruns l).trans (Group.run_release_exits h hl), hkeep.mem, hkeep.reqs, hkeep.slots, hkeep.tiles⟩
  case uncounted =>
    intro f s iss gr ps h hbars
    obtain ⟨g0, n, hbody, hrun⟩ := exec_exit h
    have hbars' : (s.putGroup iss.g (gr.exits f iss ps).release).bars.all (fun e => !e.2.covers e.1 g0) = true := by
      have hcovers : ∀ (x : BarSlot) key, x.covers key g0 = x.covers key gr :=
        fun x key => (BarSlot.covers_of_body hbody x key).trans (x.covers_popQueues key gr _)
      rw [State.putGroup_bars]
      simpa only [hcovers] using hbars
    rw [State.barExit_uncovered hbars'] at hrun
    have hbody' := (Group.release_body _).trans (Group.body_exits gr f iss ps)
    have hst' : (gr.exits f iss ps).release.st = gr.st := (Group.st_of_body hbody').trans rfl
    have hcore' : (gr.exits f iss ps).release.core = gr.core := (Group.core_of_body hbody').trans rfl
    refine ⟨gr.exits f iss ps, Group.threads_upd_passedBy h _ _, Group.body_exits gr f iss ps, fun hstays => ?stays, fun hall hst => ?retires⟩
    case stays =>
      rw [← hst'] at hstays
      rw [hrun, State.retiring_putGroup_stays hstays]
    case retires =>
      rw [← hst'] at hst
      rw [hrun, State.retiring_putGroup_last hcore' hall hst]

end Sys2Proof.Machine

namespace Sys2Proof.Machine

/-! PROOFS. Witness instructions (chapter 07): the fields of a Join, and what a witness instruction writes and leaves. -/

/-! ### The fields of a witness that is made (R209) -/

section
variable (kind : BitVec 2) (scope : BitVec 3) (gen : BitVec 4) (home stamp : Nat)

@[simp] theorem wKind_mkWit : wKind (mkWit kind scope gen home stamp) = kind := by
  rw [wKind, mkWit, BitVec.extractLsb'_append_eq_of_le (by decide), BitVec.extractLsb'_append_eq_of_le (by decide),
    BitVec.extractLsb'_append_eq_of_le (by decide), BitVec.extractLsb'_append_eq_of_le (by decide)]
  exact BitVec.extractLsb'_eq_self

@[simp] theorem wScope_mkWit : wScope (mkWit kind scope gen home stamp) = scope := by
  rw [wScope, mkWit, BitVec.extractLsb'_append_eq_of_le (by decide), BitVec.extractLsb'_append_eq_of_le (by decide),
    BitVec.extractLsb'_append_eq_of_le (by decide), BitVec.extractLsb'_append_eq_of_add_le (by decide)]
  exact BitVec.extractLsb'_eq_self

@[simp] theorem wGen_mkWit : wGen (mkWit kind scope gen home stamp) = gen := by
  rw [wGen, mkWit, BitVec.extractLsb'_append_eq_of_le (by decide), BitVec.extractLsb'_append_eq_of_le (by decide),
    BitVec.extractLsb'_append_eq_of_add_le (by decide)]
  exact BitVec.extractLsb'_eq_self

theorem wHome_mkWit (h : home < 2 ^ 10) : wHome (mkWit kind scope gen home stamp) = home := by
  rw [wHome, mkWit, BitVec.extractLsb'_append_eq_of_le (by decide), BitVec.extractLsb'_append_eq_of_add_le (by decide)]
  exact (congrArg BitVec.toNat BitVec.extractLsb'_eq_self).trans ((BitVec.toNat_ofNat _ _).trans (Nat.mod_eq_of_lt h))

theorem wStamp_mkWit (h : stamp < 2 ^ 45) : wStamp (mkWit kind scope gen home stamp) = stamp := by
  rw [wStamp, mkWit, BitVec.extractLsb'_append_eq_of_add_le (by decide)]
  exact (congrArg BitVec.toNat BitVec.extractLsb'_eq_self).trans ((BitVec.toNat_ofNat _ _).trans (Nat.mod_eq_of_lt h))

end

theorem wHome_lt (w : W64) : wHome w < 2 ^ 10 := BitVec.isLt _

theorem wStamp_lt (w : W64) : wStamp w < 2 ^ 45 := BitVec.isLt _

/-! ### Join (R213) -/

/-- The greater of two scopes. -/
def maxScope (x y : BitVec 3) : BitVec 3 := if x.toNat < y.toNat then y else x

theorem toNat_maxScope (x y : BitVec 3) : (maxScope x y).toNat = max x.toNat y.toNat := by
  unfold maxScope
  split <;> omega

/-- The scope that must cover the home of an exact witness; a joined one names no home (R213). -/
def State.coverOf (s : State) (sl core : Nat) (w : W64) : BitVec 3 := if wKind w = 1 then s.cover sl core (wHome w) else 0

/-- The scope of a Join: the greatest of both scopes and those that cover the homes of the exact witnesses (R213). -/
def State.joinScope (s : State) (sl core : Nat) (a b : W64) : BitVec 3 :=
  maxScope (maxScope (wScope a) (wScope b)) (maxScope (s.coverOf sl core a) (s.coverOf sl core b))

/-- Two exact witnesses of one home. -/
def sameHome (a b : W64) : Prop := wKind a = 1 ∧ wKind b = 1 ∧ wHome a = wHome b

section
variable (s : State) (sl core : Nat) {a b : W64}

theorem State.le_joinScope (a b : W64) :
    (wScope a).toNat ≤ (s.joinScope sl core a b).toNat ∧ (wScope b).toNat ≤ (s.joinScope sl core a b).toNat := by
  simp only [State.joinScope, toNat_maxScope]
  omega

theorem State.join2_null_left (ha : wKind a = 0) : s.join2 sl core a b = b := if_pos ha

theorem State.join2_null_right (hb : wKind b = 0) (ha : wKind a ≠ 0) : s.join2 sl core a b = a := by
  rw [State.join2, if_neg ha, if_pos hb]

theorem State.join2_exact (ha : wKind a ≠ 0) (hb : wKind b ≠ 0) (h : sameHome a b) : s.join2 sl core a b =
    mkWit 1 (s.joinScope sl core a b) (s.genAt core sl) (wHome a) (max (wStamp a) (wStamp b)) := by
  rw [State.join2, if_neg ha, if_neg hb]
  exact if_pos h

theorem State.join2_joined (ha : wKind a ≠ 0) (hb : wKind b ≠ 0) (h : ¬ sameHome a b) : s.join2 sl core a b =
    mkWit 2 (s.joinScope sl core a b) (s.genAt core sl) 0x3FF (max (wStamp a) (wStamp b)) := by
  rw [State.join2, if_neg ha, if_neg hb]
  exact if_neg h

/-- Join of two witnesses that are not null, exact or joined: its stamp, generation and scope. -/
theorem State.join2_fields (ha : wKind a ≠ 0) (hb : wKind b ≠ 0) :
    let j := s.join2 sl core a b
    wStamp j = max (wStamp a) (wStamp b) ∧ wGen j = s.genAt core sl ∧ wScope j = s.joinScope sl core a b := by
  have hst : max (wStamp a) (wStamp b) < 2 ^ 45 := max_lt (wStamp_lt a) (wStamp_lt b)
  by_cases h : sameHome a b
  · rw [State.join2_exact s sl core ha hb h]
    exact ⟨wStamp_mkWit _ _ _ _ _ hst, wGen_mkWit _ _ _ _ _, wScope_mkWit _ _ _ _ _⟩
  · rw [State.join2_joined s sl core ha hb h]
    exact ⟨wStamp_mkWit _ _ _ _ _ hst, wGen_mkWit _ _ _ _ _, wScope_mkWit _ _ _ _ _⟩

/-- A Join is exact for two exact witnesses of one home alone; any other names no home. -/
theorem State.join2_kind (ha : wKind a ≠ 0) (hb : wKind b ≠ 0) :
    let j := s.join2 sl core a b
    (wKind j = 1 ↔ sameHome a b) ∧ (wKind j ≠ 1 → wKind j = 2 ∧ wHome j = 0x3FF) := by
  by_cases h : sameHome a b
  · simp [State.join2_exact s sl core ha hb h, h]
  · rw [State.join2_joined s sl core ha hb h]
    simp [h, wHome_mkWit]

end

/-! ### Observing a witness (R40) -/

/-- A witness that is observed changes OBS alone. -/
theorem State.observe_eq (s : State) (gr : Group) (w : W64) : ∃ o, s.observe gr w = { gr with obs := o } := by
  unfold State.observe
  split
  · split
    · exact ⟨gr.obs, rfl⟩
    · exact ⟨_, rfl⟩
  · exact ⟨gr.obs, rfl⟩

theorem State.observes_eq (s : State) (w : Nat → W64) (ls : List Nat) (gr : Group) :
    ∃ o, ls.foldl (fun g l => s.observe g (w l)) gr = { gr with obs := o } := by
  induction ls generalizing gr with
  | nil => exact ⟨gr.obs, rfl⟩
  | cons l ls ih =>
    obtain ⟨o, ho⟩ := s.observe_eq gr (w l)
    obtain ⟨o', ho'⟩ := ih (s.observe gr (w l))
    exact ⟨o', by rw [List.foldl_cons, ho', ho]⟩

/-! ### The threads that issue, and what they write -/

/-- The threads that issue are among those in which the instruction takes effect. -/
theorem mem_of_mem_issuers {once : Bool} {ps : List Nat} {l : Nat} (hne : ps ≠ []) (h : l ∈ issuers once ps) : l ∈ ps := by
  obtain ⟨p, rest, rfl⟩ := List.exists_cons_of_ne_nil hne
  cases once with
  | true => exact List.mem_singleton.mp h ▸ List.mem_cons_self
  | false => exact h

/-- The thread whose result another takes over issues. -/
theorem head_mem_issuers {once : Bool} {ps : List Nat} {l : Nat} (h : l ∈ ps) : (if once then ps.headD 0 else l) ∈ issuers once ps := by
  cases once with
  | true => exact List.mem_singleton_self _
  | false => exact h

/-- A thread that issues gives its own result. -/
theorem leader_of_mem_issuers {i : Instr} {ps : List Nat} {l : Nat} (h : l ∈ issuers (isScalSpec (use i).h.dst) ps) : leader i ps l = l := by
  unfold leader
  cases hd : isScalSpec (use i).h.dst with
  | true =>
    rw [hd] at h
    exact (List.mem_singleton.mp h).symm
  | false => rfl

/-- Only the values of the threads written matter. -/
theorem Group.writeDst_congr (gr : Group) (d : BitVec 10) (n : Nat) {ps : List Nat} {v w : Nat → W128} (h : ∀ l ∈ ps, v l = w l) :
    gr.writeDst d n ps v = gr.writeDst d n ps w := by
  unfold Group.writeDst
  split
  · exact Group.upd_congr fun l hl => by rw [h l hl]
  · cases ps with
    | nil => rfl
    | cons p rest => exact congrArg _ (h p List.mem_cons_self)
  · rfl

/-- A scalar destination takes the value of the first thread, so that writing it from the issuing threads is writing it from all (R25). -/
theorem Group.writeDst_issuers (gr : Group) (d : BitVec 10) (n : Nat) {ps : List Nat} (v : Nat → W128) (hne : ps ≠ []) :
    gr.writeDst d n (issuers (isScalSpec d) ps) v = gr.writeDst d n ps v := by
  obtain ⟨p, rest, rfl⟩ := List.exists_cons_of_ne_nil hne
  unfold Group.writeDst isScalSpec
  cases Operand.ofSpec d <;> rfl

/-! ### What a witness instruction leaves -/

/-- An instruction that may not forward its result alone has WBS clear (R67, R73 reason 9). -/
theorem wbs_of_check {iss : Issue} {gr : Group} {i : Instr} (hr : producesResult i = false) (h : failedCheck iss gr i = none) :
    (use i).h.wbs = 0 := by
  have hp : pairOk iss i = true := by
    unfold failedCheck at h
    dsimp only at h
    split_ifs at h with _ _ _ _ _ _ _ hp
    simpa using hp
  simpa [pairOk, hr] using (Bool.and_eq_true_iff.mp hp).1

section
variable {i : Instr} {once : Bool} {s : State} {iss : Issue} {gr : Group} {ps : List Nat}

/-- The group after a witness instruction: `v` written in the threads `ps`, OBS set to `o`, the path moved on. -/
def Group.witDone (gr : Group) (i : Instr) (n : Nat) (iss : Issue) (ps : List Nat) (v : Nat → W128) (o : W64) : Group :=
  ({ (gr.popQueues (queuesOf i)).writeDst (use i).h.dst n ps v with obs := o } : Group).advance iss (iss.path gr)

/-- Of a group `g` whose threads are those of `gr` but for their registers, moving the path on leaves the registers and the rest of each thread. -/
theorem Group.lane_advance_of {g : Group} (hn : g.lanes.length = gr.lanes.length)
    (hl : ∀ l, (g.lane l).rest = (gr.lane l).rest ∧ (g.lane l).pc = (gr.lane l).pc ∧ (g.lane l).run = (gr.lane l).run) (l : Nat) :
    let x := (g.advance iss (iss.path gr)).lane l
    x.rest = (gr.lane l).rest ∧ x.pc = (if l ∈ iss.path gr then nextPc iss.pc else (gr.lane l).pc) ∧ ∀ r, x.rd r = (g.lane l).rd r := by
  obtain ⟨hrest, hpc, hrun⟩ := hl l
  dsimp only
  rw [Group.lane_advance, hn, hrun]
  by_cases hp : l ∈ iss.path gr
  · rw [if_pos ⟨path_lt hp, hp, path_run hp⟩, if_pos hp]
    exact ⟨hrest, rfl, fun _ => rfl⟩
  · rw [if_neg (fun hh => hp hh.2.1), if_neg hp]
    exact ⟨hrest, hpc, fun _ => rfl⟩

/-- The group after a witness instruction differs from the one before in its destination, its place, its queues and OBS. -/
theorem Group.witDone_spec (h : issuing i once s = some (iss, gr, ps)) (hr : producesResult i = false) (n : Nat) (v : Nat → W128) (o : W64) :
    let gr' := gr.witDone i n iss ps v o
    gr.wrote gr' (use i).h n ps v ∧ gr.moved gr' iss ∧ (∀ l, (gr'.lane l).rest = (gr.lane l).rest) ∧
    gr'.oq = (gr.popQueues (queuesOf i)).oq ∧
    gr'.latch = gr.latch ∧ gr'.fpstat = gr.fpstat ∧ { gr'.rest with obs := 0 } = { gr.rest with obs := 0 } := by
  intro gr'
  obtain ⟨-, -, -, hne, hc, -⟩ := issuing_spec h
  have hw : (use i).h.wbs ≠ 1 := by rw [wbs_of_check hr hc]; decide
  obtain ⟨hcore, hn, hfp⟩ := Group.writeDst_frame (gr.popQueues (queuesOf i)) (use i).h.dst n ps v
  have hlane := Group.lane_advance_of (gr := gr) (iss := iss)
    (g := { (gr.popQueues (queuesOf i)).writeDst (use i).h.dst n ps v with obs := o }) hn (Group.lane_writeDst_rest _ _ _ _ _)
  refine ⟨?wrote, fun l => (hlane l).2.1, fun l => (hlane l).1, ?oq, ?latch, hfp, ?rest⟩
  case wrote =>
    exact Group.wrote_writeDst (gr.popQueues (queuesOf i)) _ (use i).h n ps v hw hne (fun l hl => path_lt (issuing_path h l hl))
      (fun l => (hlane l).2.2) (fun _ => rfl)
  case oq => exact (congrArg (fun g : Group => g.oq) hcore :)
  case latch => exact (congrArg (fun g : Group => g.latch) hcore :)
  case rest => exact congrArg (fun g : Group => { g.rest with obs := 0 }) hcore

end

/-! ### From a witness formula to the instruction -/

section
variable {i : Instr} {f : FmtM} {n : Nat} {r : State → Group → List Nat → Nat → WRes} {obs : State → Group → Nat → W64}

/-- Where every issuing thread's result is a value, the instruction writes it. -/
theorem witInstr_vals {s : State} {iss : Issue} {gr : Group} {ps : List Nat} {v : Nat → W128} (hh : (use i).h = f.h)
    (hs : ∀ g x l, r (s.putGroup g x) gr ps l = r s gr ps l) (h : issuing i (isScalSpec f.h.dst) s = some (iss, gr, ps))
    (hv : ∀ l ∈ issuers (isScalSpec f.h.dst) ps, r s gr ps l = .val (v l)) :
    ∃ o, witInstr i f n r obs s = .next (s.putGroup iss.g (gr.witDone i n iss ps v o)) := by
  obtain ⟨-, -, -, hne, -⟩ := issuing_spec h
  have hnowait : (issuers (isScalSpec f.h.dst) ps).any (fun l => r s gr ps l == .wait) = false :=
    List.any_eq_false.mpr fun l hl => by rw [hv l hl]; exact Bool.false_ne_true
  have hval : ∀ l ∈ ps, ∃ x, r s gr ps (if isScalSpec f.h.dst then ps.headD 0 else l) = .val x :=
    fun l hl => ⟨_, hv _ (head_mem_issuers hl)⟩
  obtain ⟨o, ho⟩ := (s.putGroup iss.g (gr.popQueues (queuesOf i))).observes_eq
    (fun l => obs (s.putGroup iss.g (gr.popQueues (queuesOf i))) gr l) (issuers (isScalSpec f.h.dst) ps)
    ((gr.popQueues (queuesOf i)).writeDst f.h.dst n ps v)
  refine ⟨o, ?_⟩
  unfold witInstr
  dsimp only
  rw [issueWith_issuing _ h]
  simp only [hs, hnowait, Bool.false_eq_true, if_false, State.updGroup_putGroup]
  rw [Group.parkEach_none, List.filter_eq_self.mpr, Group.writeDst_congr (w := v), Group.writeDst_issuers _ _ _ _ hne, ho, Group.witDone, hh]
  case h =>
    intro l hl
    rw [hv l hl]
  · intro l hl
    obtain ⟨x, hx⟩ := hval l (mem_of_mem_issuers hne hl)
    rw [hx]
    rfl
  · intro l hl
    obtain ⟨x, hx⟩ := hval l hl
    rw [hx]

/-- An instruction that is executed by the witness formula `r`, which gives a value wherever `pre` holds of an issuing thread, writes it. -/
theorem witnessGives_of_witInstr {pre : State → Group → List Nat → Nat → Prop} {val : State → Group → List Nat → Nat → W128}
    (hx : ∀ s, exec i s = witInstr i f n r obs s) (hh : (use i).h = f.h) (hp : producesResult i = false)
    (hs : ∀ s g x gr ps l, r (s.putGroup g x) gr ps l = r s gr ps l)
    (hr : ∀ s gr ps l, leader i ps l = l → pre s gr ps l → r s gr ps l = .val (val s gr ps l)) :
    witnessGives i f n (isScalSpec f.h.dst) pre val := by
  intro s iss gr ps h hpre
  have hv : ∀ l ∈ issuers (isScalSpec f.h.dst) ps, r s gr ps l = .val (val s gr ps l) := fun l hl =>
    hr s gr ps l (leader_of_mem_issuers (hh ▸ hl)) (hpre l hl)
  obtain ⟨o, ho⟩ := witInstr_vals (obs := obs) (n := n) hh (fun g x l => hs s g x gr ps l) h hv
  exact ⟨_, (hx s).trans ho, hh ▸ Group.witDone_spec h hp n (val s gr ps) o⟩

/-- While the result of an issuing thread must wait, the path waits and no queue is popped (R299). -/
theorem witInstr_waits {pre : State → Group → Nat → Prop} (hx : ∀ s, exec i s = witInstr i f n r obs s)
    (hs : ∀ s g x gr ps l, r (s.putGroup g x) gr ps l = r s gr ps l)
    (hr : ∀ s gr ps l, pre s gr l → r s gr ps l = .wait) :
    inGroup i (isScalSpec f.h.dst) (fun s _ gr ps => ∃ l ∈ issuers (isScalSpec f.h.dst) ps, pre s gr l)
      (fun _ iss gr _ gr' => gr' = gr.stay (iss.path gr) .witness) := by
  rintro s iss gr ps h ⟨l, hl, hpre⟩
  have hwait : (issuers (isScalSpec f.h.dst) ps).any (fun l => r s gr ps l == .wait) = true :=
    List.any_eq_true.mpr ⟨l, hl, by rw [hr s gr ps l hpre]; rfl⟩
  refine ⟨_, ?_, rfl⟩
  rw [hx, witInstr]
  dsimp only
  rw [issueWith_issuing _ h]
  simp only [hs, hwait, if_true, State.putGroup_putGroup]

end

/-! ### wjoin, wtest and wwait (R229, R231, R232) -/

section
variable (s : State) (g : Nat) (x gr : Group) (ps : List Nat) (l : Nat) (f : FmtM)

/-- A witness is judged by the counters and the job slots, whatever the groups hold. -/
theorem State.sat_putGroup (ask : Bool) (w : W64) : (s.putGroup g x).sat gr ask w = s.sat gr ask w := rfl

theorem State.standIn_putGroup (w : W64) : (s.putGroup g x).standIn gr w = s.standIn gr w := rfl

theorem State.join_putGroup (a b : W64) : (s.putGroup g x).join gr a b = s.join gr a b := rfl

theorem State.genOfGroup_putGroup :
    (s.putGroup g x).genAt gr.core ((s.putGroup g x).sliceOf gr) = s.genAt gr.core (s.sliceOf gr) := rfl

theorem wjoinRes_putGroup : wjoinRes f (s.putGroup g x) gr ps l = wjoinRes f s gr ps l := by
  rw [wjoinRes, State.join_putGroup, wjoinRes]

theorem wtestRes_putGroup : wtestRes f (s.putGroup g x) gr ps l = wtestRes f s gr ps l := by
  simp only [wtestRes, State.sat_putGroup, State.genOfGroup_putGroup]
  rfl

theorem wwaitRes_putGroup : wwaitRes f (s.putGroup g x) gr ps l = wwaitRes f s gr ps l := by
  simp only [wwaitRes, State.sat_putGroup, State.standIn_putGroup, State.genOfGroup_putGroup]
  rfl

end

section
variable {s : State} {gr : Group} {ps : List Nat} {l : Nat} {f : FmtM}

theorem wjoinRes_of_ok {w : W64} (h : s.join gr (gr.src64 l f.a) (gr.src64 l f.b) = .ok w) : wjoinRes f s gr ps l = .val (w.zeroExtend 128) := by
  rw [wjoinRes, h]
  rfl

/-- wtest gives its bit for a null witness and for one whose generation is not stale. -/
theorem wtestRes_of_fresh (h : wKind (gr.src64 l f.a) = 0 ∨ genAge (s.genAt gr.core (s.sliceOf gr)) (gr.src64 l f.a) < 8) :
    wtestRes f s gr ps l =
      .val (withBit (gr.dstVal l f.h.dst 1) (f.off.toNat % 32) (s.sat gr false (gr.src64 l f.a) == .yes)) := by
  have hfresh : ¬ (wKind (gr.src64 l f.a) ≠ 0 ∧ 8 ≤ genAge (s.genAt gr.core (s.sliceOf gr)) (gr.src64 l f.a)) :=
    fun ⟨hkind, hage⟩ => h.elim hkind (not_lt_of_ge hage)
  unfold wtestRes withBit
  dsimp only
  rw [if_neg hfresh]
  simp only [beq_iff_eq]

/-- wwait presents the witness that it reads (R214, R232). -/
theorem exec_wwait (f : FmtM) (s : State) :
    exec (.wwait f) s = witInstr (.wwait f) f 2 (wwaitRes f) (fun _ gr l => gr.src64 l f.a) s := rfl

/-- What a satisfied wwait writes: the stand-in of a future, the null witness for one of an earlier generation, and any other as it is. -/
def wwaitVal (f : FmtM) (s : State) (gr : Group) (l : Nat) : W128 :=
  let w := gr.src64 l f.a
  if wKind w = 3 then (s.standIn gr w).zeroExtend 128
  else if wKind w ≠ 0 ∧ genAge (s.genAt gr.core (s.sliceOf gr)) w ≠ 0 then 0 else w.zeroExtend 128

theorem wwaitRes_of_yes (h : s.sat gr true (gr.src64 l f.a) = .yes) : wwaitRes f s gr ps l = .val (wwaitVal f s gr l) := by
  unfold wwaitRes wwaitVal
  simp only [h, apply_ite WRes.val]

theorem wwaitRes_of_no (h : s.sat gr true (gr.src64 l f.a) = .no) : wwaitRes f s gr ps l = .wait := by
  unfold wwaitRes
  simp only [h]

end

/-! ### wjoinr (R230) -/

section
variable {f : FmtM} {s : State} {iss : Issue} {gr : Group} {ps : List Nat}

/-- wjoinr writes the Join of what the passing threads hold, from the null witness on. -/
theorem exec_wjoinr {w : Nat → W64} (h : issuing (.wjoinr f) false s = some (iss, gr, ps))
    (hw : ∀ l ∈ ps, s.joinArg gr (gr.src64 l f.a) = .ok (w l)) :
    ∃ o, exec (.wjoinr f) s = .next (s.putGroup iss.g (gr.witDone (.wjoinr f) 2 iss ps
      (fun _ => ((ps.map w).foldl (s.join2 (s.sliceOf gr) gr.core) 0).zeroExtend 128) o)) := by
  have harg : ∀ x, ∀ l ∈ ps, wjoinrArg f (s.putGroup iss.g x) gr l = .ok (w l) := fun _ => hw
  have hnowait : ∀ x, ps.any (fun l => wjoinrArg f (s.putGroup iss.g x) gr l == .wait) = false :=
    fun x => List.any_eq_false.mpr fun l hl => by rw [harg x l hl]; exact Bool.false_ne_true
  have hx : exec (.wjoinr f) s = execWjoinr f s := rfl
  rw [hx, execWjoinr, issueWith_issuing _ h, List.foldl_map]
  generalize hv : (fun _ => (ps.foldl (fun x l => s.join2 (s.sliceOf gr) gr.core x (w l)) 0).zeroExtend 128 : Nat → W128) = v
  refine ⟨((gr.popQueues (queuesOf (.wjoinr f))).writeDst f.h.dst 2 ps v).obs, ?_⟩
  simp only [hnowait, Bool.false_eq_true, if_false, State.updGroup_putGroup]
  rw [Group.parkEach_none, List.filter_eq_self.mpr, List.foldl_ext _ (fun x l => s.join2 (s.sliceOf gr) gr.core x (w l))]
  · rw [hv]
    rfl
  · intro x l hl
    rw [harg _ l hl]
    rfl
  · intro l hl
    rw [harg _ l hl]
    rfl
  · intro l hl
    rw [harg _ l hl]

/-- Where a vector guard passes in no thread, the checks let wjoinr through with the null witness written. -/
theorem prep_wjoinr_unpassed (hgreg : f.h.greg.toNat < 256) (hc : failedCheck iss gr (.wjoinr f) = none)
    (hgw : gr.guardWait f.h (iss.path gr) = none) (hp : gr.passing f.h false (iss.path gr) = []) (hsw : gr.specWait 0 f.h.dst 2 = none) :
    prep iss gr (.wjoinr f) false = .go (gr.writeDst f.h.dst 2 [0] (fun _ => 0)) [] := by
  have hh : (use (.wjoinr f)).h = f.h := rfl
  have hread : fromLowest (.wjoinr f) false = false := rfl
  have hun : gr.unpassed iss (.wjoinr f) = .go (gr.writeDst f.h.dst 2 [0] (fun _ => 0)) [] := by
    simp only [Group.unpassed, hc, hsw, Nat.not_le.mpr hgreg, Option.isSome_none, Bool.false_eq_true, or_self, if_false]
  unfold prep
  dsimp only
  rw [guardOk_of_check hc, if_neg Bool.false_ne_true, hread, if_neg Bool.false_ne_true, hh, hgw, hp]
  exact hun

theorem exec_wjoinr_unpassed (hcur : s.cur = some iss) (hg : s.group iss.g = some gr) (hgreg : f.h.greg.toNat < 256)
    (hc : failedCheck iss gr (.wjoinr f) = none) (hgw : gr.guardWait f.h (iss.path gr) = none) (hp : gr.passing f.h false (iss.path gr) = [])
    (hsw : gr.specWait 0 f.h.dst 2 = none) :
    exec (.wjoinr f) s = .next (s.putGroup iss.g ((gr.writeDst f.h.dst 2 [0] (fun _ => 0)).advance (iss.past (opcode (.wjoinr f))) (iss.path gr))) := by
  have hx : exec (.wjoinr f) s = execWjoinr f s := rfl
  rw [hx, execWjoinr, issueWith]
  simp only [hcur, hg, prep_wjoinr_unpassed hgreg hc hgw hp hsw]

/-- The registers after zero has been written to a scalar pair. -/
theorem Group.writeDst_zero_spec {b : Nat} (gr : Group) (iss : Issue) (path : List Nat) {d : BitVec 10} (hd : Operand.ofSpec d = .sreg b) :
    let gr' := (gr.writeDst d 2 [0] (fun _ => 0)).advance iss path
    (∀ r, gr'.rd r = if b ≤ r ∧ r < b + 2 then 0 else gr.rd r) ∧ ∀ l r, (gr'.lane l).rd r = (gr.lane l).rd r := by
  have hset : gr.writeDst d 2 [0] (fun _ => 0) = gr.setRegs b 2 0 := by
    unfold Group.writeDst
    rw [hd]
  dsimp only
  rw [hset]
  refine ⟨fun r => ?_, fun l r => ?_⟩
  · change (gr.setRegs b 2 0).rd r = _
    split
    · obtain ⟨k, rfl⟩ := Nat.exists_eq_add_of_le (show b ≤ r by omega)
      rw [Group.rd_setRegs _ _ _ _ _ (by omega)]
      simp
    · rcases Nat.lt_or_ge r b with hr | hr
      · exact Group.rd_setRegs_below _ _ _ _ _ hr
      · exact Group.rd_setRegs_above _ _ _ _ _ (by omega)
  · have hlane : (gr.setRegs b 2 0).lane l = gr.lane l := by rw [Group.lane, Group.lanes_setRegs, Group.lane]
    rw [Group.lane_advance, hlane]
    split <;> rfl

end

/-- Settles O17: each formula is the value stated, and the instruction writes it or waits; the fields of a Join are read off its two cases. -/
theorem witnessInstructions : Obligations.WitnessInstructions := by
  refine ⟨⟨fun f => ?wjoin, fun f => ?wtest, fun f => ?wwait, fun f => ?waits, fun f => ?wscop, fun f w => ?wjoinr, ?unpassed⟩, ?join⟩
  case wjoin =>
    refine witnessGives_of_witInstr (r := wjoinRes f) (fun _ => rfl) rfl rfl (fun s g x gr ps l => wjoinRes_putGroup s g x gr ps l f) ?_
    rintro s gr ps l hl ⟨w, hw⟩
    dsimp only at hw ⊢
    rw [hl, hw, wjoinRes_of_ok hw]
  case wtest =>
    refine witnessGives_of_witInstr (r := wtestRes f) (fun _ => rfl) rfl rfl (fun s g x gr ps l => wtestRes_putGroup s g x gr ps l f) ?_
    intro s gr ps l hl hfresh
    dsimp only
    rw [hl, wtestRes_of_fresh hfresh]
  case wwait =>
    refine witnessGives_of_witInstr (r := wwaitRes f) (exec_wwait f) rfl rfl (fun s g x gr ps l => wwaitRes_putGroup s g x gr ps l f) ?_
    intro s gr ps l hl hyes
    dsimp only
    rw [hl, wwaitRes_of_yes hyes, wwaitVal]
  case waits =>
    exact witInstr_waits (r := wwaitRes f) (exec_wwait f) (fun s g x gr ps l => wwaitRes_putGroup s g x gr ps l f) fun _ _ _ _ => wwaitRes_of_no
  case wscop =>
    refine witnessGives_of_witInstr (r := wscopRes f) (fun _ => rfl) rfl rfl (fun _ _ _ _ _ _ => rfl) ?_
    intro s gr ps l hl _
    rw [hl, wscopRes]
  case wjoinr =>
    intro s iss gr ps h hw
    obtain ⟨o, ho⟩ := exec_wjoinr h hw
    exact ⟨_, ho, Group.witDone_spec h rfl 2 _ o⟩
  case unpassed =>
    intro f s iss gr b hcur hg hne hgreg hc hgw hp hsw hd
    exact ⟨_, exec_wjoinr_unpassed hcur hg hgreg hc hgw hp hsw, Group.writeDst_zero_spec gr _ _ hd⟩
  case join =>
    intro s sl core a b
    refine ⟨s.join2_null_left sl core, s.join2_null_right sl core, fun ha hb => ?_⟩
    obtain ⟨hstamp, hgen, hscope⟩ := s.join2_fields sl core ha hb
    obtain ⟨hexact, hother⟩ := s.join2_kind sl core ha hb
    obtain ⟨hlea, hleb⟩ := s.le_joinScope sl core a b
    exact ⟨hstamp, hgen, hscope ▸ hlea, hscope ▸ hleb, hexact, hother⟩

end Sys2Proof.Machine

namespace Sys2Proof.Machine

/-! PROOFS. rdcr (R276, R34–R43): what an instruction that writes a destination and no latch leaves of its group, and the control registers whose
value does not rest on the free word. -/

/-! ### An instruction that writes a destination -/

section
variable {i : Instr} {once : Bool} {s : State} {iss : Issue} {gr : Group} {ps : List Nat}

/-- The group whose path moves on once `v` is written in the threads `ps`: `witDone` with OBS as it stands. -/
theorem Group.result_writeDst (h : issuing i once s = some (iss, gr, ps)) (hr : producesResult i = false) (n : Nat) (v : Nat → W128) :
    gr.result (((gr.popQueues (queuesOf i)).writeDst (use i).h.dst n ps v).advance iss (iss.path gr)) i iss n ps v := by
  obtain ⟨hcore, -, -⟩ := Group.writeDst_frame (gr.popQueues (queuesOf i)) (use i).h.dst n ps v
  obtain ⟨hwrote, hmoved, hlanes, hoq, hlatch, hfp, -⟩ :=
    Group.witDone_spec h hr n v ((gr.popQueues (queuesOf i)).writeDst (use i).h.dst n ps v).obs
  exact ⟨hwrote, hmoved, hlanes, hoq, hlatch, hfp, (congrArg Group.rest hcore :)⟩

end

/-! ### Control registers (R34) -/

/-- A control register is read off the group and off what the state holds beside its groups. -/
theorem State.crRead_putGroup (s : State) (g : Nat) (x gr : Group) (fresh : W64) (ix : W16) :
    (s.putGroup g x).crRead gr fresh ix = s.crRead gr fresh ix := rfl

/-- The free word is read in SLICE and VF of a firmware group alone. -/
theorem State.crRead_of_not_free {gr : Group} {ix : W16} (h : crFree gr ix = false) (s : State) (fresh fresh' : W64) :
    s.crRead gr fresh ix = s.crRead gr fresh' ix := by
  cases hp : gr.priv with
  | false => simp only [State.crRead, hp, Bool.false_eq_true, if_false]
  | true =>
    simp only [crFree, hp, Bool.true_and, Bool.or_eq_false_iff, beq_eq_false_iff_ne] at h
    obtain ⟨hslice, hvf⟩ := h
    unfold State.crRead
    split
    case h_14 => exact absurd (BitVec.eq_of_toNat_eq ‹ix.toNat = 0x0D›) hslice
    case h_15 => exact absurd (BitVec.eq_of_toNat_eq ‹ix.toNat = 0x0E›) hvf
    all_goals rfl

/-- The value that rdcr takes in a state: the free word is the one that the counter of free values names. -/
def State.crValue (s : State) (gr : Group) (ix : W16) : W64 := s.crRead gr ((Config.freeWord s.free).extractLsb' 0 64) ix

/-- rdcr writes the value of the register in its destination, and moves the counter of free values on where it took one. -/
theorem exec_rdcr {f : FmtS} {s : State} {iss : Issue} {gr : Group} {ps : List Nat}
    (h : issuing (.rdcr f) (isScalSpec f.h.dst) s = some (iss, gr, ps)) :
    exec (.rdcr f) s = .next ((if crFree gr f.imm then { s with free := s.free + 1 } else s).putGroup iss.g
      (((gr.popQueues (queuesOf (.rdcr f))).writeDst f.h.dst (crRegs f.imm) ps (fun _ => (s.crValue gr f.imm).zeroExtend 128)).advance
        iss (iss.path gr))) := by
  have hx : exec (.rdcr f) s = execRdcr f s := rfl
  rw [hx, execRdcr, issueWith_issuing _ h]
  dsimp only
  rw [State.crRead_putGroup]
  cases crFree gr f.imm with
  | false => exact congrArg _ (State.updGroup_putGroup ..)
  | true => exact congrArg _ (State.updGroup_putGroup { s with free := s.free + 1 } ..)

/-- Settles O18: rdcr writes the value that it reads, which is free for no register but SLICE and VF of a firmware group; the registers listed have
the value of `crRead` by definition. -/
theorem controlRegisterReads : Obligations.ControlRegisterReads := by
  refine ⟨fun f => ?fixed, fun f => ?free, fun s gr fresh => ?values⟩
  case fixed =>
    intro s iss gr ps h hfree
    have hrun := exec_rdcr h
    rw [hfree, if_neg Bool.false_ne_true, State.crValue, State.crRead_of_not_free hfree s _ 0] at hrun
    exact ⟨_, hrun, Group.result_writeDst h rfl _ _⟩
  case free =>
    intro s iss gr ps h hfree
    have hrun := exec_rdcr h
    rw [hfree, if_pos rfl] at hrun
    exact ⟨_, _, hrun, Group.result_writeDst h rfl _ _⟩
  case values => exact ⟨rfl, rfl, rfl, rfl, rfl, rfl, rfl, rfl, rfl, rfl⟩

end Sys2Proof.Machine

namespace Sys2Proof.Machine

/-! PROOFS. Scratchpad instructions (chapter 11): the state in which a lane is switched off while a request stands under the key that its own
access would have taken. -/

/-! ### A lane switched off beside a request of its key (R324) -/

/-- `lds.b32 v4, [v8]`, unguarded and without a witness. -/
def offLoad : FmtE :=
  { h := bareHdr 4, a := 8, b := noneSpec, c := noneSpec, soff := 0, width := 2, dims := 0, bt := 0, eflg := 0 }

/-- A group of one thread, whose v8 holds the scratchpad offset 128. -/
def offGroup : Group := { placedGroup with lanes := [{ run := .running, pc := placedPc, v := [(8, 128)] }] }

/-- The issue of that thread. -/
def offIssue : Issue := { g := 0, lanes := 1, pc := placedPc, first := false, second := false, other := opcode (.lds offLoad) }

/-- A block whose scratchpad is one line, which is Full: offset 128 is out of range (R315). -/
def offBlock : Block :=
  { launch := none, blockid := 0, slice := 16, vf := fwVf, ngroups := 1, bthreads := 1, vgran := 32, sgran := 16, divd := 64, scratch := 128,
    producer := 0xFFFF, quota := 1, accu := 0, partw := 0, trapvec := 0, entry := 0, args := 0, foot := [],
    shares := [{ core := 48, lines := [(0, { w := true, pend := 0 })] }], placed := true, failed := false, done := false, fltmasks := [],
    records := [], inGourd := false }

/-- The thread's load of the word at offset 0 of that line, in flight. -/
def strayReq : Req :=
  { g := 0, lane := 0, seq := 0, kind := .load, sp := some (0, 0), vf := fwVf, slice := 16, va := 0, pa := 0, home := spHome 48, coh := false,
    rchk := false, width := 2, bytes := 4, data := 0, wit := 0, wits := [0], scope := 0, hint := 0, dst := 5, pc := placedPc, issued := 0,
    fab := .unsent }

/-- The state in which the thread issues its load, with that request under the next issue number. -/
def offState : State :=
  { State.reset.putGroup 0 offGroup with
    cur := some offIssue, blocks := [(0, offBlock)], reqs := [(reqKey State.reset.nextSeq 0, strayReq)] }

/-- The load takes effect in the one thread. -/
theorem issuing_offLoad : issuing (.lds offLoad) false offState = some (offIssue, offGroup, [0]) := by decide +kernel

/-- The thread passes the checks before the range: its witness is satisfied and its address aligned (R324). -/
theorem offLoad_reaches_range : offState.sat offGroup true (offGroup.presented 0 offLoad.c) = .yes ∧
    (offGroup.src32 0 offLoad.a + offLoad.soff.signExtend 32).toNat % widthBytes offLoad.width = 0 := by decide +kernel

/-- Its address is out of range (R315). -/
theorem offLoad_out_of_range :
    offState.spAddr offGroup (offGroup.src32 0 offLoad.a + offLoad.soff.signExtend 32) (widthBytes offLoad.width) = none := by decide +kernel

/-- Does the step leave no request in flight? -/
def leavesNoReq : Host.Outcome State Fault Refusal → Bool
  | .next t => t.reqs == []
  | _ => false

/-- The step of the load performs the request that it finds under the thread's key, and finishes it. -/
theorem exec_offLoad : leavesNoReq (exec (.lds offLoad) offState) = true := by decide +kernel

/-- Refutes O25, at the clause of the lane that is switched off: it says of every state that the requests stay, and `State.access` ends with a
look at the key of each issuing thread, whatever its checks gave. Where a request stands there already, a load of a Full line in `offState`,
that request is performed and leaves. No step gives an issue number out twice, so this is no state that a run is meant to reach; but the clause
lacks the premise that `State.fullAt` has, that the keys in flight lie below the next issue number. -/
theorem not_scratchpadInstructions : ¬ Obligations.ScratchpadInstructions := by
  unfold Obligations.ScratchpadInstructions
  rintro ⟨-, -, hoff, -⟩
  obtain ⟨hldsOff, -, -⟩ := hoff offLoad
  obtain ⟨hsat, haligned⟩ := offLoad_reaches_range
  obtain ⟨t, -, hrun, -, -, -, hreqs, -⟩ :=
    hldsOff offState offIssue offGroup 0 issuing_offLoad hsat haligned (.inl offLoad_out_of_range)
  have hnone : leavesNoReq (.next t) = true := hrun ▸ exec_offLoad
  exact List.cons_ne_nil _ _ (hreqs.symm.trans (beq_iff_eq.mp hnone))

end Sys2Proof.Machine
